-- ==== Sys2Proof/Word.lean ====
section
/-! DEFINITION. The word types of the Sorente Zelolaisk (R5, R12, R15, R18) and the sparse store every
table, register file and memory of the model is held in. -/

namespace Sys2Proof

/-- A byte of memory (R5). -/
abbrev Byte := BitVec 8
/-- A 32-bit register: v, w, PC, MR (R12, R15, R19). -/
abbrev W32 := BitVec 32
/-- A 64-bit instruction word, literal, or register pair (R18, R39). -/
abbrev W64 := BitVec 64
/-- An 80-bit virtual address (R18, R29). -/
abbrev Addr := BitVec 80

/-- The value 0xFFFF_FFFF: "no meeting" (R12), the null handle (R27), the empty chain (R236). -/
def noMeeting : W32 := 0xFFFFFFFF#32

/-- A sparse store: keys strictly rising, and no entry equal to the default value of an unlisted key. -/
abbrev SMap (α : Type) := List (Nat × α)

namespace SMap

/-- The value at a key; the default where the key is unlisted. -/
def get {α : Type} (d : α) : SMap α → Nat → α
  | [], _ => d
  | (j, x) :: m, k => if j = k then x else get d m k

/-- Insert or replace the value at a key, whatever the value. -/
def insert {α : Type} (k : Nat) (x : α) : SMap α → SMap α
  | [] => [(k, x)]
  | (j, y) :: m =>
    if k < j then (k, x) :: (j, y) :: m
    else if j = k then (k, x) :: m
    else (j, y) :: insert k x m

/-- Remove a key. -/
def erase {α : Type} (k : Nat) (m : SMap α) : SMap α := m.filter (fun c => c.1 != k)

/-- Write a value: the default value is not listed, so writing it removes the entry. -/
def put {α : Type} [DecidableEq α] (d : α) (m : SMap α) (k : Nat) (x : α) : SMap α :=
  if x = d then erase k m else insert k x m

/-- The keys listed. -/
def keys {α : Type} (m : SMap α) : List Nat := m.map (·.1)

/-- The canonical form: keys strictly rising, no entry holding the default. -/
def wf {α : Type} [DecidableEq α] (d : α) : SMap α → Bool
  | [] => true
  | [(_, x)] => decide (x ≠ d)
  | (j, x) :: (k, y) :: m => decide (x ≠ d) && decide (j < k) && wf d ((k, y) :: m)

end SMap

end Sys2Proof
end

