-- ==== Sys2Proof/Config.lean ====
section
/-! DEFINITION. The figures that are the same in every part (R3, R16, R24, R28), and the free values: constants
without a body, so that nothing in Lean can evaluate them or prove what they are. -/

namespace Sys2Proof.Config

/-- Register rows of a core (R16). -/
def regRows : Nat := 3072
/-- Group slots of a core (R16). -/
def groupSlots : Nat := 32
/-- Tiles of a core's accumulator store (R24). -/
def tilesPerCore : Nat := 64
/-- Bytes of a core's scratchpad (R28). -/
def spadBytes : Nat := 2 ^ 20
/-- Bytes of a core's scratchpad that hash-table claims may take (R28, R235). -/
def hashClaimBytes : Nat := 524288
/-- Pending tokens a group may hold (R20). -/
def maxTokens : Nat := 8
/-- Work queues (R334). -/
def workQueues : Nat := 131072
/-- Module power at which the cap acts, in watts (R397). -/
def powerCap : Nat := 2700

/-- A value the spec leaves open, drawn afresh at each use: the step applies it to the counter State.freeCtr and
advances the counter. Its uses are listed in the assumption log. DESIGN CHOICE, log 4. -/
opaque freeValue : Nat → BitVec 64

/-- The set of a second-level cache slice that a line falls in (R310 gives the slice and not the set).
DESIGN CHOICE, log 5. -/
opaque l2Set : Nat → Nat → Nat

/-- Where the block-transfer apertures lie in the device's physical addresses, that of identifier a 65,536 × a further on
(R217, R318). DESIGN CHOICE, log 141. -/
opaque apertureBase : Nat

/-- The translation of a Narano section for a device class (R332 makes it a function of the two and does not give
it): none where the translation fails; otherwise the placed code, the segment table and the kernel table.
DESIGN CHOICE, log 5. -/
opaque narano : List (BitVec 8) → Nat → Option (List (BitVec 8) × List (BitVec 8) × List (BitVec 8))

/-- The device class a Narano section names: 0 none (R332). DESIGN CHOICE, log 5. -/
opaque naranoClass : List (BitVec 8) → Nat

/-- A signature of the device's identity key over a message (R366, R399, R400): the key is the device's own.
DESIGN CHOICE, log 5. -/
opaque sign : List (BitVec 8) → Nat → List (BitVec 8)

/-- The hash of a destination line over a number of up paths (R352 names it and does not give it). DESIGN CHOICE, log 5. -/
opaque linePath : Nat → Nat → Nat

end Sys2Proof.Config
end

