-- ==== Sys2Proof/Syntax.lean ====
section
/-! DEFINITION. The steps of the machine as syntax: one constructor per row of spec/opcode_table.json. The rows
of instruction words carry the fields of their format (R45 to R56); the rows of device events carry what
reaches the device from outside, or which of its own activities the event is about. -/

namespace Sys2Proof

/-- A guard (R46): absent, or a predicate number with its negation bit N. -/
inductive Guard where
  /-- G = 0: unguarded, N and P zero. -/
  | always
  /-- G = 1: active where predicate `p` XOR `neg` is 1. -/
  | on (neg : Bool) (p : BitVec 3)
deriving DecidableEq, Repr

/-- A source field with its operand class (R48). The payload is the 8-bit field as it stands. -/
inductive Src where
  /-- class 0b00: v register, pair or triple -/
  | v (n : BitVec 8)
  /-- class 0b01: w register, pair or triple -/
  | w (n : BitVec 8)
  /-- class 0b10: short immediate (R51) -/
  | imm (x : BitVec 8)
  /-- class 0b11: literal index (R57) -/
  | lit (i : BitVec 8)
deriving DecidableEq, Repr

/-- TYPE codes (R56). -/
inductive Ty where
  | b32 | s8 | s16 | s32 | s64 | n8 | n16 | n32 | n64 | f32 | bf16 | f16 | e4m3 | e5m2 | e3m2 | e2m3 | fq4 | t2 | b1
deriving DecidableEq, Repr

/-- SCOPE codes of format M (R54) and FENCE (R161). -/
inductive Scope where
  | quad | group | block | gang | package | domain | system | none
deriving DecidableEq, Repr

/-- ORD codes of format M (R54). -/
inductive Ord where
  | plain | acquire | release | acqrel
deriving DecidableEq, Repr

/-- Format A (R50). -/
structure FmtA where
  guard : Guard
  keep : Bool
  mod : BitVec 4
  dst : BitVec 8
  a : Src
  b : Src
  c : Src
  ty : Ty
  sat : Bool
deriving DecidableEq, Repr

/-- Format W (R52): a 28-bit immediate. -/
structure FmtW where
  guard : Guard
  keep : Bool
  mod : BitVec 4
  dst : BitVec 8
  a : BitVec 8
  imm : BitVec 28
deriving DecidableEq, Repr

/-- Format J (R53): a clause offset in 8-byte units. -/
structure FmtJ where
  guard : Guard
  keep : Bool
  mod : BitVec 4
  dst : BitVec 8
  off : BitVec 36
deriving DecidableEq, Repr

/-- Format M (R54): memory access. -/
structure FmtM where
  guard : Guard
  keep : Bool
  mod : BitVec 4
  dst : BitVec 8
  a : BitVec 8
  b : BitVec 8
  off : Src
  ty : Ty
  scope : Scope
  ord : Ord
deriving DecidableEq, Repr

/-- Format E (R55): the opcode fixes the kinds of the fields; EXT is IMM12. -/
structure FmtE where
  guard : Guard
  keep : Bool
  mod : BitVec 4
  dst : BitVec 8
  a : BitVec 8
  b : BitVec 8
  c : BitVec 8
  imm : BitVec 12
deriving DecidableEq, Repr

/-- Where a DUE bin's records are forwarded (R274). -/
inductive FwdTarget where
  /-- another core of this device, on the same die or another -/
  | core (id : Nat)
  /-- another device of the load-store domain -/
  | device (ep : Nat)
deriving DecidableEq, Repr

namespace Machine

/-- A blocked push or pop (R173). -/
structure QWaiter where
  seq : Nat
  q : Nat
  push : Bool
  value : W32
deriving DecidableEq, Repr

/-- A claimed hash table (R234), with the bucket exponent of its claim (R235). -/
structure HashTable where
  off : Nat
  bexp : Nat
  kw : Bool
  vw : Bool
  claimed : Bool
deriving DecidableEq, Repr

/-- A block on a core (R10, R338): its allocation, quotas, barriers, queues and hash tables. -/
structure Block where
  asid : Nat
  launch : Nat
  num : Nat
  core : Nat
  spadBase : Nat
  spadSize : Nat
  tbarQuota : Nat
  queueQuota : Nat
  boundQuota : Nat
  /-- offsets of live scratchpad barriers (R168) -/
  tbars : List Nat
  /-- queue map: header offset + 1; 0 is an empty entry (R172) -/
  qmap : SMap Nat
  waiters : List QWaiter
  waiterSeq : Nat
  /-- hash-table map (R234) -/
  htabs : SMap HashTable
  /-- GANG, blocks per gang minus one, and the index within it; the cores of the gang's blocks in order (R338) -/
  gang : Nat
  gangIndex : Nat
  gangCores : List Nat
  /-- pool units reserved for its image (R383) -/
  imageUnit : Nat
  imageUnits : Nat
  /-- its image is saved: the context is switched out (R382) -/
  saved : Bool
  image : SMap Byte
  imagePoison : SMap Bool
deriving DecidableEq, Repr

end Machine

/-- A record as it travels between devices (R261, R273 to R276): header doublewords D0 to D31, the register words in the
order of the register area with those that are poisoned, the domain context number and the variant digest of the sender,
the completion value where the record's event has fired, and for a block-bound record its block. -/
structure RecordImage where
  words : List W64
  regs : List W32
  poison : SMap Bool
  dctx : BitVec 16
  digest : List Byte
  value : Option W32
  block : Option Machine.Block
deriving DecidableEq, Repr

/-- Classes of counted traffic and of its refusals (R351, R402). -/
inductive PktClass where
  | write | zeroLine | engineWrite | flag
deriving DecidableEq, Repr

/-- A counted packet or flag on the fabric (R351). `bytes` pairs a byte offset from `addr` with its value (the byte
mask of the write classes); a flag carries `count` and `value`. -/
structure Packet where
  cls : PktClass
  src : Nat
  dst : Nat
  dctx : BitVec 16
  slot : Nat
  span : BitVec 8
  gen : BitVec 2
  stamp : W32
  addr : Nat
  bytes : List (Nat × Byte)
  count : Nat
  value : W32
deriving DecidableEq, Repr

/-- What a remote request asks (R351): a read, or an atomic whose new value the target computes. -/
inductive RemoteOp where
  | read
  | atomic (op : BitVec 3) (ty : Ty) (operand : List Byte) (compare : List Byte)
  | nibble (high : Bool) (code : BitVec 4)
  /-- an operation on a barrier of the target (R166, R167): 0 initialise with x arrivals, 1 arrive with x after adding y
  sectors, 2 add y sectors, 3 read, 4 wait until the phase is no longer x, 5 land x sectors -/
  | barrier (kind : BitVec 3) (x y : Nat)
deriving DecidableEq, Repr

/-- A remote read or atomic request (R305, R351). -/
structure RemoteReq where
  id : Nat
  src : Nat
  dst : Nat
  dctx : BitVec 16
  addr : Nat
  len : Nat
  op : RemoteOp
deriving DecidableEq, Repr

/-- How a remote request was answered (R354, R355). -/
inductive RemoteStatus where
  | ok | refused | poisoned | unreachable
deriving DecidableEq, Repr

/-- A host access through a BAR (R368): BAR4 memory, the aperture of BAR2, or a device register of BAR0. -/
inductive HostAccess where
  | writeMem (pa : Nat) (bytes : List Byte)
  | readMem (pa : Nat) (len : Nat)
  | writeReg (off : Nat) (v : W64)
  | readReg (off : Nat)
  | aperture (asid : Nat) (off : BitVec 16) (x : W32)
  | readAperture (asid : Nat) (off : BitVec 16)
deriving DecidableEq, Repr

/-- The mailbox command in progress (R369): the function it came by and the bus address of its block. -/
structure MbxCmd where
  fn : Nat
  block : Nat
deriving DecidableEq, Repr

/-- A detected memory error (R380): the unit code of R402, die, core, location within the unit, and whether SECDED
corrected it. -/
structure SoftError where
  unit : Nat
  die : Nat
  core : Nat
  loc : Nat
  corrected : Bool
deriving DecidableEq, Repr

/-- A unit that is trained at a start (R390). -/
inductive TrainUnit where
  | stack (n : Nat) | channels (group : Nat) | port (n : Nat)
deriving DecidableEq, Repr

/-- How a boot stage ended (R389 to R393): done, with what the stage found, or failed with a CAUSE code. -/
inductive StageOutcome where
  /-- the stage is done; `ms` is the time since power-good in milliseconds and `trained` what a full training of units
  found -/
  | done (ms : Nat) (trained : List (TrainUnit × List Byte))
  /-- the stage failed with a cause of R393 -/
  | failed (cause : BitVec 8)
deriving DecidableEq, Repr

/-- The steps of the opcode table. DESIGN CHOICE, log 6. -/
inductive Instr where
  /-- IADD (R106): Integer add, modulo the type width or saturating. -/
  | iadd (f : FmtA)
  /-- ISUB (R106): Integer subtract, modulo the type width or saturating. -/
  | isub (f : FmtA)
  /-- IADDC (R109): 32-bit add with carry in and carry out through a predicate. -/
  | iaddc (f : FmtA)
  /-- ISUBB (R109): 32-bit subtract with borrow in and borrow out through a predicate. -/
  | isubb (f : FmtA)
  /-- IMUL (R106): Integer multiply, low bits or saturating. -/
  | imul (f : FmtA)
  /-- IMULH (R106): High 32 bits of the 64-bit integer product. -/
  | imulh (f : FmtA)
  /-- IMAD (R106): 32-bit integer multiply-add. -/
  | imad (f : FmtA)
  /-- IMAD64 (R107): Multiply-add of 32-bit operands into a 64-bit pair. -/
  | imad64 (f : FmtA)
  /-- IMIN (R106): Integer minimum. -/
  | imin (f : FmtA)
  /-- IMAX (R106): Integer maximum. -/
  | imax (f : FmtA)
  /-- IABS (R106): Integer absolute value. -/
  | iabs (f : FmtA)
  /-- INEG (R106): Integer negation. -/
  | ineg (f : FmtA)
  /-- DOT4 (R108): Four-element 8-bit dot product added to an accumulator. -/
  | dot4 (f : FmtA)
  /-- AND (R110): Bitwise and. -/
  | and (f : FmtA)
  /-- OR (R110): Bitwise or. -/
  | or (f : FmtA)
  /-- XOR (R110): Bitwise exclusive or. -/
  | xor (f : FmtA)
  /-- ANDN (R110): Bitwise and with the complement of the second operand. -/
  | andn (f : FmtA)
  /-- NOT (R110): Bitwise complement. -/
  | not (f : FmtA)
  /-- SHL (R110): Logical shift left. -/
  | shl (f : FmtA)
  /-- SHR (R110): Logical shift right. -/
  | shr (f : FmtA)
  /-- SAR (R110): Arithmetic shift right. -/
  | sar (f : FmtA)
  /-- ROTL (R110): Rotate left. -/
  | rotl (f : FmtA)
  /-- POPC (R110): Population count. -/
  | popc (f : FmtA)
  /-- CLZ (R110): Count leading zeros. -/
  | clz (f : FmtA)
  /-- CTZ (R110): Count trailing zeros. -/
  | ctz (f : FmtA)
  /-- BREV (R110): Bit reversal. -/
  | brev (f : FmtA)
  /-- BFX (R111): Bit-field extract with zero or sign extension. -/
  | bfx (f : FmtA)
  /-- BFI (R111): Bit-field insert. -/
  | bfi (f : FmtA)
  /-- PRMT (R111): Byte permute of two source registers. -/
  | prmt (f : FmtA)
  /-- SEL (R112): Select one of two values by a predicate. -/
  | sel (f : FmtA)
  /-- MOV (R112): Register move. -/
  | mov (f : FmtA)
  /-- MOVI (R112): Move a 28-bit immediate, extended or shifted as MOD selects. -/
  | movi (f : FmtW)
  /-- MOVW (R112): Per-lane indexed read of a uniform register. -/
  | movw (f : FmtA)
  /-- WMOV (R112): Write a uniform register once for the group. -/
  | wmov (f : FmtA)
  /-- AADD (R113): Add an offset to an 80-bit address with window checks. -/
  | aadd (f : FmtA)
  /-- ASUB (R113): Subtract an offset from an 80-bit address with window checks. -/
  | asub (f : FmtA)
  /-- ADIFF (R113): Difference of two addresses in one window. -/
  | adiff (f : FmtA)
  /-- ACMP (R113): Compare two 80-bit addresses into a predicate. -/
  | acmp (f : FmtA)
  /-- AMOVI (R113): Move a uniform or literal address triple into v registers. -/
  | amovi (f : FmtA)
  /-- SPTEST (R114): Test the window or locality of an address into a predicate. -/
  | sptest (f : FmtA)
  /-- SPCAST (R115): Rewrite a scratchpad or cluster-shared pointer into another form. -/
  | spcast (f : FmtA)
  /-- FADD (R116): Floating-point add rounded once. -/
  | fadd (f : FmtA)
  /-- FSUB (R116): Floating-point subtract rounded once. -/
  | fsub (f : FmtA)
  /-- FMUL (R116): Floating-point multiply rounded once. -/
  | fmul (f : FmtA)
  /-- FFMA (R116): Fused multiply-add with one rounding. -/
  | ffma (f : FmtA)
  /-- FMIN (R117): Floating-point minimum with NaN rule chosen by MOD[3]. -/
  | fmin (f : FmtA)
  /-- FMAX (R117): Floating-point maximum with NaN rule chosen by MOD[3]. -/
  | fmax (f : FmtA)
  /-- FRCP (R118): Correctly rounded reciprocal. -/
  | frcp (f : FmtA)
  /-- FRSQ (R118): Reciprocal square root. -/
  | frsq (f : FmtA)
  /-- FSQRT (R118): Correctly rounded square root. -/
  | fsqrt (f : FmtA)
  /-- FEX2 (R118): Base-2 exponential. -/
  | fex2 (f : FmtA)
  /-- FLG2 (R118): Base-2 logarithm. -/
  | flg2 (f : FmtA)
  /-- FSIN (R118): Sine in radians. -/
  | fsin (f : FmtA)
  /-- FCOS (R118): Cosine in radians. -/
  | fcos (f : FmtA)
  /-- FTANH (R118): Hyperbolic tangent. -/
  | ftanh (f : FmtA)
  /-- FCLASS (R119): One-hot class mask of a floating-point value. -/
  | fclass (f : FmtA)
  /-- FRND (R116): Round to an integral value of the type. -/
  | frnd (f : FmtA)
  /-- FSCALE (R116): Multiply by a power of two. -/
  | fscale (f : FmtA)
  /-- FCVT (R120): Float-to-float conversion. -/
  | fcvt (f : FmtA)
  /-- ICVT (R120): Integer-to-integer or integer-to-float conversion. -/
  | icvt (f : FmtA)
  /-- FICVT (R120): Float-to-integer conversion. -/
  | ficvt (f : FmtA)
  /-- PKADD (R121): Packed two-element 16-bit float add. -/
  | pkadd (f : FmtA)
  /-- PKMUL (R121): Packed two-element 16-bit float multiply. -/
  | pkmul (f : FmtA)
  /-- PKFMA (R121): Packed two-element 16-bit float fused multiply-add. -/
  | pkfma (f : FmtA)
  /-- PKCVT (R122): Convert two FP32 values into a packed narrow format. -/
  | pkcvt (f : FmtA)
  /-- ICMP (R123): Integer compare combined with a predicate into a predicate. -/
  | icmp (f : FmtA)
  /-- FCMP (R123): Floating-point compare combined with a predicate into a predicate. -/
  | fcmp (f : FmtA)
  /-- PSET (R124): Set a predicate from a non-zero test. -/
  | pset (f : FmtA)
  /-- PAND (R124): Predicate and. -/
  | pand (f : FmtA)
  /-- POR (R124): Predicate or. -/
  | por (f : FmtA)
  /-- PXOR (R124): Predicate exclusive or. -/
  | pxor (f : FmtA)
  /-- PNOT (R124): Predicate complement. -/
  | pnot (f : FmtA)
  /-- PMOV (R124): Predicate move. -/
  | pmov (f : FmtA)
  /-- PPACK (R124): Pack p0-p7 into bits 7:0 of a v register. -/
  | ppack (f : FmtA)
  /-- PUNPK (R124): Unpack bits into p0-p7. -/
  | punpk (f : FmtA)
  /-- PUNPK_MASK (R124): Unpack bits into the predicates selected by a mask. -/
  | punpkMask (f : FmtA)
  /-- QSWZ (R125): Swizzle values among the positions of a quad. -/
  | qswz (f : FmtA)
  /-- QXCH (R125): Exchange values with a neighbouring quad position. -/
  | qxch (f : FmtA)
  /-- QRED (R125): Reduce over the active positions of a quad. -/
  | qred (f : FmtA)
  /-- QDIFF (R125): Horizontal or vertical difference within a quad. -/
  | qdiff (f : FmtA)
  /-- QHELP (R125): Predicate telling whether the lane is HELPER. -/
  | qhelp (f : FmtA)
  /-- GVOTE (R126): All, any or uniform vote over active lanes. -/
  | gvote (f : FmtA)
  /-- GBALLOT (R126): Mask of active lanes holding a predicate. -/
  | gballot (f : FmtA)
  /-- GSHFL (R126): Shuffle values between lanes of the group. -/
  | gshfl (f : FmtA)
  /-- GBCST (R126): Broadcast one lane's value. -/
  | gbcst (f : FmtA)
  /-- GRED (R127): Reduction over active lanes in ascending lane order. -/
  | gred (f : FmtA)
  /-- GSCAN (R127): Inclusive or exclusive prefix over active lanes. -/
  | gscan (f : FmtA)
  /-- GMATCH (R126): Mask of active lanes with an equal value. -/
  | gmatch (f : FmtA)
  /-- GTOPK (R128): Mask of the top k active lanes by value. -/
  | gtopk (f : FmtA)
  /-- GCOUNT (R126): Count of active lanes holding a predicate. -/
  | gcount (f : FmtA)
  /-- NOP (R133): No operation. -/
  | nop (f : FmtE)
  /-- BRA (R131): Relative branch in each active lane. -/
  | bra (f : FmtJ)
  /-- BRC (R131): Decrement a counter and branch while non-zero. -/
  | brc (f : FmtJ)
  /-- BRX (R132): Indirect branch to a per-lane target. -/
  | brx (f : FmtE)
  /-- CALL (R131): Relative call writing the link register. -/
  | call (f : FmtJ)
  /-- CALLX (R132): Indirect call writing the link register. -/
  | callx (f : FmtE)
  /-- RET (R132): Return to the clause in v31. -/
  | ret (f : FmtE)
  /-- MEET (R131): Set the meeting register to a target clause. -/
  | meet (f : FmtJ)
  /-- MEET_CLEAR (R131): Clear the meeting register. -/
  | meetClear (f : FmtJ)
  /-- EXIT (R134): End the thread of each active lane. -/
  | exit (f : FmtE)
  /-- PARK (R137): End the segment with a record keyed to the wake event MOD selects. -/
  | park (f : FmtE)
  /-- YIELD (R138): End the segment with a record ready at once. -/
  | yield (f : FmtE)
  /-- HINT_0 (R64): Mark active quads as preferred for forwarding. -/
  | hint0 (bits : BitVec 54)
  /-- HINT_1 (R64): Write the count of resident groups on the core. -/
  | hint1 (bits : BitVec 54)
  /-- HINT_UNIMPLEMENTED (R63): An unimplemented hint retires as a no-operation. -/
  | hintUnimplemented (n : BitVec 6) (bits : BitVec 54)
  /-- LD (R149): Per-lane load into v registers. -/
  | ld (f : FmtM)
  /-- ST (R149): Per-lane store from v registers. -/
  | st (f : FmtM)
  /-- LDW (R150): Uniform load into w registers. -/
  | ldw (f : FmtM)
  /-- STW (R149): Uniform store from w registers. -/
  | stw (f : FmtM)
  /-- LDX (R149): Per-lane load of 2, 4 or 8 words. -/
  | ldx (f : FmtM)
  /-- STX (R149): Per-lane store of 2, 4 or 8 words. -/
  | stx (f : FmtM)
  /-- NIBST (R151): Atomic store of one 4-bit half of a byte. -/
  | nibst (f : FmtM)
  /-- ATOM (R153): Per-lane atomic read-modify-write applied page by page. -/
  | atom (f : FmtM)
  /-- ATOMW (R152): Uniform atomic read-modify-write. -/
  | atomw (f : FmtM)
  /-- PREF (R156): Prefetch into a cache level. -/
  | pref (f : FmtM)
  /-- DCZ (R157): Zero a line-aligned range in each lane. -/
  | dcz (f : FmtM)
  /-- LLOCK (R158): Pin lines in the die's second-level cache. -/
  | llock (f : FmtM)
  /-- LULOCK (R158): Release pinned lines. -/
  | lulock (f : FmtM)
  /-- CWB (R159): Write back dirty lines of a range. -/
  | cwb (f : FmtM)
  /-- CINV (R159): Write back and invalidate lines of a range. -/
  | cinv (f : FmtM)
  /-- ICINV (R160): Invalidate instruction caches on every die. -/
  | icinv (f : FmtM)
  /-- FENCE (R161): Acquire and/or release fence at a scope. -/
  | fence (f : FmtE)
  /-- AWAIT (R162): Wait on a token, parking if it is pending. -/
  | await (f : FmtE)
  /-- TBINIT (R169): Initialise or retire a transaction barrier. -/
  | tbinit (f : FmtE)
  /-- TBARV (R169): Arrive at a transaction barrier, optionally posting sectors. -/
  | tbarv (f : FmtE)
  /-- TBEXP (R169): Post expected sectors to a barrier. -/
  | tbexp (f : FmtE)
  /-- TBWAIT (R170): Wait on a barrier phase, parking if it has not changed. -/
  | tbwait (f : FmtE)
  /-- TBPHASE (R169): Read a barrier's phase and pending arrivals. -/
  | tbphase (f : FmtE)
  /-- QINIT (R172): Initialise or retire a tile-handle queue. -/
  | qinit (f : FmtE)
  /-- QPUSH (R173): Push a value, parking as a waiter if it may not proceed. -/
  | qpush (f : FmtE)
  /-- QPOP (R173): Pop a value, parking as a waiter if it may not proceed. -/
  | qpop (f : FmtE)
  /-- QTRY_POP (R173): Non-blocking pop. -/
  | qtryPop (f : FmtE)
  /-- QTRY_PUSH (R173): Non-blocking push. -/
  | qtryPush (f : FmtE)
  /-- QGRANT (R174): Add to a queue's send allowance and serve push waiters. -/
  | qgrant (f : FmtE)
  /-- QSTAT (R174): Read a queue's occupancy or allowance. -/
  | qstat (f : FmtE)
  /-- MMA (R185): Dense matrix multiply-accumulate into a tile. -/
  | mma (f : FmtE)
  /-- MMAU (R192): Matrix multiply with an A operand unfolded from activations. -/
  | mmau (f : FmtE)
  /-- MMAS (R189): Structured-sparse matrix multiply-accumulate. -/
  | mmas (f : FmtE)
  /-- UDESC (R191): Load and check an unfold descriptor into eight w registers. -/
  | udesc (f : FmtE)
  /-- ACLR (R193): Clear every entry of a tile. -/
  | aclr (f : FmtE)
  /-- ALD (R193): Load a dense tile from memory. -/
  | ald (f : FmtE)
  /-- ALD_SPARSE (R195): Load a tile from a sparse tile image. -/
  | aldSparse (f : FmtE)
  /-- AST (R193): Store a tile densely to memory. -/
  | ast (f : FmtE)
  /-- ASTS (R194): Store a tile as a sparse or dense image within a budget. -/
  | asts (f : FmtE)
  /-- ACVT (R196): Scale and convert every entry of a tile in place. -/
  | acvt (f : FmtE)
  /-- AQUANT (R197): Quantise a tile into FQ4 blocks. -/
  | aquant (f : FmtE)
  /-- ATOPK (R200): Top-k masks per tile row, optionally pruning. -/
  | atopk (f : FmtE)
  /-- AREDR (R201): Reduce each tile row into a lane. -/
  | aredr (f : FmtE)
  /-- ABIND (R202): Bind a tile slot to a tile-store handle, optionally loading it. -/
  | abind (f : FmtE)
  /-- AUNBIND (R203): Remove a tile binding. -/
  | aunbind (f : FmtE)
  /-- AUNBIND_FLUSH (R203): Flush a bound tile to its image and remove the binding. -/
  | aunbindFlush (f : FmtE)
  /-- AFLUSH (R203): Write a bound tile to its image. -/
  | aflush (f : FmtE)
  /-- KSET (R205): Set one tile predicate. -/
  | kset (f : FmtE)
  /-- KSET_MASK (R205): Set all tile predicates from a mask. -/
  | ksetMask (f : FmtE)
  /-- KAND (R205): Tile predicate and. -/
  | kand (f : FmtE)
  /-- KOR (R205): Tile predicate or. -/
  | kor (f : FmtE)
  /-- KNOT (R205): Tile predicate complement. -/
  | knot (f : FmtE)
  /-- KTEST (R205): Copy a tile predicate into a predicate. -/
  | ktest (f : FmtE)
  /-- KTEST_MASK (R205): Pack all tile predicates into a w register. -/
  | ktestMask (f : FmtE)
  /-- XTMPL (R215): Check and write a copy template into the table. -/
  | xtmpl (f : FmtE)
  /-- XCOPY (R216): Start a templated copy on the copy engine. -/
  | xcopy (f : FmtE)
  /-- XGATH (R219): Start a gather of indexed rows into the scratchpad. -/
  | xgath (f : FmtE)
  /-- XSCAT (R219): Start a scatter of scratchpad rows to indexed table rows. -/
  | xscat (f : FmtE)
  /-- SINTER (R221): Start a sorted-stream intersection, counting or emitting. -/
  | sinter (f : FmtE)
  /-- SMERGE (R221): Start a sorted-stream merge. -/
  | smerge (f : FmtE)
  /-- MRED (R225): Contribute a packet to a mesh reduction round. -/
  | mred (f : FmtE)
  /-- MRCV (R226): Receive a mesh round's result at the root. -/
  | mrcv (f : FmtE)
  /-- MRSEL_OPEN (R224): Open or reconfigure a mesh reduction channel. -/
  | mrselOpen (f : FmtE)
  /-- MRSEL_CLOSE (R224): Close a mesh reduction channel. -/
  | mrselClose (f : FmtE)
  /-- XSLOT (R228): Select the fabric send slot. -/
  | xslot (f : FmtE)
  /-- XSTC (R231): Read the send state of a destination and slot. -/
  | xstc (f : FmtE)
  /-- XFLAG (R232): Close a span with a counted flag after draining and awaiting copies. -/
  | xflag (f : FmtE)
  /-- HTCLAIM (R239): Claim a scratchpad hash table. -/
  | htclaim (f : FmtE)
  /-- HTFREE (R240): Free a hash table after any drain. -/
  | htfree (f : FmtE)
  /-- HTINS (R243): Insert keys with values. -/
  | htins (f : FmtE)
  /-- HTPROBE (R243): Look up keys. -/
  | htprobe (f : FmtE)
  /-- HTDEL (R243): Delete keys. -/
  | htdel (f : FmtE)
  /-- HTACC (R243): Accumulate values into entries by key. -/
  | htacc (f : FmtE)
  /-- HTDRAIN (R247): Start a drain of a hash table to memory. -/
  | htdrain (f : FmtE)
  /-- HTSTAT (R248): Read a hash table's count, spills or configuration. -/
  | htstat (f : FmtE)
  /-- SREAD (R253): Read a system register. -/
  | sread (f : FmtE)
  /-- SWRITE (R253): Write a system register. -/
  | swrite (f : FmtE)
  /-- TSTAMP (R256): Read the global timestamp. -/
  | tstamp (f : FmtE)
  /-- TRAP (R257): Raise the user trap. -/
  | trap (f : FmtE)
  /-- BKPT (R257): Raise the breakpoint trap. -/
  | bkpt (f : FmtE)
  /-- TRET (R258): Return from the trap handler and reissue the trapping word. -/
  | tret (f : FmtE)
  /-- TRET_SKIP (R258): Return from the trap handler past the trapping word. -/
  | tretSkip (f : FmtE)
  /-- ECALL (R259): Send a service request to the supervisor. -/
  | ecall (f : FmtE)
  /-- LAUNCH (R252): Append a launch record to a work queue from device code. -/
  | launch (f : FmtE)
  /-- TKRSV (R250): Reserve a task slot. -/
  | tkrsv (f : FmtE)
  /-- TKPUB (R250): Publish a delta-coded task record with a dependence count. -/
  | tkpub (f : FmtE)
  /-- TKSIG (R250): Signal a task's dependences. -/
  | tksig (f : FmtE)
  /-- RESERVED_OPCODE (R62): An instruction word whose OPC is reserved or permanently illegal issues and raises the illegal-instruction trap. -/
  | reservedOpcode (word : W64)
  /-- MATRIX_OP_COMPLETE (R176): A matrix engine operation finishes and its tile stops pending. -/
  | matrixOpComplete (op : Nat)
  /-- XFLAG_SEND (R232): Once earlier copies finish, the span is closed and the flag sent on its paths. -/
  | xflagSend (op : Nat)
  /-- ECALL_REPLY (R259): The supervisor's reply completes the ECALL token. -/
  | ecallReply (op : Nat) (reply : W32)
  /-- EMERGENCY_RECORD_COPY (R267): A spilled emergency record is copied into the pool once units are free. -/
  | emergencyRecordCopy (rid : Nat)
  /-- ENGINE_OP_START (R207): The copy engine takes a queued operation to run. -/
  | engineOpStart (op : Nat)
  /-- ENGINE_CHUNK (R209): The engine translates and carries out one chunk of an operation. -/
  | engineChunk (op : Nat)
  /-- BIN_AGE_EXPIRY (R269): A filling bin reaches BIN_AGE and becomes DUE. -/
  | binAgeExpiry (rid : Nat)
  /-- BIN_DRAIN (R271): A DUE bin's oldest records are loaded into a new group on a core with room. -/
  | binDrain (rid : Nat) (core : Nat)
  /-- BIN_FORWARD (R273): Records of a DUE bin are forwarded to another core, die or device. -/
  | binForward (rid : Nat) (target : FwdTarget)
  /-- BATCH_FIRE (R283): Every page of a fault batch is resident or denied and its records become ready. -/
  | batchFire (batch : Nat)
  /-- MIGRATION_FETCH (R328): A storage-tier page of a batch is fetched through the host into tier 0. -/
  | migrationFetch (batch : Nat) (va : Addr) (frame : Nat) (data : List Byte)
  /-- MIGRATION_DEMOTE (R327): FREE below LOW makes the migration engine demote cold pages. -/
  | migrationDemote (asid : Nat) (va : Addr) (frame : Nat) (tier : Nat)
  /-- MIGRATION_PROMOTE (R327): A page reaching PROMOTE_HITS in the window is promoted to tier 0. -/
  | migrationPromote (asid : Nat) (va : Addr) (frame : Nat)
  /-- WCB_AGE_EXPIRY (R230): An entry open for WCB_AGE drains. -/
  | wcbAgeExpiry (core : Nat) (key : Nat)
  /-- DOORBELL_WRITE (R335): A doorbell store updates a launch queue's TAIL or stops the queue. -/
  | doorbellWrite (q : Nat) (t : W32)
  /-- LAUNCH_FETCH (R337): An active queue fetches, numbers and checks its next launch record. -/
  | launchFetch (q : Nat)
  /-- BLOCK_START (R338): A block starts all its groups on a core, or a gang on a cluster, with room. -/
  | blockStart (launch : Nat) (cores : List Nat)
  /-- AGE_PROMOTION_RECLAIM (R345): A priority-7 candidate without room for an AGE_STEP makes the scheduler reclaim a core. -/
  | agePromotionReclaim (core : Nat)
  /-- PM_WINDOW_EXPIRY (R348): A progress window with no progress events freezes a partition holding internal work. -/
  | pmWindowExpiry (part : Nat)
  /-- PART_UNFREEZE (R342): Writing 1 to FROZEN resumes the partition. -/
  | partUnfreeze (part : Nat)
  /-- EXTERNAL_DEADLINE (R349): A record exceeding EXT_DL raises the external-deadline fault. -/
  | externalDeadline (rid : Nat)
  /-- MAINT_OP_COMPLETE (R159): A cache maintenance range is done and its token written. -/
  | maintOpComplete (op : Nat)
  /-- MRCV_RESULT_WRITE (R226): A ready round result is written to the root's scratchpad and the token completes. -/
  | mrcvResultWrite (op : Nat)
  /-- MESH_PACKET_ARRIVE (R223): A reduction packet reaches a tree node and is combined or discarded late. -/
  | meshPacketArrive (die : Nat) (ch : Nat) (round : Nat) (core : Nat)
  /-- MESH_NODE_TIMEOUT (R227): A node's deadline passes and it combines present inputs, marking the missing. -/
  | meshNodeTimeout (die : Nat) (ch : Nat) (round : Nat) (node : Option Nat)
  /-- REPLAY_REQUEST (R361): T_LOST passes on an incomplete span and the receiver requests a replay or declares it lost. -/
  | replayRequest (ep : Nat) (slot : Nat)
  /-- SEND_LOG_EXPIRY (R360): A span's log entries are dropped after T_KEEP. -/
  | sendLogExpiry (ep : Nat) (slot : Nat) (span : BitVec 8)
  /-- REMOTE_RESPONSE_ARRIVE (R305): A remote read or atomic response returns to the source. -/
  | remoteResponseArrive (id : Nat) (status : RemoteStatus) (bytes : List Byte)
  /-- PATH_HOLD_EXPIRY (R352): A line whose path changed may send on its new path. -/
  | pathHoldExpiry (line : Nat)
  /-- LINK_TRAINING (R366): A port trains and sends its signed link-state word. -/
  | linkTraining (port : Nat)
  /-- LINK_TRAIN_TIMEOUT (R367): No word within 100 ms fails the training. -/
  | linkTrainTimeout (port : Nat)
  /-- SWITCH_OUT_DONE (R382): The last state is saved and the save directory and status written. -/
  | switchOutDone (asid : Nat)
  /-- SWITCH_IN_DONE (R385): Cores have room, state is restored and the status written. -/
  | switchInDone (asid : Nat) (place : List Nat)
  /-- BOOT_STAGE_DONE (R389): A boot stage completes or fails and the next begins. -/
  | bootStageDone (out : StageOutcome)
  /-- REPLICA_WRITE_APPLIED (R304): A replica applies a sequenced write, releasing the reads and releases that wait on it. -/
  | replicaWriteApplied (die : Nat)
  /-- RECORD_TRANSFER_ARRIVE (R274): A target device accepts or refuses a forwarded record. -/
  | recordTransferArrive (src : Nat) (img : RecordImage)
  /-- RECORD_ACCEPTANCE (R275): The source frees a record when the target's acceptance names its RID. -/
  | recordAcceptance (rid : Nat) (accepted : Bool)
  /-- YIELD_REQUEST (R277): The scheduler raises a yield request for a context or group. -/
  | yieldRequest (asid : Nat) (gid : Option Nat)
  /-- APERTURE_STORE (R217): A store to the block-transfer aperture starts a copy or is rejected. -/
  | apertureStore (asid : Nat) (off : BitVec 16) (x : W32)
  /-- TLBI_START (R324): Writing BUSY starts a translation invalidation of the selected scope. -/
  | tlbiStart (ctl : W64)
  /-- FAB_CTL_WRITE (R363): A write to FAB_CTL is applied or ignored whole by the timer bounds. -/
  | fabCtlWrite (v : W64)
  /-- REGISTER_WRITE (R8): A write to a device register without behaviour of its own. -/
  | registerWrite (reg : Nat) (v : W64)
  /-- COUNTED_PACKET_ARRIVE (R358): A counted packet arrives at the receiver and is counted, applied or discarded. -/
  | countedPacketArrive (pkt : Packet)
  /-- FLAG_ARRIVE (R358): A counted flag arrives and is held, discarded or delivered. -/
  | flagArrive (pkt : Packet)
  /-- REPLAY_REQUEST_ARRIVE (R362): The source resends logged spans or answers REPLAY_GONE. -/
  | replayRequestArrive (ep : Nat) (slot : Nat) (span : BitVec 8) (gen : BitVec 2)
  /-- REPLAY_GONE (R362): The receiver sets the slot lost on REPLAY_GONE. -/
  | replayGone (ep : Nat) (slot : Nat)
  /-- PROTECTION_NOTICE (R355): A refusal reaches the source and raises the trap or fault. -/
  | protectionNotice (pkt : Packet)
  /-- REMOTE_REQUEST_ARRIVE (R305): A remote read or atomic request is performed at the target and answered. -/
  | remoteRequestArrive (req : RemoteReq)
  /-- TIME_BEACON_ARRIVE (R365): A device slews its timestamp toward a received beacon. -/
  | timeBeaconArrive (ts : W64)
  /-- LINK_STATE_WORD_ARRIVE (R367): The peer's word is checked and the port comes up, degraded or fails. -/
  | linkStateWordArrive (port : Nat) (word : W64) (sigOk : Bool)
  /-- CXL_LINK_DOWN (R370): A CXL link goes down and its range returns poison. -/
  | cxlLinkDown (port : Nat)
  /-- HOST_ACCESS (R307): A host read or write reaches device memory through a BAR. -/
  | hostAccess (acc : HostAccess)
  /-- REGISTER_CTX (R369): Mailbox command registering a context descriptor. -/
  | registerCtx (cmd : MbxCmd) (desc : List W64)
  /-- DEREGISTER_CTX (R369): Mailbox command deregistering a context. -/
  | deregisterCtx (cmd : MbxCmd) (asid : Nat)
  /-- LOAD_CODE (R331): Mailbox command choosing, verifying and placing a code variant. -/
  | loadCode (cmd : MbxCmd) (asid : Nat) (obj : Nat) (size : Nat)
  /-- QUEUE_ENABLE (R334): Mailbox command enabling a work queue. -/
  | queueEnable (cmd : MbxCmd) (q : Nat) (ring : Addr) (log2n : Nat) (task : Bool) (asid : Nat)
  /-- QUEUE_DISABLE (R335): Mailbox command disabling a work queue. -/
  | queueDisable (cmd : MbxCmd) (q : Nat)
  /-- SWITCH_OUT (R382): Mailbox command switching a context out. -/
  | switchOut (cmd : MbxCmd) (asid : Nat)
  /-- SWITCH_IN (R385): Mailbox command restoring a switched-out context. -/
  | switchIn (cmd : MbxCmd) (asid : Nat)
  /-- ENDPOINT_SET (R350): Mailbox command setting the device's endpoint number. -/
  | endpointSet (cmd : MbxCmd) (ep : Nat)
  /-- SLOT_ASSIGN (R356): Mailbox command assigning a slot's owner context. -/
  | slotAssign (cmd : MbxCmd) (peer : Nat) (slot : Nat) (dctx : BitVec 16)
  /-- SLOT_RESET (R359): Mailbox command restarting a slot's span state. -/
  | slotReset (cmd : MbxCmd) (peer : Nat) (slot : Nat) (receiver : Bool) (value : BitVec 8)
  /-- SET_TIME_MASTER (R365): Mailbox command naming the domain's time master. -/
  | setTimeMaster (cmd : MbxCmd) (ep : Nat)
  /-- LINK_ENABLE (R367): Mailbox command re-enabling a DOWN port. -/
  | linkEnable (cmd : MbxCmd) (port : Nat)
  /-- ATTEST (R400): Mailbox command writing a signed attestation report. -/
  | attest (cmd : MbxCmd) (asid : Nat) (nonce : List Byte) (report : Nat)
  /-- CORE_FENCE (R395): Mailbox command fencing a core. -/
  | coreFence (cmd : MbxCmd) (core : Nat)
  /-- FENCE_CLEAR (R396): Mailbox command emptying the fence list for the next start. -/
  | fenceClear (cmd : MbxCmd)
  /-- SOFT_ERROR_DETECT (R380): A memory error is corrected, or poisons its unit and reports. -/
  | softErrorDetect (err : SoftError)
  /-- THERMAL_THROTTLE (R397): A unit above its throttle point steps its clock or bandwidth down. -/
  | thermalThrottle (unit : Nat) (temp : Nat)
  /-- THERMAL_RELEASE (R397): A unit 5 °C below its throttle point steps its clock up. -/
  | thermalRelease (unit : Nat) (temp : Nat)
  /-- THERMAL_TRIP (R397): A unit at its trip point cuts package power at once. -/
  | thermalTrip (unit : Nat)
  /-- PORT_LINK_LOSS (R352): A Falnos port that was up loses its link, leaves the path lists and begins retraining. -/
  | portLinkLoss (port : Nat)
  /-- UNIT_TEMPERATURE_CHANGE (R398): A unit's temperature crosses a wear mark, counting a thermal cycle or seconds above 95/105 °C (85/95 °C for stacks). -/
  | unitTemperatureChange (unit : Nat) (temp : Nat) (secs : Nat)
  /-- MODULE_POWER_CAP (R397): Module power exceeding 2,700 W steps the arithmetic clock down and writes a thermal device fault. -/
  | modulePowerCap (unit : Nat) (watts : Nat)
  /-- CLAUSE_START (R41): A group chooses its issuing PC and checks a clause header before its words issue. -/
  | clauseStart 
  /-- IMPLICIT_PARK (R164): A token or tile stall reaching PARK_THRESH parks every quad of the group. -/
  | implicitPark 
  /-- PARKING_STALL_RETRY (R266): A parking-stalled group retries its record write when pool units are freed. -/
  | parkingStallRetry 
  /-- RECORD_POOL_EXHAUSTED (R266): POOL_TMO expires for a parking-stalled group and the trap is raised. -/
  | recordPoolExhausted 
  /-- TIMER_WAKE (R137): A PARK.time deadline is reached and its records become ready. -/
  | timerWake 
  /-- FULL_SPILL (R281): The yield limit runs out and every remaining quad is written as a KIND 4 record. -/
  | fullSpill 
  /-- TLBI_COMPLETE (R324): The invalidation finishes on every controller and BUSY clears. -/
  | tlbiComplete 
  /-- TIME_BEACON_SEND (R365): The time master sends a beacon every 1 µs. -/
  | timeBeaconSend 
  /-- POWER_GOOD (R389): Power-good starts the boot flow at stage 0. -/
  | powerGood 
  /-- BOOT_TIMEOUT (R392): 120 s without READY fails the start and restarts the device. -/
  | bootTimeout 
  /-- RETRY (R391): Writing RETRY clears FAILS in flash and restarts the device. -/
  | retry 
  /-- POWER_OFF (R388): Module power is removed and volatile state is lost. -/
  | powerOff 
  /-- WEAR_FLUSH (R398): The wear-counter mirror is written to flash every 10 minutes. -/
  | wearFlush 
deriving DecidableEq, Repr

end Sys2Proof
end

