-- ==== Sys2Proof/Machine/State.lean ====
section
/-! DEFINITION. The state of the machine as plain data: everything the spec gives it, from a lane's registers to the
flash of the module, with State.reset and the reasons a step can stop. Each structure's docstring names the rules
that give it. -/

namespace Sys2Proof.Machine

/-! ### Lanes and groups -/

/-- Lane status (R13). -/
inductive LaneStatus where
  | absent | live | helper
deriving DecidableEq, Repr

/-- Whether a lane is held (R129, R130, R135). -/
inductive Hold where
  | none | meeting | segEnd
deriving DecidableEq, Repr

/-- What a user-level trap handler's entry saves of a lane (R374). -/
structure HandlerSave where
  pc : W32
  mr : W32
  hold : Hold
deriving DecidableEq, Repr

/-- A lane (R10, R12, R15, R22, R91). v registers at or above the bound B are held here beside
their backing slots in memory (R17, R286). -/
structure Lane where
  status : LaneStatus
  pc : W32
  mr : W32
  threadId : W32
  v : SMap W32
  /-- registers at or above B whose backing slot holds them (R17) -/
  inSlot : SMap Bool
  /-- registers poisoned by an uncorrectable error (R380) -/
  vPoison : SMap Bool
  p : BitVec 8
  rng : W32
  hold : Hold
  /-- stopped inside the clause at `pc`: LSTATE 1 (R262) -/
  mid : Bool
  /-- the applied bit (R154, R246) -/
  applied : Bool
  /-- the hidden YPC of a yield handler (R278) -/
  ypc : Option W32
  /-- what the trap handler's entry saved (R374) -/
  saved : Option HandlerSave
deriving DecidableEq, Repr

/-- An ABSENT lane with every register zero. DESIGN CHOICE, log 18. -/
def Lane.off : Lane :=
  { status := .absent, pc := 0, mr := noMeeting, threadId := 0, v := [], inSlot := [], vPoison := [], p := 0, rng := 0x6D2B79F5#32
    hold := .none, mid := false, applied := false, ypc := none, saved := none }

/-- The keep latch (R59): register, width, and the value read in each active lane. -/
structure Keep where
  reg : Nat
  width : Nat
  vals : List (Nat × List W32)
deriving DecidableEq, Repr

/-- The clause a group is running: words fetched when it started (R42, R160). -/
structure Run where
  pc : W32
  wix : Nat
  words : List W64
  lits : List W64
  next : W32
  /-- the lanes that run the clause -/
  mask : BitVec 32
deriving DecidableEq, Repr

/-- A trap being handled: the TRAP_ registers (R254). -/
structure TrapRegs where
  cause : W32
  detail : W32
  pc : W32
  wix : W32
  lane : W32
  /-- instruction words of the trapping clause, and the next clause, as the device fetched it (R258) -/
  words : Nat
  after : W32
deriving DecidableEq, Repr

/-- Kinds of scoreboard stall (R163, R266). -/
inductive StallKind where
  | result | token | tile | parking | batch
deriving DecidableEq, Repr

/-- A stall and when it began. -/
structure Stall where
  kind : StallKind
  since : Nat
deriving DecidableEq, Repr

/-- A segment-ending word at which lanes of a group are held, with the operand values read at the issue that first
held one (R137). -/
structure HeldAt where
  pc : W32
  wix : Nat
  word : W64
  next : W32
  val : W32
  deadline : Nat
  /-- the queue waiter this word added, for QPUSH and QPOP (R173); whether it was served -/
  waiter : Nat
  served : Bool
  /-- the lanes that issues with these values hold there -/
  mask : BitVec 32
deriving DecidableEq, Repr

/-! ### Continuation records -/

/-- A token entry (R261) with the serial number of the operation it waits for. -/
structure TokenEntry where
  valid : Bool
  done : Bool
  wreg : Nat
  value : W32
  serial : Nat
deriving DecidableEq, Repr

/-- Where a record's units lie (R265, R267). -/
inductive RecPlace where
  /-- not yet written -/
  | none
  /-- from this 256-byte unit of the context's pool -/
  | pool (unit : Nat)
  /-- an emergency record of this core -/
  | emergency (core : Nat)
deriving DecidableEq, Repr

/-- A continuation record (R261), with what the device keeps beside it: where it lies, whether its event has fired,
when it became ready. -/
structure Rec where
  rid : Nat
  binKey : BitVec 16
  kind : Nat
  wix : Nat
  rpc : W32
  asid : Nat
  launch : Nat
  block : Nat
  parkId : W32
  tstamp : Nat
  nlive : Nat
  dv : Bool
  dreg : Nat
  lstate : List Nat
  applied : BitVec 4
  helper : BitVec 4
  live : BitVec 4
  tids : List W32
  lpcs : List W32
  mrs : List W32
  twait : BitVec 16
  klive : BitVec 16
  pred : BitVec 32
  wkind : Nat
  wkey0 : W64
  wkey1 : W64
  handles : SMap W32
  tokens : List TokenEntry
  /-- register n of position j at key 4n + j -/
  regs : SMap W32
  regPoison : SMap Bool
  /-- private stores of the quad's threads travel as memory; the core the record lies on -/
  core : Nat
  place : RecPlace
  durable : Bool
  fired : Bool
  readyAt : Option Nat
  /-- serial of the token a WKIND 1 record waits for -/
  evSerial : Nat
  /-- serials of the matrix operations of the tiles in TWAIT -/
  tileSerials : List Nat
  /-- the value DV delivers -/
  dval : W32
  /-- the trap frame that names it, which keeps it from being ready while the context is out (R376) -/
  frame : Option Nat
  /-- the endpoint the record is being transferred to (R275) -/
  xfer : Option Nat
  /-- hint 0: preferred for forwarding (R64) -/
  preferred : Bool
  /-- the external-deadline fault was raised already (R349) -/
  overdue : Bool
  /-- its bin is DUE (R269) -/
  due : Bool
  /-- it has left the die, or the device, on which its segment ended (R387) -/
  away : Bool
deriving DecidableEq, Repr

/-- A group that could not write its records (R266): since when, the records with their quads, and the word. -/
structure ParkStall where
  since : Nat
  recs : List (Nat × Rec)
  pc : W32
  wix : Nat
  /-- a yield request has reached the group since -/
  asked : Bool
deriving DecidableEq, Repr

/-- A group (R10): its lanes, uniform registers, tile predicates, tiles, tokens, and the clause it runs. -/
structure Group where
  gid : Nat
  core : Nat
  asid : Nat
  launch : Nat
  /-- block number; 0xFFFFFF for a group of free records (R271) -/
  block : Nat
  lanes : SMap Lane
  w : SMap W32
  k : BitVec 16
  /-- the register bound B (R15) -/
  bound : Nat
  vbase : Nat
  tbase : Nat
  tiles : Nat
  /-- handles bound to tile slots (R202) -/
  handles : SMap W32
  keep : Option Keep
  /-- serial of the operation whose token each w register is; 0 none (R20) -/
  pend : SMap Nat
  /-- serial of the matrix operation pending on each tile slot; 0 none (R176) -/
  tilePend : SMap Nat
  fmtDefault : W32
  slotSel : BitVec 6
  rngSeed : W32
  /-- some while a user-level trap handler runs (R254, R374) -/
  trap : Option TrapRegs
  /-- when a yield request reached the group (R277), and when its limit started -/
  yieldAt : Option Nat
  /-- a yield request that has not reached the group yet -/
  yieldReq : Bool
  run : Option Run
  /-- the word index at which lanes stopped in a clause go on (R43) -/
  resumeWix : Nat
  stall : Option Stall
  held : List HeldAt
  parkStall : Option ParkStall
  /-- quads that hint 0 marked (R64) -/
  preferred : BitVec 8
  /-- issue slot of the core (R346) -/
  issueSlot : Nat
  /-- when the group became resident, and when it last started a clause (R345, R346) -/
  residentSince : Nat
  lastClauseStart : Nat
  /-- instruction words issued since the start or resume (R344) -/
  issued : Nat
  /-- the fault batch a group inside a trap handler waits for (R375); the bound slots still to reload (R401) -/
  waitBatch : Option Nat
  reload : BitVec 16
  /-- restored registers whose backing slots are still to be written (R263): lane and register -/
  slotDue : List (Nat × Nat)
deriving DecidableEq, Repr

/-- No group: every lane ABSENT. DESIGN CHOICE, log 18. -/
def Group.off : Group :=
  { gid := 0, core := 0, asid := 0, launch := 0, block := 0xFFFFFF, lanes := [], w := [], k := 0, bound := 8, vbase := 0
    tbase := 0, tiles := 0, handles := [], keep := none, pend := [], tilePend := [], fmtDefault := 0, slotSel := 0
    rngSeed := 0, trap := none, yieldAt := none, yieldReq := false, run := none, resumeWix := 0, stall := none, held := [], parkStall := none
    preferred := 0, issueSlot := 0, residentSince := 0, lastClauseStart := 0, issued := 0, waitBatch := none, reload := 0, slotDue := [] }

/-! ### Blocks, launches, queues, contexts -/

def HashTable.off0 : HashTable := { off := 0, bexp := 0, kw := false, vw := false, claimed := false }

/-- A launch that has been numbered (R338, R339). -/
structure Launch where
  asid : Nat
  num : Nat
  queue : Nat
  /-- D0 to D15 -/
  words : List W64
  /-- the constant copy (R338) -/
  const : List W32
  prio : Nat
  since : Nat
  nextBlock : Nat
  blocksEnded : Nat
  accepted : Bool
  /-- code of the completion word (R339) -/
  code : Nat
  completed : Bool
  /-- task slot of a task launch (R341) -/
  slot : Option Nat
deriving DecidableEq, Repr

/-- Work queue states (R335). -/
inductive QueueState where
  | off | idle | active | held | paused | stopped
deriving DecidableEq, Repr

/-- A task slot (R249, R340). -/
structure TaskSlot where
  reserved : Bool
  pub : Bool
  dep : Nat
  early : Nat
  /-- MASK and the doublewords of the published record -/
  delta : List W64
  words : List W64
  decoded : Bool
  dispatched : Bool
  /-- when the task became ready (R250, R343) -/
  readyAt : Nat
deriving DecidableEq, Repr

def TaskSlot.free : TaskSlot :=
  { reserved := false, pub := false, dep := 0, early := 0, delta := [], words := [], decoded := false, dispatched := false
    readyAt := 0 }

/-- A work queue (R334, R335). -/
structure WorkQueue where
  state : QueueState
  saved : QueueState
  task : Bool
  asid : Nat
  ring : Addr
  log2n : Nat
  head : W32
  tail : W32
  slots : SMap TaskSlot
  /-- tasks reserved since enabling -/
  rsv : Nat
deriving DecidableEq, Repr

def WorkQueue.none : WorkQueue :=
  { state := .off, saved := .off, task := false, asid := 0, ring := 0, log2n := 6, head := 0, tail := 0, slots := [], rsv := 0 }

/-- A segment table entry (R330). -/
structure Segment where
  start : W32
  stop : W32
  handler : W32
  binKey : BitVec 16
deriving DecidableEq, Repr

/-- A tile-store table entry (R27). -/
structure TileStore where
  base : Addr
  count : Nat
deriving DecidableEq, Repr

/-- A context's place in the life of R333, R382 and R385. -/
inductive CtxState where
  | off | running | switching | out
  /-- deregistered, but for completion words that wait for their page or for replicas (R339) -/
  | ending
deriving DecidableEq, Repr

/-- A trap frame (R376). -/
structure TrapFrame where
  rid0 : Nat
  nrec : Nat
  pc : W32
  wix : Nat
  cause : Nat
  detail : W32
  origCause : Nat
  origPc : W32
  origWix : Nat
  nested : Bool
  /-- instruction words of the trapping clause, and the next clause, as the device fetched it -/
  words : Nat
  after : W32
deriving DecidableEq, Repr

/-- A fault batch (R282, R328): the missing 64 KiB pages. -/
structure Batch where
  id : Nat
  asid : Nat
  pages : List Nat
  /-- the checkpoint of the group, until it has run ahead (R282) -/
  ahead : Option Group
deriving DecidableEq, Repr

/-- A context (R333): the fields of its descriptor and what the device keeps for it. -/
structure Ctx where
  state : CtxState
  part : Nat
  prio : Nat
  share : Nat
  dctx : BitVec 16
  ptRoot : Nat
  codeBase : Addr
  codeSize : Nat
  privBase : Addr
  privSize : Nat
  stkLimit : Nat
  tmplBase : Addr
  tmplCount : Nat
  poolBase : Addr
  /-- in bytes -/
  poolSize : Nat
  poolTmo : Nat
  binAge : Nat
  parkThresh : W32
  engCompat : Bool
  bkptSup : Bool
  lockQuota : Nat
  trapPc : W32
  fqBase : Addr
  fqSize : Nat
  extDl : Nat
  segBase : Addr
  /-- SEG_COUNT of the descriptor; the entries that LOAD_CODE placed follow -/
  segCount : Nat
  segs : List Segment
  telemBase : Addr
  stores : List TileStore
  digest : List Byte
  /-- the kernel table of the loaded variant (R330, R332) -/
  ktab : List Byte
  /-- the loaded variant names device class 1 (R330, R337) -/
  classOne : Bool
  launchNum : Nat
  parkNum : Nat
  vt : Nat
  aperDrop : Nat
  /-- pinned lines: die × 2^73 + va div 128 (R158) -/
  pins : List Nat
  frames : List TrapFrame
  fqSeq : Nat
  /-- the running mailbox command waits for this context's switch (R369) -/
  mbx : Option MbxCmd
deriving DecidableEq, Repr

/-- DESIGN CHOICE, log 19. -/
def Ctx.off : Ctx :=
  { state := .off, part := 0, prio := 0, share := 0, dctx := 0, ptRoot := 0, codeBase := 0, codeSize := 0, privBase := 0
    privSize := 0, stkLimit := 0, tmplBase := 0, tmplCount := 0, poolBase := 0, poolSize := 0, poolTmo := 0, binAge := 0
    parkThresh := 0, engCompat := false, bkptSup := false, lockQuota := 0, trapPc := 0xFFFFFFFF, fqBase := 0, fqSize := 0
    extDl := 0, segBase := 0, segCount := 0, segs := [], telemBase := 0, stores := [], digest := [], ktab := [], classOne := false, launchNum := 0
    parkNum := 0, vt := 0, aperDrop := 0, pins := [], frames := [], fqSeq := 0, mbx := none }

/-! ### Engines, matrix operations, maintenance, tokens -/

/-- A copy's pattern (R213, R214). -/
structure CopyPlan where
  src : Addr
  dst : Addr
  rowb : Nat
  rows : Nat
  planes : Nat
  sstride : Int
  dstride : Int
  spstride : Int
  dpstride : Int
deriving DecidableEq, Repr

/-- A gather or scatter descriptor (R218). -/
structure GatherPlan where
  tbase : Addr
  rowb : Nat
  tstride : Nat
  idxOff : Nat
  spOff : Nat
  count : Nat
deriving DecidableEq, Repr

/-- A stream descriptor (R220); `emit` is the base and capacity of the emit area. -/
structure StreamPlan where
  abase : Addr
  na : Nat
  bbase : Addr
  nb : Nat
  emit : Option (Addr × Nat)
deriving DecidableEq, Repr

/-- A drain of a hash table (R247). -/
structure DrainPlan where
  h : Nat
  dst : Addr
  cap : Nat
  key : Bool
  clear : Bool
deriving DecidableEq, Repr

/-- What an engine operation does, with its OPKIND (R209). -/
inductive EngKind where
  /-- XTMPL's store of template i becoming visible -/
  | tmpl (i : Nat)
  | copy (p : CopyPlan)
  | gather (p : GatherPlan)
  | scatter (p : GatherPlan)
  | inter (p : StreamPlan)
  | merge (p : StreamPlan)
  | drain (p : DrainPlan)
  | mrcv (ch : Nat) (off : Nat) (round : Nat)
deriving DecidableEq, Repr

/-- An engine operation (R207, R209): its cursor is the next chunk (copy), position (gather, scatter), or the
indices of the streams. -/
structure EngOp where
  id : Nat
  engop : Nat
  core : Nat
  asid : Nat
  launch : Nat
  block : Nat
  gid : Nat
  kind : EngKind
  /-- token serial; 0 none -/
  tok : Nat
  bar : Option Addr
  slot : Nat
  running : Bool
  /-- the batch a suspended operation waits for -/
  waits : Option Nat
  curA : Nat
  curB : Nat
  curN : Nat
  /-- COUNT0 of a drain -/
  count0 : Nat
  /-- started through the aperture: no issuing group (R217) -/
  aperture : Bool
  /-- the sequence number that the next write to a replicated page had at issue (R207) -/
  seqAt : Nat
  /-- terminated, and waiting for the page of its barrier (R210) -/
  dying : Bool
  /-- a drain: the overflow entry that comes next in its bucket's chain, and the entries gathered in key order (R247) -/
  chain : Option Nat
  found : List (Nat × Nat)
deriving DecidableEq, Repr

/-- A matrix operation in flight (R176). -/
structure MatOp where
  id : Nat
  core : Nat
  gid : Nat
  slot : Nat
  /-- when it was issued, and the core cycles from there to its end (R7) -/
  since : Nat
  cycles : Nat
deriving DecidableEq, Repr

/-- A maintenance operation in flight (R159): its completion value, and the batch it waits for. -/
structure MaintOp where
  id : Nat
  core : Nat
  asid : Nat
  opc : Nat
  all : Bool
  base : Addr
  len : Nat
  value : W32
  waits : Option Nat
deriving DecidableEq, Repr

/-- An XFLAG that has not closed its span yet (R232). -/
structure FlagOp where
  id : Nat
  core : Nat
  asid : Nat
  dst : Nat
  slot : Nat
  dctx : BitVec 16
  addr : Nat
  value : W32
  /-- copies issued before it that must finish first -/
  after : List Nat
deriving DecidableEq, Repr

/-- A token's operation: serial, core, unit (1 copy engine to 8 task queue unit), operation number (R264). -/
structure TokInfo where
  serial : Nat
  core : Nat
  unit : Nat
  op : Nat
deriving DecidableEq, Repr

/-- A service request (R259). -/
structure EcallOp where
  id : Nat
  service : Nat
  a : W32
  b : W32
  asid : Nat
  core : Nat
deriving DecidableEq, Repr

/-- A bound tile that stays in a core for parked records: the handle and the physical tile (R26). -/
structure KeptTile where
  core : Nat
  asid : Nat
  handle : W32
  tile : Nat
deriving DecidableEq, Repr

/-! ### Mesh -/

/-- A node of a combining tree that has passed on (R223, R227): a level-1 node by its number, or the root. -/
structure MeshRound where
  num : Nat
  start : Nat
  /-- packets by core: its elements, absent where none -/
  pkts : List (Nat × List (Option W32))
  /-- level-1 nodes that have passed their result on: contributors present then -/
  passed : List (Nat × List Nat)
  /-- the finished result: elements, missing mask, contributors, largest m -/
  result : Option (List W32 × BitVec 52 × Nat × Nat)
deriving DecidableEq, Repr

/-- A reduction channel (R222). -/
structure Channel where
  opened : Bool
  asid : Nat
  mask : BitVec 52
  timeout : Nat
  isInt : Bool
  op : Nat
  row : Bool
  root : Nat
  /-- round counter of each contributor, and of the root (R224) -/
  sent : SMap Nat
  recvd : Nat
  rounds : List MeshRound
  /-- packets on their way: core, round, elements (R225) -/
  flight : List (Nat × Nat × List (Option W32))
  late : Nat
deriving DecidableEq, Repr

def Channel.off : Channel :=
  { opened := false, asid := 0, mask := 0, timeout := 0, isInt := false, op := 0, row := false, root := 0, sent := []
    recvd := 0, rounds := [], flight := [], late := 0 }

/-! ### Fabric -/

/-- Send state of a destination endpoint and slot (R229), with the packets held for the next span. -/
structure SendState where
  span : BitVec 8
  count : Nat
  gen : BitVec 2
  /-- packets held for the next span, with the core whose buffer they left -/
  heldPkts : List (Nat × Packet)
deriving DecidableEq, Repr

def SendState.init : SendState := { span := 0, count := 0, gen := 0, heldPkts := [] }

/-- A write-combining entry (R230); `bytes` by byte of the line. -/
structure WcbEntry where
  id : Nat
  core : Nat
  asid : Nat
  dctx : BitVec 16
  dst : Nat
  line : Nat
  slot : Nat
  openedAt : Nat
  bytes : SMap Byte
  mask : BitVec 128
deriving DecidableEq, Repr

/-- A logged packet, or the flag that closed its span (R360). -/
structure LogEntry where
  pkt : Packet
  /-- when the span's flag was sent -/
  closedAt : Option Nat
deriving DecidableEq, Repr

/-- A span counter of the receiver, with the flag held for it (R357). -/
structure SpanCounter where
  count : Nat
  flag : Option Packet
  lastAt : Nat
deriving DecidableEq, Repr

def SpanCounter.zero : SpanCounter := { count := 0, flag := none, lastAt := 0 }

/-- Receiver state of a source endpoint and slot (R357). -/
structure RecvState where
  /-- the counters have been given their spans: a packet or a flag has come since reset -/
  begun : Bool
  cnt : List SpanCounter
  lastDone : BitVec 8
  gen : BitVec 2
  state : Nat
  replays : Nat
deriving DecidableEq, Repr

def RecvState.init : RecvState :=
  { begun := false, cnt := [SpanCounter.zero, SpanCounter.zero, SpanCounter.zero, SpanCounter.zero], lastDone := 255, gen := 0, state := 0
    replays := 0 }

/-- A remote request waiting for its response (R305): the group that reads it (0 for a record's barrier wait), and the
lane of that group, 32 for a uniform access. -/
structure RemoteWait where
  req : RemoteReq
  gid : Nat
  tag : Nat
  status : Option RemoteStatus
  bytes : List Byte
  /-- the record that carries it while the lane that sent it is parked (R281); 0 none -/
  rid : Nat
  /-- bytes of a read's range, by offset and oldest first, that stores of its core had written and not sent (R145) -/
  ahead : List (Nat × Byte)
deriving DecidableEq, Repr

/-- An entry of the fabric protection log (R354): class 0 to 3 as R402 numbers them, 4 a read, 5 an atomic. -/
structure ProtEntry where
  ts : Nat
  src : Nat
  dctx : BitVec 16
  cls : Nat
  addr : Nat
deriving DecidableEq, Repr

/-- A port (R366, R367). -/
structure Port where
  up : Bool
  down : Bool
  fails : Nat
  trains : Nat
  training : Option Nat
  word : W64
  /-- the endpoint the supervisor expects; none where it has named none -/
  expected : Option Nat
  peer : Nat
deriving DecidableEq, Repr

/-- DESIGN CHOICE, log 119. -/
def Port.off : Port :=
  { up := false, down := false, fails := 0, trains := 0, training := none, word := 0, expected := none, peer := 0 }

/-! ### Device -/

/-- A fault record's fields (R377); `detail` is D8 to D15. -/
structure FaultRec where
  tstamp : Nat
  code : Nat
  cls : Nat
  asid : Nat
  dctx : BitVec 16
  launch : W32
  pc : W32
  wix : Nat
  lane : Nat
  core : Nat
  thread : W32
  addr : Addr
  rid : Nat
  seq : W32
  detail : List W64
deriving DecidableEq, Repr

/-- A partition (R342, R348). -/
structure Part where
  mask : BitVec 256
  pmWindow : Nat
  ageStep : Nat
  wcbAge : Nat
  stallTs : Nat
  frozen : Bool
  windowStart : Nat
  /-- progress events in the window -/
  progress : Nat
deriving DecidableEq, Repr

/-- DESIGN CHOICE, log 20. -/
def Part.init : Part :=
  { mask := 0, pmWindow := 10000, ageStep := 50, wcbAge := 1000, stallTs := 0, frozen := false
    windowStart := 0, progress := 0 }

/-- Boot state (R389 to R392). -/
structure Boot where
  power : Bool
  stage : Nat
  ready : Bool
  readyMs : Nat
  minimal : Bool
  stored : Bool
  /-- the sequence number that new training results still have to get, and whether they lie in copy B (R390) -/
  training : Option (Nat × Bool)
  /-- stopped after a failed start in minimal mode -/
  halted : Bool
deriving DecidableEq, Repr

/-- A unit's wear counters (R398). -/
structure Wear where
  retrain : Nat
  secHi : Nat
  secLo : Nat
  therm : Nat
  starts : Nat
  updates : Nat
deriving DecidableEq, Repr

def Wear.zero : Wear := { retrain := 0, secHi := 0, secLo := 0, therm := 0, starts := 0, updates := 0 }

/-- A stored training result (R390): its bytes with their SHA-256, and what it names. -/
structure Training where
  unit : TrainUnit
  data : List Byte
  sha : List Byte
  package : W64
  module : W64
  format : Nat
  /-- the unit's temperature at training, in °C -/
  temp : Nat
deriving DecidableEq, Repr

/-- One of the two flash copies of the training results; no sequence number while it is being written (R390). -/
structure TrainCopy where
  seq : Option Nat
  results : List Training
deriving DecidableEq, Repr

/-- What outlasts power-off: the module flash and the fuses (R388, R392, R394, R398). -/
structure Flash where
  fails : Nat
  cause : BitVec 8
  fences : List Nat
  wear : SMap Wear
  /-- fuses: enabled cores by core id, stacks, ports, controllers -/
  coreFuse : BitVec 256
  stackFuse : BitVec 8
  portFuse : BitVec 16
  chanFuse : BitVec 32
  partNo : Nat
  serial : W64
  fwDigest : List Byte
  fwVersion : Nat
  rollback : Nat
  /-- serial and LPDDR-6 channel groups of the attached module memory, and the training format of the firmware (R390) -/
  moduleSerial : W64
  channelGroups : Nat
  trainFormat : Nat
  /-- the two copies of the training results -/
  copyA : TrainCopy
  copyB : TrainCopy
deriving DecidableEq, Repr

/-- The identity block formed at stage 2 (R394), and CORE_LIVE. -/
structure Ident where
  coreEn : BitVec 256
  stackEn : BitVec 8
  portEn : BitVec 16
  chanEn : BitVec 32
  coreLive : BitVec 256
deriving DecidableEq, Repr

/-- A thermally managed unit (R397, R398): clock steps below the nominal, temperature, low mark. -/
structure Thermal where
  temp : Nat
  low : Nat
  steps : Nat
deriving DecidableEq, Repr

/-- DESIGN CHOICE, log 22. -/
def Thermal.init : Thermal := { temp := 25, low := 25, steps := 0 }

/-- Soft-error counters of a die (R381). -/
structure ErrCount where
  ue : Nat
  ce : Nat
  ceTh : Nat
deriving DecidableEq, Repr

/-- Registers of a migration engine (R327) with its free frames. -/
structure Migrate where
  freeList : Nat
  free : Nat
  low : Nat
  high : Nat
  next : List Nat
  promoteHits : Nat
  /-- demotion goes on until FREE reaches HIGH -/
  demoting : Bool
deriving DecidableEq, Repr

/-- DESIGN CHOICE, log 127. -/
def Migrate.zero : Migrate := { freeList := 0, free := 0, low := 0, high := 0, next := [], promoteHits := 0, demoting := false }

/-- The mailbox of a function (R369): the command block written to MBX_REQ whose command has not been answered, DONE,
and the writes ignored meanwhile. -/
structure Mailbox where
  req : Option Nat
  done : Bool
  ignored : Nat
deriving DecidableEq, Repr

def Mailbox.idle : Mailbox := { req := none, done := false, ignored := 0 }

/-- A translation held by a controller (R317): the leaf entry, its level, and the page of an identifier it stands for. -/
structure TlbEntry where
  asid : Nat
  /-- address div the page size of the level -/
  page : Nat
  pte : W64
  level : Nat
  /-- where the entry lies in memory -/
  addr : Nat
deriving DecidableEq, Repr

/-- An upper-level table entry held by a controller's walk cache (R317). -/
structure WalkEntry where
  asid : Nat
  level : Nat
  /-- address div the span of an entry of the level -/
  span : Nat
  pte : W64
deriving DecidableEq, Repr

/-- States of a cached line (R311); a line in state I has no tag. -/
inductive LineState where
  | shared | exclusive | modified | zero | uncached
deriving DecidableEq, Repr

/-- A tag of a first- or second-level cache (R309 to R312): the identifier and virtual line, the physical line, its state
and the valid and dirty bits of its sectors, and the page's entry as it was at the fill. DESIGN CHOICE, log 57. -/
structure Tag where
  asid : Nat
  vline : Nat
  line : Nat
  st : LineState
  valid : BitVec 4
  dirty : BitVec 4
  pte : W64
  level : Nat
  addr : Nat
deriving DecidableEq, Repr

/-- A line of code in a core's instruction cache (R160): its bytes as they were fetched. -/
structure CodeLine where
  asid : Nat
  vline : Nat
  bytes : List Byte
deriving DecidableEq, Repr

/-- The directory's entry of a physical line (R313): the dies that cache it, the die that owns it, and its cached
aliases, oldest first. -/
structure DirEntry where
  dies : List Nat
  owner : Option Nat
  aliases : List (Nat × Nat)
deriving DecidableEq, Repr

def DirEntry.none : DirEntry := { dies := [], owner := .none, aliases := [] }

/-- Second-level misses of a page in its current sampling window of 1 ms (R327). -/
structure PageMiss where
  window : Nat
  count : Nat
deriving DecidableEq, Repr

def PageMiss.none : PageMiss := { window := 0, count := 0 }

/-- A move of a page between two present tiers that has begun (R329): where its entry lies, its old frame and the new
one as frame numbers. -/
structure PageMove where
  asid : Nat
  va : Nat
  level : Nat
  addr : Nat
  source : Nat
  frame : Nat
  tier : Nat
  /-- the request that reads the page from another endpoint, or 0 -/
  ask : Nat
deriving DecidableEq, Repr

/-- The memory hierarchy but for the data, which lies in State.mem (R309 to R317). In each list the entry used longest ago
stands first. -/
structure Hier where
  /-- zero map by line (R314): true where the bit is clear, that is, where memory holds data -/
  zeroClear : SMap Bool
  /-- first-level caches by core, second-level caches by die -/
  l1 : SMap (List Tag)
  l2 : SMap (List Tag)
  /-- instruction caches by core -/
  code : SMap (List CodeLine)
  /-- the directory by physical line -/
  dir : SMap DirEntry
  /-- translations and walk caches by controller -/
  tlb : SMap (List TlbEntry)
  walks : SMap (List WalkEntry)
  /-- page moves that have begun (R329) -/
  moves : List PageMove
  /-- second-level misses by the address of the page's entry (R327) -/
  misses : SMap PageMiss
  /-- the entries whose A bit a migration engine has cleared (R327): their address, when, and the page's level -/
  aged : List (Nat × Nat × Nat)
  /-- pages that the device's migration engine holds at other endpoints, by endpoint × 2^36 + frame (R326) -/
  pooled : List Nat
deriving DecidableEq, Repr

def Hier.empty : Hier :=
  { zeroClear := [], l1 := [], l2 := [], code := [], dir := [], tlb := [], walks := [], moves := [], misses := [], aged := []
    pooled := [] }

/-- A sequenced write to replicated pages (R303): bytes at their locations, and the dies that have applied it. -/
structure SeqWrite where
  num : Nat
  bytes : List (Nat × Byte)
  /-- what those locations held before -/
  old : List (Nat × Byte)
  pending : List Nat
  /-- the threads whose write it is: each active lane of a word that acts once (R287) -/
  threads : List W32
  asid : Nat
deriving DecidableEq, Repr

/-- A core kept for a waiting candidate whose room was reclaimed (R345): the next block of a launch, or the bin of a
record. -/
structure Reserve where
  core : Nat
  isBlock : Bool
  asid : Nat
  /-- the launch number, or the RID -/
  num : Nat
deriving DecidableEq, Repr

/-- What leaves the device toward the host, the fabric and the supervisor, oldest last. DESIGN CHOICE, log 99. -/
inductive Out where
  | msix (vector : Nat)
  | packet (p : Packet)
  | replayRequest (dst : Nat) (slot : Nat) (span : BitVec 8) (gen : BitVec 2)
  | replayGone (dst : Nat) (slot : Nat)
  | notice (p : Packet)
  | request (r : RemoteReq)
  | response (id : Nat) (st : RemoteStatus) (bytes : List Byte)
  | record (dst : Nat) (rid : Nat) (img : RecordImage)
  | acceptance (dst : Nat) (rid : Nat) (accepted : Bool)
  | beacon (ts : Nat)
  | linkWord (port : Nat) (w : W64)
  | ecall (op : EcallOp)
  | hostData (bytes : List Byte)
  /-- a page that moves to another endpoint's memory (R326, R329) -/
  | pageOut (dst : Nat) (addr : Nat) (bytes : List Byte)
  | powerCut
deriving DecidableEq, Repr

/-- What the outside world or the scheduler makes happen next: data that says, for every order the spec leaves open,
which event comes, which group's turn it is, how far time goes, and which cached translations or lines go. -/
inductive Action where
  | event (i : Instr)
  | issue (gid : Nat)
  | tick (ns : Nat)
  | dropTlb (key : Nat)
  | writeBack (core : Nat) (line : Nat)
deriving DecidableEq, Repr

/-- The machine. -/
structure State where
  /-- the group whose turn it is; all lanes ABSENT where there is none -/
  g : Group
  /-- the other resident groups -/
  others : List Group
  /-- the 64-bit global timestamp (R7, R388) -/
  now : Nat
  /-- when the arithmetic clock of a die changed, and its MHz before, newest first (R7, R397): the die, the time, the MHz -/
  clocks : List (Nat × Nat × Nat)
  /-- bytes by location: local physical memory at its address, scratchpads above 2^65 -/
  mem : SMap Byte
  /-- poisoned 32-byte sectors by location div 32 (R380) -/
  poison : SMap Bool
  /-- accumulator entries: core × 2^16 + row × 32 + column (R24) -/
  acc : SMap W32
  /-- poisoned accumulator entries (R380) -/
  accPoison : SMap Bool
  /-- caches, directory, zero map, translation buffers, and the moves of pages (R309 to R317, R329) -/
  hier : Hier
  seqLog : List SeqWrite
  seqNum : Nat
  records : List Rec
  /-- records another device has accepted (R275): their blocks have not ended -/
  departed : List Rec
  /-- RIDs accepted from other devices (R275) -/
  accepted : List Nat
  blocks : List Block
  launches : List Launch
  queues : SMap WorkQueue
  ctxs : SMap Ctx
  batches : List Batch
  engOps : List EngOp
  apStarts : List EngOp
  /-- stores that groups have made to apertures and that have not taken effect yet (R217): identifier, offset, value -/
  apStores : List (Nat × BitVec 16 × W32)
  matOps : List MatOp
  maintOps : List MaintOp
  flagOps : List FlagOp
  ecalls : List EcallOp
  toks : List TokInfo
  /-- bound tiles kept on a core for parked records (R26) -/
  kept : List KeptTile
  channels : SMap Channel
  sends : SMap SendState
  wcb : List WcbEntry
  sendLog : List LogEntry
  slogDrop : Nat
  recvs : SMap RecvState
  owners : SMap (BitVec 16)
  ranges : SMap W64
  protLog : List ProtEntry
  remotes : List RemoteWait
  /-- other devices' waits for a phase change of a barrier here (R276) -/
  barWaits : List RemoteReq
  ports : SMap Port
  /-- lines whose path changed: when they may send again (R352) -/
  pathHold : SMap Nat
  /-- packets waiting for such a line, one still to be counted with the core that sends it (R229), and when each line last
  sent, + 1 -/
  pathWait : List (Option Nat × Packet)
  lineLast : SMap Nat
  cxlDown : BitVec 2
  endpoint : Nat
  timeMaster : Option Nat
  /-- when the last beacon was sent or came, since when beacons come, and ns slewed since then (R365) -/
  lastBeacon : Nat
  beaconSince : Option Nat
  slewed : Nat
  synced : Bool
  fabCtl : W64
  parts : SMap Part
  /-- cores kept for candidates that wait for reclaimed room (R345) -/
  reserved : List Reserve
  /-- TLBI_VA_LO, TLBI_VA_HI, TLBI_LEN, TLBI_CTL (R324) -/
  tlbiLo : W64
  tlbiHi : W64
  tlbiLen : W64
  tlbiCtl : W64
  migrate : SMap Migrate
  errs : SMap ErrCount
  devFaults : List FaultRec
  devRead : Nat
  /-- trace registers and other device registers without behaviour, by offset -/
  devRegs : SMap W64
  /-- mailboxes by function: 0, and 1 to 8 of the partitions -/
  mbx : SMap Mailbox
  thermal : SMap Thermal
  /-- the mirror of the wear counters, and when it was last written to flash (R398) -/
  wear : SMap Wear
  wearFlushed : Nat
  boot : Boot
  flash : Flash
  ident : Ident
  /-- serial numbers: groups, engine operations by core, tokens and operations, records, batches -/
  gidNext : Nat
  engNext : SMap Nat
  serial : Nat
  ridNext : Nat
  batchNext : Nat
  out : List Out
  agenda : List Action
  /-- the model's own: how many free values have been drawn -/
  freeCtr : Nat
deriving DecidableEq, Repr

/-- Why the machine can stop with a fault. -/
inductive Fault where
  /-- Raised by no meaning: the spec reports every error as a trap, an imprecise fault or a device fault, which are
  next states. Safe. -/
  | unreachable
deriving DecidableEq, Repr

/-- Why an instruction can be refused. -/
inductive Refusal where
  /-- Raised by an arm of exec whose instruction has no meaning yet. Safe: nothing is proved of it. -/
  | notModelled (mnemonic : String)
deriving DecidableEq, Repr

/-- The enabled cores of State.reset: clusters 0 to 11 of each die, an SZ-8000 (R1, R2). DESIGN CHOICE, log 15. -/
def resetCores : BitVec 256 :=
  let d : BitVec 64 := 0x0000FFFFFFFFFFFF#64
  d ++ d ++ d ++ d

/-- The machine after power-on, before the boot processor runs (R8, R388): no context, no group, stage 0.
DEDUCED, log 17. -/
def State.reset : State :=
  { g := Group.off, others := [], now := 0, clocks := [], mem := [], poison := [], acc := [], accPoison := [], hier := Hier.empty
    seqLog := [], seqNum := 0, records := [], departed := [], accepted := [], blocks := [], launches := []
    queues := [], ctxs := [], batches := [], engOps := [], apStarts := [], apStores := [], matOps := [], maintOps := [], flagOps := []
    ecalls := [], toks := [], kept := [], channels := [], sends := [], wcb := [], sendLog := [], slogDrop := 0, recvs := [], owners := []
    ranges := [], protLog := [], remotes := [], barWaits := [], ports := [], pathHold := [], pathWait := [], lineLast := [], cxlDown := 0, endpoint := 0, timeMaster := none
    lastBeacon := 0, beaconSince := none, slewed := 0, synced := false, fabCtl := 0x0000000A00C80014#64, parts := [], reserved := [], tlbiLo := 0, tlbiHi := 0, tlbiLen := 0, tlbiCtl := 0
    migrate := [], errs := [], devFaults := [], devRead := 0, devRegs := [], mbx := []
    thermal := [], wear := [], wearFlushed := 0
    boot := { power := true, stage := 0, ready := false, readyMs := 0, minimal := false, stored := false, training := none, halted := false }
    flash := { fails := 0, cause := 0, fences := [], wear := [], coreFuse := resetCores, stackFuse := 0xFF
               portFuse := 0xFFFF, chanFuse := 0xFFFF, partNo := 8000, serial := 0, fwDigest := [], fwVersion := 0
               rollback := 0, moduleSerial := 0, channelGroups := 8, trainFormat := 0, copyA := { seq := none, results := [] }
               copyB := { seq := none, results := [] } }
    ident := { coreEn := 0, stackEn := 0, portEn := 0, chanEn := 0, coreLive := 0 }
    gidNext := 1, engNext := [], serial := 1, ridNext := 1, batchNext := 1, out := [], agenda := [], freeCtr := 0 }

end Sys2Proof.Machine
end

