-- ==== Sys2Proof/Machine/Basic.lean ====
section
/-! DEFINITION. Bit fields, byte order, and the reading and writing of lanes, registers and predicates of a group
(R14, R15, R18, R22, R38). -/

namespace Sys2Proof.Machine

/-! ### Bits and bytes -/

/-- Bits lo .. lo + len - 1 of a number. -/
def bitsOf (x lo len : Nat) : Nat := (x >>> lo) % 2 ^ len

/-- A bit of a number. -/
def bitOf (x i : Nat) : Bool := x.testBit i

/-- The least multiple of `m` at or above `x`. -/
def roundUp (x m : Nat) : Nat := (x + m - 1) / m * m

/-- The little-endian value of bytes (R5). -/
def bytesNat : List Byte → Nat
  | [] => 0
  | b :: bs => b.toNat + 256 * bytesNat bs

/-- The low `n` bytes of a number, lowest first (R5). -/
def natBytes : Nat → Nat → List Byte
  | 0, _ => []
  | n + 1, x => BitVec.ofNat 8 x :: natBytes n (x / 256)

/-- A number cut or extended to 32 bits. -/
def w32 (x : Nat) : W32 := BitVec.ofNat 32 x
def w64 (x : Nat) : W64 := BitVec.ofNat 64 x

/-- zext(x, n) and sext(x, n) as integers (R38). -/
def zextN (x n : Nat) : Int := (x % 2 ^ n : Nat)
def sextN (x n : Nat) : Int :=
  let y := x % 2 ^ n
  if 2 * y < 2 ^ n then (y : Int) else (y : Int) - (2 ^ n : Nat)

/-- An integer modulo 2^w. -/
def wrapTo (w : Nat) (x : Int) : Nat := (x % (2 ^ w : Nat)).toNat

/-- An integer clamped to a range. -/
def clampTo (lo hi x : Int) : Int := if x < lo then lo else if hi < x then hi else x

/-- The consecutive 16-bit pieces of a number, folded by exclusive or (R310, R317). -/
def fold16 : Nat → Nat → Nat
  | 0, _ => 0
  | n + 1, x => (x % 65536) ^^^ fold16 n (x / 65536)

/-- Numbers 0 to n - 1 that satisfy p, ascending. -/
def below (n : Nat) (p : Nat → Bool) : List Nat := (List.range n).filter p

/-- The mask with bit i set for each i of a list. -/
def maskOf (w : Nat) (l : List Nat) : BitVec w := l.foldl (fun m i => m ||| (1#w <<< i)) 0

/-- Insert before the first element that is not below x, and the stable sort it makes. -/
def insertBy {α : Type} (le : α → α → Bool) (x : α) : List α → List α
  | [] => [x]
  | y :: ys => if le x y then x :: y :: ys else y :: insertBy le x ys

def sortBy {α : Type} (le : α → α → Bool) : List α → List α
  | [] => []
  | x :: xs => insertBy le x (sortBy le xs)

/-- Replace the elements of a list that satisfy p. -/
def updWhere {α : Type} (p : α → Bool) (f : α → α) (l : List α) : List α := l.map (fun x => if p x then f x else x)

/-! ### Lanes -/

def Group.lane (g : Group) (L : Nat) : Lane := g.lanes.get Lane.off L

def Group.setLane (g : Group) (L : Nat) (x : Lane) : Group := { g with lanes := g.lanes.put Lane.off L x }

/-- Change the lanes of a list, each by a function of its number and its state. -/
def setLanes (ls : List Nat) (f : Nat → Lane → Lane) (m : SMap Lane) : SMap Lane :=
  ls.foldl (fun m L => m.put Lane.off L (f L (m.get Lane.off L))) m

def Group.mapLanes (g : Group) (ls : List Nat) (f : Nat → Lane → Lane) : Group :=
  { g with lanes := setLanes ls f g.lanes }

def allLanes : List Nat := List.range 32

def Lane.isLive (x : Lane) : Bool := x.status = .live
def Lane.isHelper (x : Lane) : Bool := x.status = .helper

def Group.live (g : Group) : List Nat := below 32 (fun L => (g.lane L).isLive)

/-- No lane is LIVE: the group has ended or was never there. -/
def Group.empty (g : Group) : Bool := (g.live).isEmpty

/-- The lanes of quad q. -/
def quadLanes (q : Nat) : List Nat := [4 * q, 4 * q + 1, 4 * q + 2, 4 * q + 3]

def Group.quadLive (g : Group) (q : Nat) : List Nat := (quadLanes q).filter (fun L => (g.lane L).isLive)

def Lane.pred (x : Lane) (n : Nat) : Bool := x.p.getLsbD n
def Lane.setPred (x : Lane) (n : Nat) (b : Bool) : Lane :=
  { x with p := if b then x.p ||| (1#8 <<< n) else x.p &&& ~~~(1#8 <<< n) }

/-- The guard of a word in a lane (R46). -/
def guardHolds (gd : Guard) (x : Lane) : Bool :=
  match gd with
  | .always => true
  | .on neg p => xor (x.pred p.toNat) neg

/-- The lanes that run the current clause: LIVE, not held, at its PC when it started (R14, R129). -/
def Group.runs (g : Group) (L : Nat) : Bool :=
  match g.run with
  | some r => r.mask.getLsbD L && (g.lane L).isLive && (g.lane L).hold = .none
  | none => false

/-- The active lanes of a word with this guard, ascending (R14, R46). -/
def Group.active (g : Group) (gd : Guard) : List Nat := below 32 (fun L => g.runs L && guardHolds gd (g.lane L))

/-- The executing lanes: the active lanes, and the HELPER lanes of quads that have one (R14, R38). -/
def Group.executing (g : Group) (gd : Guard) : List Nat :=
  let act := g.active gd
  below 32 (fun L => act.contains L || ((g.lane L).isHelper && act.any (fun M => M / 4 == L / 4)))

/-- The threads a once-for-the-group access stands for: those of every active lane (R287). -/
def Group.threads (g : Group) (gd : Guard) : List W32 := (g.active gd).map (fun L => (g.lane L).threadId)

/-! ### Registers -/

/-- vread (R38). -/
def Lane.vr (x : Lane) (n : Nat) : W32 := x.v.get 0 n

/-- vwrite (R38): a write clears a register's poison (R380). -/
def Lane.vw (x : Lane) (n : Nat) (y : W32) : Lane :=
  { x with v := x.v.put 0 n y, vPoison := x.vPoison.put false n false }

/-- The low `k` words of a number into registers n, n + 1, … -/
def Lane.vwN (x : Lane) (n : Nat) : Nat → Nat → Lane
  | 0, _ => x
  | k + 1, y => (x.vw n (w32 y)).vwN (n + 1) k (y / 2 ^ 32)

/-- The value of `k` registers from n, lowest first (R18). -/
def Lane.vrN (x : Lane) (n : Nat) : Nat → Nat
  | 0 => 0
  | k + 1 => (x.vr n).toNat + 2 ^ 32 * x.vrN (n + 1) k

def Group.wr (g : Group) (n : Nat) : W32 := g.w.get 0 n

def Group.ww (g : Group) (n : Nat) (x : W32) : Group := { g with w := g.w.put 0 n x }

/-- The value of `k` w registers from n. -/
def Group.wrN (g : Group) (n : Nat) : Nat → Nat
  | 0 => 0
  | k + 1 => (g.wr n).toNat + 2 ^ 32 * g.wrN (n + 1) k

/-- The low `k` words of a number into w registers from n. -/
def Group.wwN (g : Group) (n : Nat) : Nat → Nat → Group
  | 0, _ => g
  | k + 1, y => (g.ww n (w32 y)).wwN (n + 1) k (y / 2 ^ 32)

def Group.kr (g : Group) (t : Nat) : Bool := g.k.getLsbD t
def Group.kw (g : Group) (t : Nat) (b : Bool) : Group :=
  { g with k := if b then g.k ||| (1#16 <<< t) else g.k &&& ~~~(1#16 <<< t) }

/-- Empty the keep latch where registers n to n + k - 1 cover it (R59). -/
def Group.touchKeep (g : Group) (n k : Nat) : Group :=
  match g.keep with
  | some l => if n < l.reg + l.width && l.reg < n + k then { g with keep := none } else g
  | none => g

/-- Write `k` registers from n in each lane of a list, the value a function of the lane (R38, R59). -/
def Group.writeV (g : Group) (ls : List Nat) (n k : Nat) (f : Nat → Nat) : Group :=
  (g.mapLanes ls (fun L x => x.vwN n k (f L))).touchKeep n k

/-- Write a predicate in each lane of a list. -/
def Group.writeP (g : Group) (ls : List Nat) (n : Nat) (f : Nat → Bool) : Group :=
  g.mapLanes ls (fun L x => x.setPred n (f L))

/-! ### Contexts, blocks, launches -/

def State.ctx (s : State) (asid : Nat) : Ctx := s.ctxs.get Ctx.off asid
def State.setCtx (s : State) (asid : Nat) (c : Ctx) : State := { s with ctxs := s.ctxs.put Ctx.off asid c }

/-- The context of the issuing group. -/
def State.cx (s : State) : Ctx := s.ctx s.g.asid

def dieOf (core : Nat) : Nat := core / 64

/-- this_cluster() of a core: die × 16 + cluster index (R31). -/
def clusterOf (core : Nat) : Nat := core / 64 * 16 + core % 64 / 4

/-- Is this the block of that number? -/
def Block.is (b : Block) (asid launch num : Nat) : Bool := b.asid == asid && b.launch == launch && b.num == num

def State.blockOf (s : State) (asid launch num : Nat) : Option Block := s.blocks.find? (fun b => b.is asid launch num)

/-- this_block(); none for a group of free records (R271). -/
def State.thisBlock (s : State) : Option Block := s.blockOf s.g.asid s.g.launch s.g.block

def State.setBlock (s : State) (b : Block) : State :=
  { s with blocks := updWhere (fun c => c.is b.asid b.launch b.num) (fun _ => b) s.blocks }

/-- The block of the same gang on a core (R34). -/
def State.gangBlock (s : State) (b : Block) (core : Nat) : Option Block :=
  s.blocks.find? (fun c => c.asid == b.asid && c.launch == b.launch && c.core == core && c.gang == b.gang
    && c.num + b.gangIndex == b.num + c.gangIndex)

def State.part (s : State) (p : Nat) : Part := s.parts.get Part.init p

/-- Work of a context goes on: it is not switched out or being switched out (R382, R384), and its partition is not frozen
(R348). -/
def State.ctxRuns (s : State) (asid : Nat) : Bool :=
  (s.ctx asid).state == .running && !(s.part (s.ctx asid).part).frozen

/-- A progress event of a context's partition (R348). -/
def State.progress (s : State) (asid : Nat) : State :=
  let p := (s.ctx asid).part
  let x := s.part p
  { s with parts := s.parts.put Part.init p { x with progress := x.progress + 1 } }

/-- The context that runs under a domain context number (R333). -/
def State.ctxOfDctx (s : State) (d : BitVec 16) : Option Nat :=
  (s.ctxs.find? (fun x => x.2.state != .off && x.2.dctx == d)).map (·.1)

/-- Flits sent or received for a domain context are progress of its partition (R348). -/
def State.flits (s : State) (d : BitVec 16) : State :=
  match s.ctxOfDctx d with
  | some a => s.progress a
  | none => s

/-- A core that can run work now (R394). -/
def State.coreLive (s : State) (core : Nat) : Bool := s.ident.coreLive.getLsbD core

/-- Dies in operation: those with an enabled core (R160, R303). -/
def State.dies (s : State) : List Nat := below 4 (fun d => (s.ident.coreEn.extractLsb' (64 * d) 64) != 0#64)

/-- Every resident group. -/
def State.groups (s : State) : List Group := s.g :: s.others

def State.mapGroups (s : State) (f : Group → Group) : State := { s with g := f s.g, others := s.others.map f }

/-- Change the resident group of a number. -/
def State.onGroup (s : State) (gid : Nat) (f : Group → Group) : State :=
  s.mapGroups (fun g => if g.gid = gid then f g else g)

/-- Draw a free value (Config.freeValue). DESIGN CHOICE, log 4. -/
def State.free (s : State) : W64 × State := (Config.freeValue s.freeCtr, { s with freeCtr := s.freeCtr + 1 })

/-- Draw a serial number. -/
def State.newSerial (s : State) : Nat × State := (s.serial, { s with serial := s.serial + 1 })

def State.emit (s : State) (o : Out) : State := { s with out := o :: s.out }

/-- Clock steps that a die runs below the nominal: its own, or those of the base die, unit 4, if more (R397). -/
def State.clockSteps (s : State) (die : Nat) : Nat :=
  min 4 (max (s.thermal.get Thermal.init die).steps (s.thermal.get Thermal.init 4).steps)

/-- Arithmetic clock of a die in MHz, in steps of 200 below 1600, no lower than 800 (R397). -/
def State.clockMhz (s : State) (die : Nat) : Nat := 1600 - 200 * s.clockSteps die

/-- Thousandths of core cycles between two times, from the changes of a clock, newest first, and its present MHz. -/
def clockSum : List (Nat × Nat) → Nat → Nat → Nat → Nat
  | [], mhz, a, b => (b - a) * mhz
  | (t, before) :: l, mhz, a, b => if t ≤ a then (b - a) * mhz else (b - max a t) * mhz + clockSum l before a (min b t)

/-- Core cycles of a die between two times, as its clock stood at each (R7, R397). -/
def State.coreCycles (s : State) (die a b : Nat) : Nat :=
  clockSum ((s.clocks.filter (fun c => c.1 == die)).map (·.2)) (s.clockMhz die) a b / 1000

end Sys2Proof.Machine
end

