-- ==== Sys2Proof/Machine/Float.lean ====
section
/-! DEFINITION. Floating-point formats and rounding (R76 to R79, R86 to R90, R93): values are exact numbers
±n × 2^e, and every result is rounded once. -/

namespace Sys2Proof.Machine

/-! ### Formats (R76) -/

/-- A binary floating-point format: exponent and fraction bits, bias, the largest exponent field of a finite number and
its largest significand, whether it has infinities and NaNs. -/
structure FFmt where
  e : Nat
  m : Nat
  bias : Nat
  topE : Nat
  maxMant : Nat
  hasInf : Bool
  hasNan : Bool
deriving DecidableEq, Repr

def FFmt.ieee (e m bias : Nat) : FFmt :=
  { e := e, m := m, bias := bias, topE := 2 ^ e - 2, maxMant := 2 ^ (m + 1) - 1, hasInf := true, hasNan := true }

def fmtOf : Ty → FFmt
  | .bf16 => FFmt.ieee 8 7 127
  | .f16 => FFmt.ieee 5 10 15
  | .e4m3 => { e := 4, m := 3, bias := 7, topE := 15, maxMant := 14, hasInf := false, hasNan := true }
  | .e5m2 => FFmt.ieee 5 2 15
  | .e3m2 => { e := 3, m := 2, bias := 3, topE := 7, maxMant := 7, hasInf := false, hasNan := false }
  | .e2m3 => { e := 2, m := 3, bias := 1, topE := 3, maxMant := 15, hasInf := false, hasNan := false }
  | _ => FFmt.ieee 8 23 127

/-- Exponent of the least unit in the last place. -/
def FFmt.minUlp (f : FFmt) : Int := 1 - (f.bias : Int) - f.m

/-- Exponent of the unit in the last place of the largest numbers. -/
def FFmt.maxUlp (f : FFmt) : Int := (f.topE : Int) - f.bias - f.m

def FFmt.signBit (f : FFmt) : Nat := 2 ^ (f.e + f.m)

/-- Encoding of the canonical NaN; +0 in a format without NaN (R87). -/
def FFmt.nan (f : FFmt) : Nat :=
  if f.hasInf then (2 ^ f.e - 1) * 2 ^ f.m + 2 ^ (f.m - 1)
  else if f.hasNan then 2 ^ (f.e + f.m) - 1
  else 0

def FFmt.signed (f : FFmt) (neg : Bool) (x : Nat) : Nat := if neg then f.signBit + x else x

/-- Encoding of ± the largest finite value. -/
def FFmt.maxFin (f : FFmt) (neg : Bool) : Nat :=
  f.signed neg ((f.maxUlp - f.minUlp).toNat * 2 ^ f.m + f.maxMant)

def FFmt.inf (f : FFmt) (neg : Bool) : Nat := f.signed neg ((2 ^ f.e - 1) * 2 ^ f.m)

/-- An overflow, or an infinity, in the format (R87). -/
def FFmt.overflow (f : FFmt) (sat neg : Bool) : Nat :=
  if sat then f.maxFin neg else if f.hasInf then f.inf neg else if f.hasNan then f.nan else f.maxFin neg

/-! ### Exact values -/

/-- A value before rounding: NaN, an infinity, or ±(n + δ) × 2^e with 0 ≤ δ < 1, where `more` says that δ is not zero.
A value with δ ≠ 0 carries more bits in n than any format keeps. -/
inductive FNum where
  | nan
  | inf (neg : Bool)
  | fin (neg : Bool) (n : Nat) (e : Int) (more : Bool)
deriving DecidableEq, Repr

def FNum.isNan : FNum → Bool
  | .nan => true
  | _ => false

/-- The value of an encoding (R77). -/
def decodeF (f : FFmt) (x : Nat) : FNum :=
  let neg := x.testBit (f.e + f.m)
  let ex := bitsOf x f.m f.e
  let fr := bitsOf x 0 f.m
  if f.hasInf && ex == 2 ^ f.e - 1 then (if fr = 0 then .inf neg else .nan)
  else if !f.hasInf && f.hasNan && ex == 2 ^ f.e - 1 && fr == 2 ^ f.m - 1 then .nan
  else if ex = 0 then .fin neg fr f.minUlp false
  else .fin neg (2 ^ f.m + fr) (f.minUlp + (ex - 1 : Nat)) false

/-- An integer as a value; zero is +0. -/
def FNum.ofInt (x : Int) : FNum := .fin (decide (x < 0)) x.natAbs 0 false

/-! ### Rounding (R86, R93) -/

/-- Rounding modes, rdyn resolved (R47, R86). -/
inductive Rm where
  | rne | rz | ru | rd | rs
deriving DecidableEq, Repr

/-- Mode of an RM code, with the rounding field of FMT_DEFAULT for rdyn (R47, R86). -/
def rmOf (code dyn : Nat) : Rm :=
  match code with
  | 1 => .rz | 2 => .ru | 3 => .rd | 4 => .rs
  | 5 => match dyn with
    | 1 => .rz | 2 => .ru | 3 => .rd | 4 => .rs | _ => .rne
  | _ => .rne

/-- The integer below a magnitude (n + δ) × 2^e, and what is left of it as a fraction r / 2^s, with δ still to add. -/
def splitMag (n : Nat) (e : Int) : Nat × Nat × Nat :=
  if e ≥ 0 then (n * 2 ^ e.toNat, 0, 0)
  else
    let s := (-e).toNat
    if n.log2 + 40 < s then (0, if n = 0 then 0 else 1, n.log2 + 40) else (n / 2 ^ s, n % 2 ^ s, s)

/-- Round up in magnitude from `lo` with the fraction r / 2^s plus δ (R86, R93); u is the 24-bit draw. -/
def roundsUp (m : Rm) (u : Nat) (neg : Bool) (lo r s : Nat) (more : Bool) : Bool :=
  if r = 0 ∧ !more then false
  else match m with
    | .rne =>
      let twice := 2 * r
      2 ^ s < twice || (twice == 2 ^ s && (more || lo % 2 == 1))
    | .rz => false
    | .ru => !neg
    | .rd => neg
    | .rs =>
      let fl := r * 2 ^ 24 / 2 ^ s
      let ceil := if r * 2 ^ 24 % 2 ^ s = 0 ∧ !more then fl else fl + 1
      if neg then decide (2 ^ 24 ≤ u + ceil) else decide (u < fl)

/-- round(x, f, m) with the rules of R87; the sign of a zero is that of x. -/
def roundF (f : FFmt) (m : Rm) (u : Nat) (sat : Bool) (x : FNum) : Nat :=
  match x with
  | .nan => f.nan
  | .inf neg => f.overflow sat neg
  | .fin neg n e more =>
    if n = 0 ∧ !more then f.signed neg 0
    else
      let top : Int := e + n.log2
      let q := max f.minUlp (top - f.m)
      let (lo, r, s) := splitMag n (e - q)
      let past := decide (f.maxUlp < q) || (q == f.maxUlp && f.maxMant < lo)
      if past then
        match m with
        | .rz => f.maxFin neg
        | .ru => if neg then f.maxFin neg else f.overflow sat neg
        | .rd => if neg then f.overflow sat neg else f.maxFin neg
        | _ => f.overflow sat neg
      else
        let mant := if roundsUp m u neg lo r s more then lo + 1 else lo
        if q == f.maxUlp && f.maxMant < mant then f.overflow sat neg
        else f.signed neg ((q - f.minUlp).toNat * 2 ^ f.m + mant)

/-- Round to an integer (R86, R90). -/
def roundI (m : Rm) (u : Nat) (neg : Bool) (n : Nat) (e : Int) (more : Bool) : Int :=
  let (lo, r, s) := splitMag n e
  let a := if roundsUp m u neg lo r s more then lo + 1 else lo
  if neg then -(a : Int) else a

/-! ### Exact operations (R88, R89) -/

def FNum.neg : FNum → FNum
  | .nan => .nan
  | .inf s => .inf (!s)
  | .fin s n e d => .fin (!s) n e d

/-- The signed integer of a finite value in units of 2^q, q ≤ e. -/
def sigAt (neg : Bool) (n : Nat) (e q : Int) : Int :=
  let a := n * 2 ^ (e - q).toNat
  if neg then -(a : Int) else a

/-- Exact sum of exact values; the zero of a cancellation is −0 under rd alone (R88). -/
def FNum.add (m : Rm) : FNum → FNum → FNum
  | .nan, _ => .nan
  | _, .nan => .nan
  | .inf s, .inf t => if s = t then .inf s else .nan
  | .inf s, _ => .inf s
  | _, .inf t => .inf t
  | .fin s n e _, .fin t k g _ =>
    if n = 0 ∧ k = 0 then .fin (if s = t then s else decide (m = .rd)) 0 0 false
    else if n = 0 then .fin t k g false
    else if k = 0 then .fin s n e false
    else
      let q := min e g
      let x := sigAt s n e q + sigAt t k g q
      if x = 0 then .fin (decide (m = .rd)) 0 0 false else .fin (decide (x < 0)) x.natAbs q false

def FNum.mul : FNum → FNum → FNum
  | .nan, _ => .nan
  | _, .nan => .nan
  | .inf s, .inf t => .inf (xor s t)
  | .inf s, .fin t k _ _ => if k = 0 then .nan else .inf (xor s t)
  | .fin s n _ _, .inf t => if n = 0 then .nan else .inf (xor s t)
  | .fin s n e _, .fin t k g _ => .fin (xor s t) (n * k) (e + g) false

/-- 1 / x to 96 bits and more. -/
def FNum.recip : FNum → FNum
  | .nan => .nan
  | .inf s => .fin s 0 0 false
  | .fin s n e _ =>
    if n = 0 then .inf s
    else
      let k := n.log2 + 96
      .fin s (2 ^ k / n) (-(e + k)) (decide (2 ^ k % n ≠ 0))

/-- Integer square root of a number below 4^b, digit by digit. -/
def isqrtAux (n : Nat) : Nat → Nat → Nat
  | 0, r => r
  | b + 1, r => if (r + 2 ^ b) * (r + 2 ^ b) ≤ n then isqrtAux n b (r + 2 ^ b) else isqrtAux n b r

def isqrt (n : Nat) : Nat := isqrtAux n (n.log2 / 2 + 1) 0

/-- √x to 96 bits and more. -/
def FNum.sqrt : FNum → FNum
  | .nan => .nan
  | .inf s => if s then .nan else .inf false
  | .fin s n e d =>
    if n = 0 then .fin s n e d
    else if s then .nan
    else
      let (n1, e1) := if e % 2 = 0 then (n, e) else (2 * n, e - 1)
      let x := n1 * 2 ^ 192
      let r := isqrt x
      .fin false r (e1 / 2 - 96) (decide (r * r ≠ x))

/-- 1 / √x to 96 bits and more. -/
def FNum.rsqrt : FNum → FNum
  | .nan => .nan
  | .inf s => if s then .nan else .fin false 0 0 false
  | .fin s n e _ =>
    if n = 0 then .inf s
    else if s then .nan
    else
      let (n1, e1) := if e % 2 = 0 then (n, e) else (2 * n, e - 1)
      let k := n1.log2 + 96
      let r := isqrt (2 ^ (2 * k) / n1)
      .fin false r (-(e1 / 2) - k) (decide (r * r * n1 ≠ 2 ^ (2 * k)))

/-- x × 2^b (R116). -/
def FNum.scale (b : Int) : FNum → FNum
  | .fin s n e d => .fin s n (e + clampTo (-2000) 2000 b) d
  | x => x

/-! ### Comparison (R117, R123) -/

/-- The sign of x − y for numbers that are not NaN; −0 equals +0. -/
def FNum.cmp : FNum → FNum → Ordering
  | .inf s, .inf t => if s = t then .eq else if s then .lt else .gt
  | .inf s, _ => if s then .lt else .gt
  | _, .inf t => if t then .gt else .lt
  | .fin s n e _, .fin t k g _ =>
    let q := min e g
    compare (sigAt s n e q) (sigAt t k g q)
  | _, _ => .eq

def FNum.isZero : FNum → Bool
  | .fin _ n _ _ => n == 0
  | _ => false

def FNum.sign : FNum → Bool
  | .nan => false
  | .inf s => s
  | .fin s _ _ _ => s

/-- Order with −0 below +0 (R117). -/
def FNum.below (x y : FNum) : Bool :=
  match FNum.cmp x y with
  | .lt => true
  | .gt => false
  | .eq => x.sign && !y.sign

/-- FMIN and FMAX on encodings (R117). -/
def fminmax (f : FFmt) (mx nanWins : Bool) (a b : Nat) : Nat :=
  let x := decodeF f a
  let y := decodeF f b
  match x.isNan, y.isNan with
  | true, true => f.nan
  | true, false => if nanWins then f.nan else b
  | false, true => if nanWins then f.nan else a
  | false, false => if mx then (if x.below y then b else a) else (if y.below x then b else a)

/-- The class bit of an encoding (R119). -/
def fclassBit (f : FFmt) (x : Nat) : Nat :=
  match decodeF f x with
  | .nan => 8
  | .inf s => if s then 0 else 7
  | .fin s n _ _ =>
    if n = 0 then (if s then 3 else 4)
    else if n < 2 ^ f.m then (if s then 2 else 5)
    else (if s then 1 else 6)

/-! ### The stochastic generator (R91) -/

def rngStep (x : W32) : W32 :=
  let x := x ^^^ (x <<< 13)
  let x := x ^^^ (x >>> 17)
  x ^^^ (x <<< 5)

/-- The state is never zero (R91). -/
def rngFix (x : W32) : W32 := if x = 0 then 0x6D2B79F5#32 else x

/-- The 24 bits a rounding draws (R93). -/
def rngDraw (x : W32) : Nat := (rngStep x).toNat / 256

end Sys2Proof.Machine
end

