-- ==== Sys2Proof/Machine/Encoding.lean ====
section
/-! DEFINITION. The encoding tables of the instruction words: for each row of R61 the opcode, the accepted MOD,
TYPE and SAT values, and the kind of every field (R48, R49, R54, R55), with the checks of R58 as functions of
them. The decoder, the encoder and well-formedness all read these tables. -/

namespace Sys2Proof

/-! ### Codes -/

/-- TYPE codes (R56). -/
def Ty.code : Ty → BitVec 5
  | .b32 => 0 | .s8 => 1 | .s16 => 2 | .s32 => 3 | .s64 => 4 | .n8 => 5 | .n16 => 6 | .n32 => 7 | .n64 => 8
  | .f32 => 9 | .bf16 => 10 | .f16 => 11 | .e4m3 => 12 | .e5m2 => 13 | .e3m2 => 14 | .e2m3 => 15 | .fq4 => 16
  | .t2 => 17 | .b1 => 18

/-- Every type, in code order. -/
def allTys : List Ty :=
  [.b32, .s8, .s16, .s32, .s64, .n8, .n16, .n32, .n64, .f32, .bf16, .f16, .e4m3, .e5m2, .e3m2, .e2m3, .fq4, .t2, .b1]

/-- The type of a code; codes 0x13 to 0x1F name none. -/
def tyOfCode (c : BitVec 5) : Option Ty := allTys[c.toNat]?

def Scope.code : Scope → BitVec 3
  | .quad => 0 | .group => 1 | .block => 2 | .gang => 3 | .package => 4 | .domain => 5 | .system => 6 | .none => 7

def scopeOfCode (c : BitVec 3) : Scope :=
  match c.toNat with
  | 0 => .quad | 1 => .group | 2 => .block | 3 => .gang | 4 => .package | 5 => .domain | 6 => .system | _ => .none

def Ord.code : Ord → BitVec 2
  | .plain => 0 | .acquire => 1 | .release => 2 | .acqrel => 3

def ordOfCode (c : BitVec 2) : Ord :=
  match c.toNat with
  | 0 => .plain | 1 => .acquire | 2 => .release | _ => .acqrel

def Src.cls : Src → BitVec 2
  | .v _ => 0 | .w _ => 1 | .imm _ => 2 | .lit _ => 3

def Src.field : Src → BitVec 8
  | .v n => n | .w n => n | .imm x => x | .lit i => i

def srcOf (cls : BitVec 2) (f : BitVec 8) : Src :=
  match cls.toNat with
  | 0 => .v f | 1 => .w f | 2 => .imm f | _ => .lit f

/-! ### Types -/

def Ty.is64 (t : Ty) : Bool := t = .s64 || t = .n64

/-- The seven binary float types (R76). -/
def Ty.isFloat : Ty → Bool
  | .f32 | .bf16 | .f16 | .e4m3 | .e5m2 | .e3m2 | .e2m3 => true
  | _ => false

def Ty.isSigned : Ty → Bool
  | .s8 | .s16 | .s32 | .s64 => true
  | _ => false

end Sys2Proof

namespace Sys2Proof.Enc

/-- Operand widths in registers (R48); `byTy` is a pair for the 64-bit types and one register otherwise (R105). -/
inductive Width where
  | one | two | three | byTy
deriving DecidableEq, Repr

/-- The type whose rules a short immediate of this operand follows (R51): the TYPE field, the source type named by
field C (R120), or the integer reading of an operand that is an integer in an operation of a float type. -/
inductive ImmTy where
  | ty | cTy | int
deriving DecidableEq, Repr

/-- Kinds of the source fields of format A. -/
inductive SrcKind where
  /-- not used: field and class code zero (R48) -/
  | unused
  /-- an operand, with the classes it accepts -/
  | val (w : Width) (v wr im li : Bool) (imT : ImmTy)
  /-- a predicate field (R105); `neg`: its negate bit may be set -/
  | pred (neg : Bool)
  /-- the combining field C of ICMP and FCMP (R123) -/
  | cmp
  /-- the source type of a conversion (R120) -/
  | srcTy (tys : List Ty)
deriving DecidableEq, Repr

/-- Kinds of the DST field (R49), and of the fields A, B and C of formats M and E. -/
inductive FieldKind where
  | none
  /-- v register, pair or triple -/
  | v (w : Width)
  /-- w register, pair or triple -/
  | w (w : Width)
  /-- a block of n v registers that starts at a multiple of n (R148) -/
  | vBlock (n : Nat)
  /-- a block of n w registers that starts at a multiple of n (R190, R206) -/
  | wBlock (n : Nat)
  | pred
  /-- a tile predicate number (R49, R205) -/
  | kpred
  /-- a tile slot (R49, R200) -/
  | tile
  /-- HTPROBE's found predicate: bits 7:3 are required to be zero (R241) -/
  | found
  /-- a queue selector (R172) -/
  | queue
deriving DecidableEq, Repr

/-- The largest odd part, and the largest value, of an integer that a float type represents exactly (R76). -/
def immLimit : Ty → Nat × Nat
  | .f32 => (2 ^ 24, 2 ^ 30) | .bf16 => (2 ^ 8, 2 ^ 30) | .f16 => (2 ^ 11, 65504)
  | .e4m3 => (16, 448) | .e5m2 => (8, 57344) | .e3m2 => (8, 28) | .e2m3 => (16, 7)
  | _ => (2 ^ 30, 2 ^ 30)

/-- Is `n` of the form m × 2^k with m < lim? -/
def oddPartBelow (lim : Nat) : Nat → Nat → Bool
  | 0, n => decide (n < lim)
  | k + 1, n => decide (n < lim) || (n % 2 == 0 && oddPartBelow lim k (n / 2))

/-- R51: a short immediate of a float type must be representable exactly. -/
def immFits (t : Ty) (x : BitVec 8) : Bool :=
  !t.isFloat || (decide (x.toInt.natAbs ≤ (immLimit t).2) && oddPartBelow (immLimit t).1 8 x.toInt.natAbs)

/-! ### Checks of R58 on one field -/

def Width.regs (t : Ty) : Width → Nat
  | .one => 1 | .two => 2 | .three => 3 | .byTy => if t.is64 then 2 else 1

/-- Limits of a v register operand (R48). -/
def vOk (n : Nat) (f : BitVec 8) : Bool :=
  if n = 2 then f.toNat % 2 == 0 else if n = 3 then decide (f.toNat ≤ 253) else true

/-- Limits of a w register operand (R48). -/
def wOk (n : Nat) (f : BitVec 8) : Bool :=
  decide (f.toNat < 64) &&
    (if n = 2 then f.toNat % 2 == 0 else if n = 3 then decide (f.toNat ≤ 61) else true)

/-- Limits of a literal operand (R48, R57). -/
def litOk (lits : List W64) (n : Nat) (f : BitVec 8) : Bool :=
  decide (f.toNat < 8) && decide (f.toNat < lits.length) &&
    (if n = 3 then
      match lits[f.toNat + 1]? with
      | some x => x.toNat < 2 ^ 16
      | none => false
     else true)

/-- The type that field C of a conversion names (R120). -/
def cTyOf (c : Src) : Ty := (tyOfCode ((Src.field c).extractLsb' 0 5)).getD .b32

/-- The class is one the instruction accepts (check 3). DEDUCED, log 12. -/
def SrcKind.check3 (k : SrcKind) (s : Src) : Bool :=
  match k, s with
  | .val _ v _ _ _ _, .v _ => v
  | .val _ _ w _ _ _, .w _ => w
  | .val _ _ _ i _ _, .imm _ => i
  | .val _ _ _ _ l _, .lit _ => l
  | _, .v _ => true
  | _, _ => false

/-- The field lies within its limits (check 4). DEDUCED, log 13. -/
def SrcKind.check4 (lits : List W64) (ty cty : Ty) (k : SrcKind) (s : Src) : Bool :=
  match k, s with
  | .val wd _ _ _ _ _, .v f => vOk (wd.regs ty) f
  | .val wd _ _ _ _ _, .w f => wOk (wd.regs ty) f
  | .val wd _ _ _ _ _, .lit f => litOk lits (wd.regs ty) f
  | .val _ _ _ _ _ imT, .imm x => immFits (match imT with | .ty => ty | .cTy => cty | .int => .s32) x
  | .srcTy tys, s => match tyOfCode ((Src.field s).extractLsb' 0 5) with
      | some t => tys.contains t
      | none => false
  | _, _ => true

/-- Unused bits are zero (check 5). -/
def SrcKind.check5 (k : SrcKind) (s : Src) : Bool :=
  match k with
  | .unused => (Src.field s).toNat == 0
  | .val .. => true
  | .pred neg => (Src.field s).toNat < 16 && (neg || (Src.field s).toNat < 8)
  | .cmp => (Src.field s).toNat < 64 && (!((Src.field s).extractLsb' 3 2).toNat == 0 || (Src.field s).toNat == 0)
  | .srcTy _ => (Src.field s).toNat < 32

/-- Limits of DST, and of the fields of formats M and E (check 4). -/
def FieldKind.check4 (ty : Ty) (k : FieldKind) (f : BitVec 8) : Bool :=
  match k with
  | .none => true
  | .v wd => vOk (wd.regs ty) f
  | .w wd => wOk (wd.regs ty) f
  | .vBlock n => f.toNat % n == 0
  | .wBlock n => decide (f.toNat < 64) && f.toNat % n == 0
  | .pred => f.toNat < 8
  | .kpred => f.toNat < 16
  | .tile => f.toNat < 16
  | .found => true
  | .queue => true

/-- Unused bits of such a field are zero (check 5). -/
def FieldKind.check5 (k : FieldKind) (f : BitVec 8) : Bool :=
  match k with
  | .none => f.toNat == 0
  | .found => f.toNat < 8
  | .queue => f.getLsbD 7 || (f.extractLsb' 5 2).toNat == 0
  | _ => true

/-! ### Rows -/

/-- What a format A instruction accepts. -/
structure SpecA where
  /-- MOD, TYPE and SAT together (check 3) -/
  ok : Nat → Ty → Bool → Bool
  dst : FieldKind
  a : SrcKind
  b : SrcKind
  c : SrcKind

/-- What a format M instruction accepts. -/
structure SpecM where
  ok : Nat → Ty → Scope → Ord → Bool
  dst : Nat → FieldKind
  a : FieldKind
  b : Nat → FieldKind

/-- What a format E instruction accepts: kinds of the fields given MOD and IMM12, combinations that select no
variant (`ok`, check 3), values out of range (`range`, check 4) and bits that must be zero (`zero`, check 5). -/
structure SpecE where
  dst : Nat → Nat → FieldKind
  a : Nat → Nat → FieldKind
  b : Nat → Nat → FieldKind
  c : Nat → Nat → FieldKind
  ok : Nat → Nat → Bool
  range : Nat → Nat → Bool
  zero : BitVec 12

/-- The format of a row with its constructor. -/
inductive Fmt where
  | a (s : SpecA) (mk : FmtA → Instr)
  | w (mk : FmtW → Instr)
  | j (dst : FieldKind) (zeroOff : Bool) (mk : FmtJ → Instr)
  | m (s : SpecM) (mk : FmtM → Instr)
  | e (s : SpecE) (mk : FmtE → Instr)

/-- One row: an opcode, the MOD values that select this constructor, its format. -/
structure Row where
  opc : Nat
  mod : Nat → Bool
  fmt : Fmt

/-! ### Short names for the kinds -/

/-- any of the four classes -/
def any (w : Width) : SrcKind := .val w true true true true .ty
/-- any class, read as an integer whatever the TYPE -/
def anyInt (w : Width) : SrcKind := .val w true true true true .int
/-- any class, an immediate following the source type of a conversion -/
def anyC (w : Width) : SrcKind := .val w true true true true .cTy
/-- an address: v triple, w triple or literal (R113) -/
def adr : SrcKind := .val .three true true false true .ty

def sel1 (n : Nat) : Nat → Bool := fun m => m == n
def upTo (n : Nat) : Nat → Bool := fun m => m ≤ n
/-- a legal rounding mode with MOD[3] = 0 (R47) -/
def rmOk (m : Nat) : Bool := m ≤ 5

def intTys : List Ty := [.s32, .n32, .s64, .n64]
def f3 : List Ty := [.f32, .bf16, .f16]
def f7 : List Ty := [.f32, .bf16, .f16, .e4m3, .e5m2, .e3m2, .e2m3]
def i8 : List Ty := [.s8, .s16, .s32, .s64, .n8, .n16, .n32, .n64]

/-- Op and type pairings of QRED, GRED and GSCAN (R125, R127). -/
def redOk (op : Nat) (t : Ty) : Bool :=
  (op ≤ 2 && [Ty.s32, .n32, .f32].contains t) || (3 ≤ op && op ≤ 5 && t = .b32)

/-- A format A row with fixed MOD 0. -/
def rA (opc : Nat) (tys : List Ty) (sat : Bool) (dst : FieldKind) (a b c : SrcKind) (mk : FmtA → Instr) : Row :=
  ⟨opc, sel1 0, .a ⟨fun _ t s => tys.contains t && (sat || !s), dst, a, b, c⟩ mk⟩

/-- A format A row with its own MOD, TYPE and SAT condition. -/
def rA' (opc : Nat) (ok : Nat → Ty → Bool → Bool) (dst : FieldKind) (a b c : SrcKind) (mk : FmtA → Instr) : Row :=
  ⟨opc, fun _ => true, .a ⟨ok, dst, a, b, c⟩ mk⟩

/-- Integer rows of R106. -/
def intRows : List Row := [
  rA 0x001 intTys true (.v .byTy) (any .byTy) (any .byTy) .unused .iadd,
  rA 0x002 intTys true (.v .byTy) (any .byTy) (any .byTy) .unused .isub,
  rA 0x003 [.n32] false (.v .one) (any .one) (any .one) (.pred false) .iaddc,
  rA 0x004 [.n32] false (.v .one) (any .one) (any .one) (.pred false) .isubb,
  rA 0x005 intTys true (.v .byTy) (any .byTy) (any .byTy) .unused .imul,
  rA 0x006 [.s32, .n32] false (.v .one) (any .one) (any .one) .unused .imulh,
  rA 0x007 [.s32, .n32] true (.v .one) (any .one) (any .one) (any .one) .imad,
  rA 0x008 [.s32, .n32] true (.v .two) (any .one) (any .one) (any .two) .imad64,
  rA 0x009 intTys false (.v .byTy) (any .byTy) (any .byTy) .unused .imin,
  rA 0x00A intTys false (.v .byTy) (any .byTy) (any .byTy) .unused .imax,
  rA 0x00B [.s32, .s64] true (.v .byTy) (any .byTy) .unused .unused .iabs,
  rA 0x00C [.s32, .s64] true (.v .byTy) (any .byTy) .unused .unused .ineg,
  rA 0x00D [.s8, .n8] true (.v .one) (any .one) (any .one) (any .one) .dot4]

/-- Logic, shift and bit-field rows of R110 and R111. -/
def logicRows : List Row := [
  rA 0x010 [.b32] false (.v .one) (any .one) (any .one) .unused .and,
  rA 0x011 [.b32] false (.v .one) (any .one) (any .one) .unused .or,
  rA 0x012 [.b32] false (.v .one) (any .one) (any .one) .unused .xor,
  rA 0x013 [.b32] false (.v .one) (any .one) (any .one) .unused .andn,
  rA 0x014 [.b32] false (.v .one) (any .one) .unused .unused .not,
  rA 0x015 [.b32] false (.v .one) (any .one) (any .one) .unused .shl,
  rA 0x016 [.b32] false (.v .one) (any .one) (any .one) .unused .shr,
  rA 0x017 [.s32] false (.v .one) (any .one) (any .one) .unused .sar,
  rA 0x018 [.b32] false (.v .one) (any .one) (any .one) .unused .rotl,
  rA 0x019 [.b32] false (.v .one) (any .one) .unused .unused .popc,
  rA 0x01A [.b32] false (.v .one) (any .one) .unused .unused .clz,
  rA 0x01B [.b32] false (.v .one) (any .one) .unused .unused .ctz,
  rA 0x01C [.b32] false (.v .one) (any .one) .unused .unused .brev,
  rA 0x01D [.n32, .s32] false (.v .one) (any .one) (any .one) .unused .bfx,
  rA 0x01E [.b32] false (.v .one) (any .one) (any .one) (any .one) .bfi,
  rA 0x01F [.b32] false (.v .one) (any .one) (any .one) (any .one) .prmt]

/-- Selection and moves (R112). -/
def moveRows : List Row := [
  rA 0x020 [.b32, .n64] false (.v .byTy) (any .byTy) (any .byTy) (.pred true) .sel,
  rA 0x021 [.b32, .n64] false (.v .byTy) (any .byTy) .unused .unused .mov,
  ⟨0x022, upTo 2, .w .movi⟩,
  rA 0x023 [.b32] false (.v .one) (.val .one false true false false .ty) (any .one) .unused .movw,
  rA 0x024 [.b32, .n64] false (.w .byTy) (any .byTy) .unused .unused .wmov]

/-- Address rows (R113 to R115). -/
def addrRows : List Row := [
  rA 0x040 [.s32, .s64] false (.v .three) adr (any .byTy) .unused .aadd,
  rA 0x041 [.s32, .s64] false (.v .three) adr (any .byTy) .unused .asub,
  rA 0x042 [.s64] true (.v .two) adr adr .unused .adiff,
  rA' 0x043 (fun m t s => m ≤ 5 && t = .b32 && !s) .pred adr adr .unused .acmp,
  rA 0x044 [.b32] false (.v .three) (.val .three false true false true .ty) .unused .unused .amovi,
  rA' 0x045 (fun m t s => m ≤ 4 && t = .b32 && !s) .pred adr .unused .unused .sptest,
  rA' 0x046 (fun m t s => m ≤ 2 && t = .b32 && !s) (.v .three) adr .unused .unused .spcast]

/-- A rounding float row (R116): RM in MOD[2:0], MOD[3] = 0. -/
def rF (opc : Nat) (tys : List Ty) (sat : Bool) (a b c : SrcKind) (mk : FmtA → Instr) : Row :=
  rA' opc (fun m t s => rmOk m && tys.contains t && (sat || !s)) (.v .one) a b c mk

/-- Floating-point rows (R116 to R120). -/
def floatRows : List Row := [
  rF 0x050 f3 true (any .one) (any .one) .unused .fadd,
  rF 0x051 f3 true (any .one) (any .one) .unused .fsub,
  rF 0x052 f3 true (any .one) (any .one) .unused .fmul,
  rF 0x053 f3 true (any .one) (any .one) (any .one) .ffma,
  rA' 0x054 (fun m t s => (m == 0 || m == 8) && f3.contains t && !s) (.v .one) (any .one) (any .one) .unused .fmin,
  rA' 0x055 (fun m t s => (m == 0 || m == 8) && f3.contains t && !s) (.v .one) (any .one) (any .one) .unused .fmax,
  rF 0x056 f3 false (any .one) .unused .unused .frcp,
  rA 0x057 f3 false (.v .one) (any .one) .unused .unused .frsq,
  rF 0x058 f3 false (any .one) .unused .unused .fsqrt,
  rA 0x059 f3 false (.v .one) (any .one) .unused .unused .fex2,
  rA 0x05A f3 false (.v .one) (any .one) .unused .unused .flg2,
  rA 0x05B f3 false (.v .one) (any .one) .unused .unused .fsin,
  rA 0x05C f3 false (.v .one) (any .one) .unused .unused .fcos,
  rA 0x05D f3 false (.v .one) (any .one) .unused .unused .ftanh,
  rA 0x05E f7 false (.v .one) (any .one) .unused .unused .fclass,
  rF 0x05F f3 false (any .one) .unused .unused .frnd,
  rF 0x060 f3 true (any .one) (anyInt .one) .unused .fscale,
  rF 0x061 f7 true (anyC .one) .unused (.srcTy f7) .fcvt,
  rA' 0x062 (fun m t _ => rmOk m && (i8 ++ f7).contains t) (.v .byTy) (anyC .byTy) .unused (.srcTy i8) .icvt,
  rA' 0x063 (fun m t _ => rmOk m && i8.contains t) (.v .byTy) (anyC .one) .unused (.srcTy f7) .ficvt]

/-- Packed rows (R121, R122). -/
def packedRows : List Row := [
  rF 0x068 [.bf16, .f16] true (any .one) (any .one) .unused .pkadd,
  rF 0x069 [.bf16, .f16] true (any .one) (any .one) .unused .pkmul,
  rF 0x06A [.bf16, .f16] true (any .one) (any .one) (any .one) .pkfma,
  rA' 0x06B (fun m t _ => rmOk (m % 8) && ([Ty.bf16, .f16].contains t && m < 8 || [Ty.e4m3, .e5m2, .e3m2, .e2m3].contains t))
    (.v .one) (any .one) (any .one) .unused .pkcvt]

/-- Compare and predicate rows (R123, R124). -/
def predRows : List Row := [
  rA' 0x080 (fun m t s => !s && (m ≤ 5 && intTys.contains t || m ≤ 1 && t = .b32)) .pred (any .byTy) (any .byTy) .cmp .icmp,
  rA' 0x081 (fun m t s => !s && m ≤ 7 && f3.contains t) .pred (any .one) (any .one) .cmp .fcmp,
  rA 0x082 [.b32] false .pred (any .one) .unused .unused .pset,
  rA 0x083 [.b32] false .pred (.pred true) (.pred true) .unused .pand,
  rA 0x084 [.b32] false .pred (.pred true) (.pred true) .unused .por,
  rA 0x085 [.b32] false .pred (.pred true) (.pred true) .unused .pxor,
  rA 0x086 [.b32] false .pred (.pred true) .unused .unused .pnot,
  rA 0x087 [.b32] false .pred (.pred true) .unused .unused .pmov,
  rA 0x088 [.b32] false (.v .one) .unused .unused .unused .ppack,
  rA 0x089 [.b32] false .none (any .one) .unused .unused .punpk,
  ⟨0x089, sel1 1, .a ⟨fun _ t s => t = .b32 && !s, .none, any .one, any .one, .unused⟩ .punpkMask⟩]

/-- Quad and group rows (R125, R126). -/
def laneRows : List Row := [
  rA 0x090 [.b32] false (.v .one) (any .one) (.val .one false false true false .ty) .unused .qswz,
  rA' 0x091 (fun m t s => m ≤ 2 && t = .b32 && !s) (.v .one) (any .one) .unused .unused .qxch,
  rA' 0x092 (fun m t s => redOk m t && !s) (.v .one) (any .one) .unused .unused .qred,
  rA' 0x093 (fun m t s => rmOk (m % 8) && t = .f32 && !s) (.v .one) (any .one) .unused .unused .qdiff,
  rA 0x094 [.b32] false .pred .unused .unused .unused .qhelp,
  rA' 0x098 (fun m t s => m ≤ 2 && t = .b32 && !s) .pred (.pred true) .unused .unused .gvote,
  rA 0x099 [.b32] false (.v .one) (.pred true) .unused .unused .gballot,
  rA' 0x09A (fun m t s => m ≤ 3 && [Ty.b32, .n64].contains t && !s) (.v .byTy) (any .byTy) (any .one) .unused .gshfl,
  rA 0x09B [.b32, .n64] false (.v .byTy) (any .byTy) (any .one) .unused .gbcst,
  rA' 0x09C (fun m t s => redOk m t && !s) (.v .one) (any .one) .unused .unused .gred,
  rA' 0x09D (fun m t s => redOk (m % 8) t && !s) (.v .one) (any .one) .unused .unused .gscan,
  rA 0x09E [.b32, .n64] false (.v .one) (any .byTy) .unused .unused .gmatch,
  rA' 0x09F (fun m t s => m ≤ 1 && [Ty.f32, .s32, .n32].contains t && !s) (.v .one) (any .one) (anyInt .one) .unused .gtopk,
  rA 0x0A0 [.b32] false (.v .one) (.pred true) .unused .unused .gcount]

/-! ### Formats J, M and E -/

/-- A format E row: MOD values, kinds of DST, A, B and C, and the bits of IMM12 that must be zero. -/
def rE (opc : Nat) (md : Nat → Bool) (dst a b c : FieldKind) (zero : BitVec 12) (mk : FmtE → Instr) : Row :=
  ⟨opc, md, .e ⟨fun _ _ => dst, fun _ _ => a, fun _ _ => b, fun _ _ => c, fun _ _ => true, fun _ _ => true, zero⟩ mk⟩

/-- The same with a range check on IMM12 (check 4). -/
def rEr (opc : Nat) (md : Nat → Bool) (dst a b c : FieldKind) (zero : BitVec 12) (range : Nat → Nat → Bool)
    (mk : FmtE → Instr) : Row :=
  ⟨opc, md, .e ⟨fun _ _ => dst, fun _ _ => a, fun _ _ => b, fun _ _ => c, fun _ _ => true, range, zero⟩ mk⟩

/-- The live count of IMM12[8:0] is at most 256 (R137, R162). -/
def liveOk (_ imm : Nat) : Bool := imm % 512 ≤ 256

/-- Control flow (R131 to R138). -/
def controlRows : List Row := [
  rE 0x0B0 (sel1 0) .none .none .none .none 0xFFF .nop,
  ⟨0x0B1, sel1 0, .j .none false .bra⟩,
  ⟨0x0B2, sel1 0, .j (.v .one) false .brc⟩,
  rE 0x0B3 (sel1 0) .none (.v .one) .none .none 0xFFF .brx,
  ⟨0x0B4, sel1 0, .j .none false .call⟩,
  rE 0x0B5 (sel1 0) .none (.v .one) .none .none 0xFFF .callx,
  rE 0x0B6 (sel1 0) .none .none .none .none 0xFFF .ret,
  ⟨0x0B7, sel1 0, .j .none false .meet⟩,
  ⟨0x0B7, sel1 1, .j .none true .meetClear⟩,
  rE 0x0B8 (sel1 0) .none .none .none .none 0xFFF .exit,
  ⟨0x0B9, upTo 3, .e ⟨fun _ _ => .none, fun m _ => if m = 1 ∨ m = 3 then .w .one else .none, fun _ _ => .none,
    fun _ _ => .none, fun _ _ => true, liveOk, 0xE00⟩ .park⟩,
  rEr 0x0BA (sel1 0) .none .none .none .none 0xE00 liveOk .yield]

/-- The types L of R148. -/
def ldTys : List Ty := [.s8, .n8, .s16, .n16, .bf16, .f16, .b32, .s32, .n32, .f32, .s64, .n64]

/-- SCOPE and ORD agree (R54), and ORD is one of those accepted. DEDUCED, log 144. -/
def ordOk (os : List Ord) (sc : Scope) (o : Ord) : Bool :=
  os.contains o && ((o = .plain && sc = .none) || (o ≠ .plain && sc ≠ .none))

/-- A format M row. -/
def rM (opc : Nat) (ok : Nat → Ty → Bool) (os : List Ord) (dst : Nat → FieldKind) (a : FieldKind) (b : Nat → FieldKind)
    (mk : FmtM → Instr) : Row :=
  ⟨opc, fun _ => true, .m ⟨fun m t sc o => ok m t && ordOk os sc o, dst, a, b⟩ mk⟩

/-- Words moved by LDX and STX (R148). -/
def xWords (m : Nat) : Nat := 2 ^ (m + 1)

/-- Operation and type pairings of the atomics (R152). -/
def atomOk (m : Nat) (t : Ty) : Bool :=
  let op := m % 8
  (op ≤ 2 && [Ty.s32, .n32, .s64, .n64, .f32].contains t) || (3 ≤ op && op ≤ 5 && [Ty.b32, .n64].contains t)
    || (op == 6 && [Ty.b32, .n64, .f32].contains t) || (op == 7 && [Ty.b32, .n64].contains t)

/-- `.nr` leaves DST out, except under `.cas` (R152). -/
def atomDst (k : FieldKind) (m : Nat) : FieldKind := if 8 ≤ m ∧ m ≠ 15 then .none else k

/-- Memory rows (R148 to R159). -/
def memRows : List Row := [
  rM 0x0C0 (fun m t => m == 0 && ldTys.contains t) [.plain, .acquire] (fun _ => .v .byTy) (.v .three) (fun _ => .none) .ld,
  rM 0x0C1 (fun m t => m == 0 && ldTys.contains t) [.plain, .release] (fun _ => .none) (.v .three) (fun _ => .v .byTy) .st,
  rM 0x0C2 (fun m t => m == 0 && ldTys.contains t) [.plain, .acquire] (fun _ => .w .byTy) (.w .three) (fun _ => .none) .ldw,
  rM 0x0C3 (fun m t => m == 0 && ldTys.contains t) [.plain, .release] (fun _ => .none) (.w .three) (fun _ => .w .byTy) .stw,
  rM 0x0C4 (fun m t => m ≤ 2 && t = .b32) [.plain, .acquire] (fun m => .vBlock (xWords m)) (.v .three) (fun _ => .none) .ldx,
  rM 0x0C5 (fun m t => m ≤ 2 && t = .b32) [.plain, .release] (fun _ => .none) (.v .three) (fun m => .vBlock (xWords m)) .stx,
  rM 0x0C6 (fun m t => m == 0 && t = .n8) [.plain, .release] (fun _ => .none) (.v .three) (fun _ => .v .one) .nibst,
  rM 0x0C8 atomOk [.plain, .acquire, .release, .acqrel] (atomDst (.v .byTy)) (.v .three) (fun _ => .v .byTy) .atom,
  rM 0x0C9 atomOk [.plain, .acquire, .release, .acqrel] (atomDst (.w .byTy)) (.w .three) (fun _ => .w .byTy) .atomw,
  rM 0x0D0 (fun m t => m ≤ 2 && t = .b32) [.plain] (fun _ => .none) (.v .three) (fun _ => .none) .pref,
  rM 0x0D1 (fun m t => m == 0 && t = .b32) [.plain, .release] (fun _ => .none) (.v .three) (fun _ => .v .one) .dcz,
  rM 0x0D2 (fun m t => m == 0 && t = .b32) [.plain] (fun _ => .w .one) (.w .three) (fun _ => .w .one) .llock,
  rM 0x0D3 (fun m t => m == 0 && t = .b32) [.plain] (fun _ => .w .one) (.w .three) (fun _ => .w .one) .lulock,
  rM 0x0D4 (fun m t => m ≤ 1 && t = .b32) [.plain] (fun _ => .w .one) (.w .three) (fun _ => .w .one) .cwb,
  rM 0x0D5 (fun m t => m ≤ 1 && t = .b32) [.plain] (fun _ => .w .one) (.w .three) (fun _ => .w .one) .cinv,
  rM 0x0D6 (fun m t => m == 0 && t = .b32) [.plain] (fun _ => .w .one) (.w .three) (fun _ => .w .one) .icinv]

/-- Synchronisation rows (R161, R162, R169, R172). -/
def syncRows : List Row := [
  rEr 0x0D7 (sel1 0) .none .none .none .none 0xFE0 (fun _ i => i % 8 ≤ 6) .fence,
  rEr 0x0E0 (sel1 0) (.v .one) (.w .one) .none .none 0xE00 liveOk .await,
  rE 0x0E4 (sel1 0) .none (.w .three) (.w .one) .none 0xFFF .tbinit,
  ⟨0x0E5, upTo 1, .e ⟨fun _ _ => .w .one, fun _ _ => .w .three, fun _ _ => .w .one,
    fun m _ => if m = 1 then .w .one else .none, fun _ _ => true, fun _ _ => true, 0xFFF⟩ .tbarv⟩,
  rE 0x0E6 (sel1 0) .none (.w .three) (.w .one) .none 0xFFF .tbexp,
  rEr 0x0E7 (sel1 0) .none (.w .three) (.w .one) .none 0xE00 liveOk .tbwait,
  rE 0x0E8 (sel1 0) (.w .one) (.w .three) .none .none 0xFFF .tbphase,
  rE 0x0F0 (sel1 0) .none .queue (.w .two) (.w .one) 0xFFF .qinit,
  rEr 0x0F1 (sel1 0) .none .queue (.w .one) .none 0xE00 liveOk .qpush,
  rEr 0x0F2 (sel1 0) (.v .one) .queue .none .none 0xE00 liveOk .qpop,
  rE 0x0F3 (sel1 0) (.v .one) .queue .none .none 0xFFF .qtryPop,
  rE 0x0F3 (sel1 1) (.v .one) .queue (.w .one) .none 0xFFF .qtryPush,
  rE 0x0F4 (sel1 0) .none .queue (.w .one) .none 0xFFF .qgrant,
  rE 0x0F5 (upTo 1) (.w .one) .queue .none .none 0xFFF .qstat]

/-- Matrix rows (R185 to R205). -/
def matrixRows : List Row := [
  rE 0x100 (sel1 0) .tile (.w .three) (.w .three) (.v .one) 0xFFE .mma,
  rE 0x101 (sel1 0) .tile (.wBlock 8) (.w .three) (.v .one) 0xFFE .mmau,
  rE 0x102 (sel1 0) .tile (.w .three) (.w .three) (.v .one) 0xFFC .mmas,
  rE 0x103 (sel1 0) (.wBlock 8) (.w .three) .none .none 0xFFF .udesc,
  rE 0x110 (sel1 0) .tile .none .none .none 0xFFF .aclr,
  rE 0x111 (sel1 0) .tile (.w .three) (.w .one) .none 0xFFF .ald,
  rE 0x111 (sel1 1) .tile (.w .three) .none .none 0xFFF .aldSparse,
  rE 0x112 (sel1 0) .tile (.w .three) (.w .one) .none 0xFFF .ast,
  rE 0x113 (sel1 0) .tile (.w .three) (.w .one) .none 0xFFF .asts,
  rEr 0x114 (upTo 2) .tile .none (.w .one) .none 0xFF0 (fun _ i => rmOk (i % 8)) .acvt,
  rEr 0x115 (sel1 0) .tile (.w .three) (.w .one) (.w .three) 0xFC0 (fun _ i => rmOk (i / 8 % 8)) .aquant,
  rEr 0x116 (upTo 1) (.v .one) .tile .none .none 0xF80 (fun _ i => i / 2 % 64 ≤ 32) .atopk,
  rE 0x117 (upTo 3) (.v .one) .tile .none .none 0xFFE .aredr,
  rE 0x120 (upTo 1) .tile (.w .one) .none .none 0xFFF .abind,
  rE 0x121 (sel1 0) .tile .none .none .none 0xFFF .aunbind,
  rE 0x121 (sel1 1) .tile .none .none .none 0xFFF .aunbindFlush,
  rE 0x122 (sel1 0) .tile .none .none .none 0xFFF .aflush,
  rE 0x130 (sel1 0) .kpred .none .none .none 0xFFE .kset,
  rE 0x130 (sel1 1) .none (.w .one) .none .none 0xFFF .ksetMask,
  rE 0x131 (sel1 0) .kpred .kpred .kpred .none 0xFFF .kand,
  rE 0x132 (sel1 0) .kpred .kpred .kpred .none 0xFFF .kor,
  rE 0x133 (sel1 0) .kpred .kpred .none .none 0xFFF .knot,
  rE 0x134 (sel1 0) .pred .kpred .none .none 0xFFF .ktest,
  rE 0x134 (sel1 1) (.w .one) .none .none .none 0xFFF .ktestMask]

/-- The token operand of an engine operation: absent under NOTOK (R216, R219). -/
def tokDst (imm : Nat) : FieldKind := if imm % 2 = 1 then .none else .w .one

/-- Engine and fabric rows (R206 to R232). -/
def engineRows : List Row := [
  rE 0x180 (sel1 0) (.w .one) (.wBlock 16) (.w .one) .none 0xFFF .xtmpl,
  ⟨0x181, sel1 0, .e ⟨fun _ i => tokDst i, fun _ _ => .w .one, fun _ _ => .w .one, fun _ _ => .w .one,
    fun _ _ => true, fun _ _ => true, 0xFFE⟩ .xcopy⟩,
  ⟨0x182, sel1 0, .e ⟨fun _ i => tokDst i, fun _ _ => .wBlock 8, fun _ i => if i / 2 % 2 = 1 then .w .three else .none,
    fun _ _ => .none, fun _ _ => true, fun _ _ => true, 0xFFC⟩ .xgath⟩,
  ⟨0x183, sel1 0, .e ⟨fun _ i => tokDst i, fun _ _ => .wBlock 8, fun _ i => if i / 2 % 2 = 1 then .w .three else .none,
    fun _ _ => .none, fun _ _ => true, fun _ _ => true, 0xFFC⟩ .xscat⟩,
  ⟨0x188, upTo 1, .e ⟨fun _ _ => .w .one, fun _ _ => .wBlock 8, fun m _ => if m = 1 then .w .three else .none,
    fun m _ => if m = 1 then .w .one else .none, fun _ _ => true, fun _ _ => true, 0xFFF⟩ .sinter⟩,
  rE 0x189 (sel1 0) (.w .one) (.wBlock 8) (.w .three) (.w .one) 0xFFF .smerge,
  rEr 0x190 (sel1 0) (.w .one) (.v .one) .none .none 0x800 (fun _ i => i / 16 % 64 < 32) .mred,
  rE 0x191 (sel1 0) (.w .one) .none (.w .one) .none 0xFF0 .mrcv,
  rE 0x192 (sel1 0) .none (.wBlock 4) .none .none 0xFF0 .mrselOpen,
  rE 0x192 (sel1 1) .none .none .none .none 0xFF0 .mrselClose,
  rE 0x1A0 (sel1 0) .none (.w .one) .none .none 0xFFF .xslot,
  rE 0x1A1 (sel1 0) (.w .one) (.w .one) .none .none 0xFFF .xstc,
  rE 0x1A2 (sel1 0) (.w .one) (.w .one) (.w .three) (.w .one) 0xFFF .xflag]

/-- A key or value operand of a hash instruction: a pair where its width bit is 1 (R241). -/
def wide (b : Bool) : FieldKind := .v (if b then .two else .one)
def kwBit (i : Nat) : Bool := i / 8 % 2 == 1
def vwBit (i : Nat) : Bool := i / 16 % 2 == 1

/-- HTACC accepts no kind 3, no float with `.or`, no float kind with a 64-bit value (R241). -/
def htaccOk (m i : Nat) : Bool := m / 4 ≤ 2 && !(m / 4 == 2 && m % 4 == 3) && !(m / 4 == 2 && vwBit i)

/-- Hash rows (R239 to R248). -/
def hashRows : List Row := [
  rE 0x1C0 (sel1 0) (.w .one) (.w .three) (.w .two) (.w .one) 0xFF8 .htclaim,
  rE 0x1C1 (sel1 0) .none .none .none .none 0xFF8 .htfree,
  ⟨0x1C2, sel1 0, .e ⟨fun _ _ => .v .one, fun _ i => wide (kwBit i), fun _ i => wide (vwBit i), fun _ _ => .none,
    fun _ _ => true, fun _ _ => true, 0xFE0⟩ .htins⟩,
  ⟨0x1C3, sel1 0, .e ⟨fun _ i => wide (vwBit i), fun _ i => wide (kwBit i), fun _ i => wide (vwBit i), fun _ _ => .found,
    fun _ _ => true, fun _ _ => true, 0xFE0⟩ .htprobe⟩,
  ⟨0x1C4, sel1 0, .e ⟨fun _ _ => .v .one, fun _ i => wide (kwBit i), fun _ _ => .none, fun _ _ => .none,
    fun _ _ => true, fun _ _ => true, 0xFF0⟩ .htdel⟩,
  ⟨0x1C5, fun _ => true, .e ⟨fun _ _ => .v .one, fun _ i => wide (kwBit i), fun _ i => wide (vwBit i), fun _ _ => .none,
    htaccOk, fun _ _ => true, 0xFE0⟩ .htacc⟩,
  rE 0x1C6 (sel1 0) (.w .one) (.w .three) (.w .one) .none 0xFE0 .htdrain,
  rE 0x1C7 (upTo 2) (.w .one) .none .none .none 0xFF8 .htstat]

/-- Width in registers of the system register with a number (R254); 1 for a number that names none. -/
def sysWidth (n : Nat) : Width := if n = 0x030 ∨ n = 0x031 ∨ n = 0x034 then .three else .one

/-- System and task rows (R250 to R259). -/
def systemRows : List Row := [
  ⟨0x1E0, upTo 1, .e ⟨fun m i => if m = 0 then .v (sysWidth i) else .w (sysWidth i), fun _ _ => .none, fun _ _ => .none,
    fun _ _ => .none, fun _ _ => true, fun _ _ => true, 0⟩ .sread⟩,
  ⟨0x1E1, upTo 1, .e ⟨fun _ _ => .none, fun m i => if m = 0 then .v (sysWidth i) else .w (sysWidth i), fun _ _ => .none,
    fun _ _ => .none, fun _ _ => true, fun _ _ => true, 0⟩ .swrite⟩,
  ⟨0x1E2, upTo 1, .e ⟨fun m _ => if m = 0 then .w .two else .v .two, fun _ _ => .none, fun _ _ => .none, fun _ _ => .none,
    fun _ _ => true, fun _ _ => true, 0xFFF⟩ .tstamp⟩,
  rE 0x1E3 (sel1 0) .none .none .none .none 0 .trap,
  rE 0x1E4 (sel1 0) .none .none .none .none 0 .bkpt,
  rE 0x1E5 (sel1 0) .none .none .none .none 0xFFF .tret,
  rE 0x1E5 (sel1 1) .none .none .none .none 0xFFF .tretSkip,
  rE 0x1E6 (sel1 0) (.w .one) (.w .one) (.w .one) .none 0 .ecall,
  rE 0x1E8 (sel1 0) (.w .one) (.w .one) (.w .three) .none 0xFFF .launch,
  rE 0x1EC (sel1 0) (.w .one) (.w .one) .none .none 0xFFF .tkrsv,
  rE 0x1ED (sel1 0) .none (.w .one) (.w .three) (.w .one) 0xFFF .tkpub,
  rE 0x1EE (sel1 0) .none (.w .one) (.w .one) .none 0xFFF .tksig]

/-- The opcode map (R61). -/
def rows : List Row :=
  intRows ++ logicRows ++ moveRows ++ addrRows ++ floatRows ++ packedRows ++ predRows ++ laneRows ++ controlRows
    ++ memRows ++ syncRows ++ matrixRows ++ engineRows ++ hashRows ++ systemRows

/-- Rows of an opcode. -/
def rowsOf (opc : Nat) : List Row := rows.filter (fun r => r.opc == opc)

/-- OPC is assigned (R61). -/
def assigned (opc : Nat) : Bool := rows.any (fun r => r.opc == opc)

/-- The clause class an opcode belongs to (R60). -/
def classOf (opc : Nat) : Nat :=
  if opc < 0x100 then 0 else if opc < 0x180 then 1 else if opc < 0x1C0 then 2 else if opc < 0x1E0 then 3
  else if opc < 0x1E3 then 0 else if opc < 0x200 then 4 else 0

/-- Control-transfer instructions (R40): BRA, BRC, BRX, CALL, CALLX, RET, TRET. -/
def isTransfer (opc : Nat) : Bool := [0x0B1, 0x0B2, 0x0B3, 0x0B4, 0x0B5, 0x0B6, 0x1E5].contains opc

/-- Segment-ending instructions (R40): EXIT, PARK, YIELD, AWAIT, TBWAIT, QPUSH, QPOP. -/
def isSegEnd (opc : Nat) : Bool := [0x0B8, 0x0B9, 0x0BA, 0x0E0, 0x0E7, 0x0F1, 0x0F2].contains opc

/-! ### The checks of one word, in the order of R58 -/

/-- The first failing check among a list of (check number, passes). -/
def firstFail : List (Nat × Bool) → Option Nat
  | [] => none
  | (n, ok) :: l => if ok then firstFail l else some n

def SpecA.check (lits : List W64) (s : SpecA) (f : FmtA) : Option Nat :=
  let cty := cTyOf f.c
  let aTy := match s.c with | .srcTy _ => cty | _ => f.ty
  firstFail [
    (3, s.ok f.mod.toNat f.ty f.sat && s.a.check3 f.a && s.b.check3 f.b && s.c.check3 f.c),
    (4, s.dst.check4 f.ty f.dst && s.a.check4 lits aTy cty f.a && s.b.check4 lits f.ty cty f.b && s.c.check4 lits f.ty cty f.c),
    (5, s.dst.check5 f.dst && s.a.check5 f.a && s.b.check5 f.b && s.c.check5 f.c)]

/-- Field A of format W is not used (R112). -/
def checkW (f : FmtW) : Option Nat := firstFail [(5, f.a.toNat == 0)]

def checkJ (dst : FieldKind) (zeroOff : Bool) (f : FmtJ) : Option Nat :=
  firstFail [(4, dst.check4 .b32 f.dst), (5, dst.check5 f.dst && (!zeroOff || f.off.toNat == 0))]

/-- The offset of format M: a register, a short immediate or a 64-bit literal (R54). -/
def offKind : SrcKind := .val .one true true true true .int

def SpecM.check (lits : List W64) (s : SpecM) (f : FmtM) : Option Nat :=
  let m := f.mod.toNat
  firstFail [
    (3, s.ok m f.ty f.scope f.ord),
    (4, (s.dst m).check4 f.ty f.dst && s.a.check4 f.ty f.a && (s.b m).check4 f.ty f.b && offKind.check4 lits f.ty .b32 f.off),
    (5, (s.dst m).check5 f.dst && s.a.check5 f.a && (s.b m).check5 f.b)]

/-- DEDUCED, log 59. -/
def SpecE.check (s : SpecE) (f : FmtE) : Option Nat :=
  let m := f.mod.toNat
  let i := f.imm.toNat
  firstFail [
    (3, s.ok m i),
    (4, (s.dst m i).check4 .b32 f.dst && (s.a m i).check4 .b32 f.a && (s.b m i).check4 .b32 f.b && (s.c m i).check4 .b32 f.c
      && s.range m i),
    (5, (s.dst m i).check5 f.dst && (s.a m i).check5 f.a && (s.b m i).check5 f.b && (s.c m i).check5 f.c
      && (f.imm &&& s.zero) == 0#12)]

/-! ### What a step is made of -/

/-- The fields of a word, by format. -/
inductive Fields where
  | a (f : FmtA) | w (f : FmtW) | j (f : FmtJ) | m (f : FmtM) | e (f : FmtE)
deriving DecidableEq, Repr

def Fields.mod : Fields → Nat
  | .a f => f.mod.toNat | .w f => f.mod.toNat | .j f => f.mod.toNat | .m f => f.mod.toNat | .e f => f.mod.toNat

def Fields.guard : Fields → Guard
  | .a f => f.guard | .w f => f.guard | .j f => f.guard | .m f => f.guard | .e f => f.guard

def Fields.keep : Fields → Bool
  | .a f => f.keep | .w f => f.keep | .j f => f.keep | .m f => f.keep | .e f => f.keep

/-- A step seen as a word: an opcode with its fields (R61), a hint with its number and its other bits (R63), a whole
word with an unassigned opcode (R62), or a device event, which has no word. -/
inductive View where
  | word (opc : Nat) (f : Fields) | hint (n : BitVec 6) (bits : BitVec 54) | raw (w : W64) | event
deriving DecidableEq, Repr

/-- The opcode and fields of each step (R61). -/
def view (i : Instr) : View :=
  match i with
  | .iadd f => .word 0x001 (.a f)
  | .isub f => .word 0x002 (.a f)
  | .iaddc f => .word 0x003 (.a f)
  | .isubb f => .word 0x004 (.a f)
  | .imul f => .word 0x005 (.a f)
  | .imulh f => .word 0x006 (.a f)
  | .imad f => .word 0x007 (.a f)
  | .imad64 f => .word 0x008 (.a f)
  | .imin f => .word 0x009 (.a f)
  | .imax f => .word 0x00A (.a f)
  | .iabs f => .word 0x00B (.a f)
  | .ineg f => .word 0x00C (.a f)
  | .dot4 f => .word 0x00D (.a f)
  | .and f => .word 0x010 (.a f)
  | .or f => .word 0x011 (.a f)
  | .xor f => .word 0x012 (.a f)
  | .andn f => .word 0x013 (.a f)
  | .not f => .word 0x014 (.a f)
  | .shl f => .word 0x015 (.a f)
  | .shr f => .word 0x016 (.a f)
  | .sar f => .word 0x017 (.a f)
  | .rotl f => .word 0x018 (.a f)
  | .popc f => .word 0x019 (.a f)
  | .clz f => .word 0x01A (.a f)
  | .ctz f => .word 0x01B (.a f)
  | .brev f => .word 0x01C (.a f)
  | .bfx f => .word 0x01D (.a f)
  | .bfi f => .word 0x01E (.a f)
  | .prmt f => .word 0x01F (.a f)
  | .sel f => .word 0x020 (.a f)
  | .mov f => .word 0x021 (.a f)
  | .movi f => .word 0x022 (.w f)
  | .movw f => .word 0x023 (.a f)
  | .wmov f => .word 0x024 (.a f)
  | .aadd f => .word 0x040 (.a f)
  | .asub f => .word 0x041 (.a f)
  | .adiff f => .word 0x042 (.a f)
  | .acmp f => .word 0x043 (.a f)
  | .amovi f => .word 0x044 (.a f)
  | .sptest f => .word 0x045 (.a f)
  | .spcast f => .word 0x046 (.a f)
  | .fadd f => .word 0x050 (.a f)
  | .fsub f => .word 0x051 (.a f)
  | .fmul f => .word 0x052 (.a f)
  | .ffma f => .word 0x053 (.a f)
  | .fmin f => .word 0x054 (.a f)
  | .fmax f => .word 0x055 (.a f)
  | .frcp f => .word 0x056 (.a f)
  | .frsq f => .word 0x057 (.a f)
  | .fsqrt f => .word 0x058 (.a f)
  | .fex2 f => .word 0x059 (.a f)
  | .flg2 f => .word 0x05A (.a f)
  | .fsin f => .word 0x05B (.a f)
  | .fcos f => .word 0x05C (.a f)
  | .ftanh f => .word 0x05D (.a f)
  | .fclass f => .word 0x05E (.a f)
  | .frnd f => .word 0x05F (.a f)
  | .fscale f => .word 0x060 (.a f)
  | .fcvt f => .word 0x061 (.a f)
  | .icvt f => .word 0x062 (.a f)
  | .ficvt f => .word 0x063 (.a f)
  | .pkadd f => .word 0x068 (.a f)
  | .pkmul f => .word 0x069 (.a f)
  | .pkfma f => .word 0x06A (.a f)
  | .pkcvt f => .word 0x06B (.a f)
  | .icmp f => .word 0x080 (.a f)
  | .fcmp f => .word 0x081 (.a f)
  | .pset f => .word 0x082 (.a f)
  | .pand f => .word 0x083 (.a f)
  | .por f => .word 0x084 (.a f)
  | .pxor f => .word 0x085 (.a f)
  | .pnot f => .word 0x086 (.a f)
  | .pmov f => .word 0x087 (.a f)
  | .ppack f => .word 0x088 (.a f)
  | .punpk f => .word 0x089 (.a f)
  | .punpkMask f => .word 0x089 (.a f)
  | .qswz f => .word 0x090 (.a f)
  | .qxch f => .word 0x091 (.a f)
  | .qred f => .word 0x092 (.a f)
  | .qdiff f => .word 0x093 (.a f)
  | .qhelp f => .word 0x094 (.a f)
  | .gvote f => .word 0x098 (.a f)
  | .gballot f => .word 0x099 (.a f)
  | .gshfl f => .word 0x09A (.a f)
  | .gbcst f => .word 0x09B (.a f)
  | .gred f => .word 0x09C (.a f)
  | .gscan f => .word 0x09D (.a f)
  | .gmatch f => .word 0x09E (.a f)
  | .gtopk f => .word 0x09F (.a f)
  | .gcount f => .word 0x0A0 (.a f)
  | .nop f => .word 0x0B0 (.e f)
  | .bra f => .word 0x0B1 (.j f)
  | .brc f => .word 0x0B2 (.j f)
  | .brx f => .word 0x0B3 (.e f)
  | .call f => .word 0x0B4 (.j f)
  | .callx f => .word 0x0B5 (.e f)
  | .ret f => .word 0x0B6 (.e f)
  | .meet f => .word 0x0B7 (.j f)
  | .meetClear f => .word 0x0B7 (.j f)
  | .exit f => .word 0x0B8 (.e f)
  | .park f => .word 0x0B9 (.e f)
  | .yield f => .word 0x0BA (.e f)
  | .hint0 b => .hint 0 b
  | .hint1 b => .hint 1 b
  | .hintUnimplemented n b => .hint n b
  | .ld f => .word 0x0C0 (.m f)
  | .st f => .word 0x0C1 (.m f)
  | .ldw f => .word 0x0C2 (.m f)
  | .stw f => .word 0x0C3 (.m f)
  | .ldx f => .word 0x0C4 (.m f)
  | .stx f => .word 0x0C5 (.m f)
  | .nibst f => .word 0x0C6 (.m f)
  | .atom f => .word 0x0C8 (.m f)
  | .atomw f => .word 0x0C9 (.m f)
  | .pref f => .word 0x0D0 (.m f)
  | .dcz f => .word 0x0D1 (.m f)
  | .llock f => .word 0x0D2 (.m f)
  | .lulock f => .word 0x0D3 (.m f)
  | .cwb f => .word 0x0D4 (.m f)
  | .cinv f => .word 0x0D5 (.m f)
  | .icinv f => .word 0x0D6 (.m f)
  | .fence f => .word 0x0D7 (.e f)
  | .await f => .word 0x0E0 (.e f)
  | .tbinit f => .word 0x0E4 (.e f)
  | .tbarv f => .word 0x0E5 (.e f)
  | .tbexp f => .word 0x0E6 (.e f)
  | .tbwait f => .word 0x0E7 (.e f)
  | .tbphase f => .word 0x0E8 (.e f)
  | .qinit f => .word 0x0F0 (.e f)
  | .qpush f => .word 0x0F1 (.e f)
  | .qpop f => .word 0x0F2 (.e f)
  | .qtryPop f => .word 0x0F3 (.e f)
  | .qtryPush f => .word 0x0F3 (.e f)
  | .qgrant f => .word 0x0F4 (.e f)
  | .qstat f => .word 0x0F5 (.e f)
  | .mma f => .word 0x100 (.e f)
  | .mmau f => .word 0x101 (.e f)
  | .mmas f => .word 0x102 (.e f)
  | .udesc f => .word 0x103 (.e f)
  | .aclr f => .word 0x110 (.e f)
  | .ald f => .word 0x111 (.e f)
  | .aldSparse f => .word 0x111 (.e f)
  | .ast f => .word 0x112 (.e f)
  | .asts f => .word 0x113 (.e f)
  | .acvt f => .word 0x114 (.e f)
  | .aquant f => .word 0x115 (.e f)
  | .atopk f => .word 0x116 (.e f)
  | .aredr f => .word 0x117 (.e f)
  | .abind f => .word 0x120 (.e f)
  | .aunbind f => .word 0x121 (.e f)
  | .aunbindFlush f => .word 0x121 (.e f)
  | .aflush f => .word 0x122 (.e f)
  | .kset f => .word 0x130 (.e f)
  | .ksetMask f => .word 0x130 (.e f)
  | .kand f => .word 0x131 (.e f)
  | .kor f => .word 0x132 (.e f)
  | .knot f => .word 0x133 (.e f)
  | .ktest f => .word 0x134 (.e f)
  | .ktestMask f => .word 0x134 (.e f)
  | .matrixOpComplete _ => .event
  | .xtmpl f => .word 0x180 (.e f)
  | .xcopy f => .word 0x181 (.e f)
  | .xgath f => .word 0x182 (.e f)
  | .xscat f => .word 0x183 (.e f)
  | .sinter f => .word 0x188 (.e f)
  | .smerge f => .word 0x189 (.e f)
  | .mred f => .word 0x190 (.e f)
  | .mrcv f => .word 0x191 (.e f)
  | .mrselOpen f => .word 0x192 (.e f)
  | .mrselClose f => .word 0x192 (.e f)
  | .xslot f => .word 0x1A0 (.e f)
  | .xstc f => .word 0x1A1 (.e f)
  | .xflag f => .word 0x1A2 (.e f)
  | .xflagSend _ => .event
  | .htclaim f => .word 0x1C0 (.e f)
  | .htfree f => .word 0x1C1 (.e f)
  | .htins f => .word 0x1C2 (.e f)
  | .htprobe f => .word 0x1C3 (.e f)
  | .htdel f => .word 0x1C4 (.e f)
  | .htacc f => .word 0x1C5 (.e f)
  | .htdrain f => .word 0x1C6 (.e f)
  | .htstat f => .word 0x1C7 (.e f)
  | .sread f => .word 0x1E0 (.e f)
  | .swrite f => .word 0x1E1 (.e f)
  | .tstamp f => .word 0x1E2 (.e f)
  | .trap f => .word 0x1E3 (.e f)
  | .bkpt f => .word 0x1E4 (.e f)
  | .tret f => .word 0x1E5 (.e f)
  | .tretSkip f => .word 0x1E5 (.e f)
  | .ecall f => .word 0x1E6 (.e f)
  | .ecallReply _ _ => .event
  | .launch f => .word 0x1E8 (.e f)
  | .tkrsv f => .word 0x1EC (.e f)
  | .tkpub f => .word 0x1ED (.e f)
  | .tksig f => .word 0x1EE (.e f)
  | .clauseStart => .event
  | .implicitPark => .event
  | .parkingStallRetry => .event
  | .recordPoolExhausted => .event
  | .emergencyRecordCopy _ => .event
  | .engineOpStart _ => .event
  | .engineChunk _ => .event
  | .timerWake => .event
  | .binAgeExpiry _ => .event
  | .binDrain _ _ => .event
  | .binForward _ _ => .event
  | .recordTransferArrive _ _ => .event
  | .recordAcceptance _ _ => .event
  | .yieldRequest _ _ => .event
  | .fullSpill => .event
  | .batchFire _ => .event
  | .migrationFetch _ _ _ _ => .event
  | .migrationDemote _ _ _ _ => .event
  | .migrationPromote _ _ _ => .event
  | .wcbAgeExpiry _ _ => .event
  | .doorbellWrite _ _ => .event
  | .launchFetch _ => .event
  | .blockStart _ _ => .event
  | .agePromotionReclaim _ => .event
  | .pmWindowExpiry _ => .event
  | .partUnfreeze _ => .event
  | .externalDeadline _ => .event
  | .apertureStore _ _ _ => .event
  | .tlbiStart _ => .event
  | .tlbiComplete => .event
  | .fabCtlWrite _ => .event
  | .registerWrite _ _ => .event
  | .maintOpComplete _ => .event
  | .mrcvResultWrite _ => .event
  | .meshPacketArrive _ _ _ _ => .event
  | .meshNodeTimeout _ _ _ _ => .event
  | .countedPacketArrive _ => .event
  | .flagArrive _ => .event
  | .replayRequest _ _ => .event
  | .replayRequestArrive _ _ _ _ => .event
  | .replayGone _ _ => .event
  | .sendLogExpiry _ _ _ => .event
  | .protectionNotice _ => .event
  | .remoteRequestArrive _ => .event
  | .remoteResponseArrive _ _ _ => .event
  | .pathHoldExpiry _ => .event
  | .timeBeaconSend => .event
  | .timeBeaconArrive _ => .event
  | .linkTraining _ => .event
  | .linkStateWordArrive _ _ _ => .event
  | .linkTrainTimeout _ => .event
  | .cxlLinkDown _ => .event
  | .hostAccess _ => .event
  | .registerCtx _ _ => .event
  | .deregisterCtx _ _ => .event
  | .loadCode _ _ _ _ => .event
  | .queueEnable _ _ _ _ _ _ => .event
  | .queueDisable _ _ => .event
  | .switchOut _ _ => .event
  | .switchOutDone _ => .event
  | .switchIn _ _ => .event
  | .switchInDone _ _ => .event
  | .endpointSet _ _ => .event
  | .slotAssign _ _ _ _ => .event
  | .slotReset _ _ _ _ _ => .event
  | .setTimeMaster _ _ => .event
  | .linkEnable _ _ => .event
  | .attest _ _ _ _ => .event
  | .coreFence _ _ => .event
  | .fenceClear _ => .event
  | .softErrorDetect _ => .event
  | .powerGood => .event
  | .bootStageDone _ => .event
  | .bootTimeout => .event
  | .retry => .event
  | .powerOff => .event
  | .thermalThrottle _ _ => .event
  | .thermalRelease _ _ => .event
  | .thermalTrip _ => .event
  | .wearFlush => .event
  | .reservedOpcode w => .raw w
  | .portLinkLoss _ => .event
  | .replicaWriteApplied _ => .event
  | .unitTemperatureChange _ _ _ => .event
  | .modulePowerCap _ _ => .event

/-- The checks 3 to 5 of a row on fields of its format; fields of another format fail check 3. -/
def Fmt.check (lits : List W64) : Fmt → Fields → Option Nat
  | .a s _, .a f => s.check lits f
  | .w _, .w f => checkW f
  | .j d z _, .j f => checkJ d z f
  | .m s _, .m f => s.check lits f
  | .e s _, .e f => s.check f
  | _, _ => some 3

/-- The instruction that a row makes of fields of its format. -/
def Fmt.make : Fmt → Fields → Option Instr
  | .a _ mk, .a f => some (mk f)
  | .w mk, .w f => some (mk f)
  | .j _ _ mk, .j f => some (mk f)
  | .m _ mk, .m f => some (mk f)
  | .e _ mk, .e f => some (mk f)
  | _, _ => none

/-- The row an opcode and MOD select. -/
def rowFor (opc md : Nat) : Option Row := (rowsOf opc).find? (fun r => r.mod md)

end Sys2Proof.Enc
end

