-- ==== Sys2Proof/Machine/Cache.lean ====
section
/-! DEFINITION. The memory hierarchy as tags and translations: page-table entries (R320), first- and second-level caches
(R309 to R312), the directory and its alias rules (R313), the zero map (R314, R315), translation buffers and walk caches
(R317), and instruction caches (R160). The data of every line lies in State.mem; what a cache holds is whose copy is
current and what has to be written back. -/

namespace Sys2Proof.Machine

/-! ### Page-table entries (R320) -/

def pteV (e : W64) : Bool := e.getLsbD 14
def pteLeaf (e : W64) : Bool := e.getLsbD 13
def ptePresent (e : W64) : Bool := e.getLsbD 12
def pteOrd (e : W64) : Nat := (e.extractLsb' 10 2).toNat
def pteC (e : W64) : Bool := e.getLsbD 9
def pteRep (e : W64) : Bool := e.getLsbD 8
def pteTier (e : W64) : Nat := (e.extractLsb' 5 3).toNat
def pteZf (e : W64) : Bool := e.getLsbD 4
def pteFt (e : W64) : Bool := e.getLsbD 3
def pteX (e : W64) : Bool := e.getLsbD 2
def pteW (e : W64) : Bool := e.getLsbD 1
def pteR (e : W64) : Bool := e.getLsbD 0
def pteEp (e : W64) : Nat := (e.extractLsb' 54 10).toNat
/-- A has been set: the page was translated since it was last clear. -/
def pteA (e : W64) : Bool := e.getLsbD 16
def pteD (e : W64) : Bool := e.getLsbD 17
/-- FRAME as an address. -/
def pteFrame (e : W64) : Nat := (e.extractLsb' 18 36).toNat * 65536

/-- Page size of a leaf at a level (R319). -/
def pageSize (lvl : Nat) : Nat := 2 ^ (16 + 12 * lvl)

/-- The tiers of R314 that have a zero map and a directory: HBM4E and module memory. -/
def hasZeroMap (pa : Nat) : Bool := pa < 0x20000000000

/-- Lines a run of bytes touches. -/
def linesOf (loc n : Nat) : List Nat :=
  if n = 0 then [] else (List.range ((loc + n - 1) / 128 - loc / 128 + 1)).map (fun i => loc / 128 + i)

/-- Set a flag for each line. -/
def putFlags (b : Bool) (ls : List Nat) (m : SMap Bool) : SMap Bool := ls.foldl (fun m l => m.put false l b) m

/-- Sectors of line `l` that n bytes at an address touch (R309). -/
def sectorsOf (l loc n : Nat) : BitVec 4 :=
  maskOf 4 (below 4 (fun i => decide (loc < l * 128 + 32 * i + 32) && decide (l * 128 + 32 * i < loc + n)))

/-! ### Where a line goes -/

/-- Set of a first-level cache: address bits 14:7 (R309). -/
def l1Set (vline : Nat) : Nat := vline % 256

/-- Slice and set of a line in its die's second-level cache (R310): the slice is the formula's; which of the 2,048 sets
is free. -/
def l2Place (asid vline : Nat) : Nat × Nat := (fold16 5 (asid ^^^ vline) % 16, Config.l2Set asid vline % 2048)

/-- The translating controller of an address, of `nc` (R317). -/
def ctlOf (nc asid va : Nat) : Nat := fold16 4 (asid ^^^ (va / 2 ^ 28)) % max 1 nc

/-- The home controller of a physical address, of `nc` (R317). -/
def homeOf (nc pa : Nat) : Nat := fold16 3 (pa % 2 ^ 52 / 4096) % max 1 nc

/-! ### Translation buffers (R317) -/

/-- Entries of a controller for pages of a level. -/
def tlbRoom (lvl : Nat) : Nat := if lvl = 0 then 4096 else if lvl = 1 then 256 else 32

def TlbEntry.covers (t : TlbEntry) (asid va : Nat) : Bool := t.asid == asid && t.page == va / pageSize t.level

/-- Put an entry last in a list of at most `room` that satisfy `kind`; the one used longest ago leaves.
DESIGN CHOICE, log 132. -/
def putLast {α : Type} (same kind : α → Bool) (room : Nat) (x : α) (l : List α) : List α :=
  let rest := l.filter (fun y => !same y)
  let rest' := if (rest.filter kind).length < room then rest
    else match rest.findIdx? kind with
      | some i => rest.take i ++ rest.drop (i + 1)
      | none => rest
  rest' ++ [x]

/-- The translation held for an address. -/
def Hier.held (h : Hier) (nc asid va : Nat) : Option TlbEntry := (h.tlb.get [] (ctlOf nc asid va)).find? (fun t => t.covers asid va)

/-- Hold a translation in the controller of an address. -/
def Hier.hold (h : Hier) (nc va : Nat) (t : TlbEntry) : Hier :=
  let c := ctlOf nc t.asid va
  { h with tlb := h.tlb.put [] c (putLast (fun x => x.covers t.asid va && x.level == t.level) (fun x => x.level == t.level)
             (tlbRoom t.level) t (h.tlb.get [] c)) }

/-- Span of a table entry at a level: the addresses whose walk reads it. -/
def spanOf (lvl va : Nat) : Nat := va / 2 ^ (12 * lvl + 16)

/-- The table entry a walk cache holds for an address at a level. -/
def Hier.walkHeld (h : Hier) (nc asid va lvl : Nat) : Option W64 :=
  ((h.walks.get [] (ctlOf nc asid va)).find? (fun w => w.asid == asid && w.level == lvl && w.span == spanOf lvl va)).map (·.pte)

/-- Hold a table entry in the walk cache of an address. -/
def Hier.holdWalk (h : Hier) (nc va : Nat) (w : WalkEntry) : Hier :=
  let c := ctlOf nc w.asid va
  { h with walks := h.walks.put [] c (putLast (fun x => x.asid == w.asid && x.level == w.level && x.span == w.span)
             (fun _ => true) 1024 w (h.walks.get [] c)) }

/-- Keep the entries of every list that satisfy p; lists that empty are not listed. -/
def keepLists {α : Type} (p : Nat → α → Bool) (m : SMap (List α)) : SMap (List α) :=
  (m.map (fun c => (c.1, c.2.filter (p c.1)))).filter (fun c => !c.2.isEmpty)

/-- Drop the translations, and with them the walk-cache entries, of the pages that satisfy p: an identifier, and the
first address and length of what an entry covers. -/
def Hier.dropTranslations (h : Hier) (p : Nat → Nat → Nat → Bool) : Hier :=
  { h with tlb := keepLists (fun _ t => !p t.asid (t.page * pageSize t.level) (pageSize t.level)) h.tlb
           walks := keepLists (fun _ w => !p w.asid (w.span * 2 ^ (12 * w.level + 16)) (2 ^ (12 * w.level + 16))) h.walks }

/-- Drop what controllers hold of a page of an identifier, at an address. -/
def Hier.dropPage (h : Hier) (asid va : Nat) : Hier :=
  h.dropTranslations (fun a lo n => a == asid && decide (lo ≤ va) && decide (va < lo + n))

/-! ### Tags -/

def Tag.is (t : Tag) (asid vline : Nat) : Bool := t.asid == asid && t.vline == vline

/-- The tag holds every sector of a mask: a zero line holds them all (R311). -/
def Tag.has (t : Tag) (m : BitVec 4) : Bool := t.st == .zero || (t.st != .uncached && m &&& ~~~t.valid == 0)

def Tag.isDirty (t : Tag) : Bool := t.st == .modified && t.dirty != 0

/-- The tag owns its line for its die. -/
def Tag.owns (t : Tag) : Bool := t.st == .modified || t.st == .exclusive

/-- A tag after its dirty data has been written on. -/
def Tag.clean (t : Tag) : Tag := if t.st = .modified then { t with st := .exclusive, dirty := 0 } else t

def Hier.find1 (h : Hier) (core asid vline : Nat) : Option Tag := (h.l1.get [] core).find? (fun t => t.is asid vline)
def Hier.find2 (h : Hier) (die asid vline : Nat) : Option Tag := (h.l2.get [] die).find? (fun t => t.is asid vline)

/-- The tag that serves an access of a core, or of the engines of its die where `via1` is false (R309, R312): a line in
state U serves none. -/
def Hier.serving (h : Hier) (via1 : Bool) (core asid vline : Nat) : Option Tag :=
  match (if via1 then h.find1 core asid vline else none) with
  | some t => some t
  | none => (h.find2 (dieOf core) asid vline).filter (fun t => t.st != .uncached)

/-- Every tag of a physical line: the die, and the tag. -/
def Hier.tagsOf (h : Hier) (line : Nat) : List (Nat × Tag) :=
  (h.l1.flatMap (fun c => (c.2.filter (fun t => t.line == line)).map (fun t => (dieOf c.1, t))))
    ++ h.l2.flatMap (fun c => (c.2.filter (fun t => t.line == line)).map (fun t => (c.1, t)))

/-- The directory's entry of a line after its tags have changed (R313). -/
def Hier.sync (h : Hier) (line : Nat) : Hier :=
  if !hasZeroMap (line * 128) then h
  else
    let ts := (h.tagsOf line).filter (fun x => x.2.st != .uncached)
    let now := (ts.map (fun x => (x.2.asid, x.2.vline))).eraseDups
    let old := (h.dir.get DirEntry.none line).aliases.filter now.contains
    let e : DirEntry :=
      { dies := below 4 (fun d => ts.any (fun x => x.1 == d)), owner := (ts.find? (fun x => x.2.owns)).map (·.1)
        aliases := old ++ now.filter (fun a => !old.contains a) }
    { h with dir := h.dir.put DirEntry.none line e }

/-- Data of a tag goes back to memory, which clears its zero-map bit; of a zero line only the bit is set (R314). -/
def Hier.written (h : Hier) (t : Tag) : Hier :=
  if !hasZeroMap (t.line * 128) then h
  else if t.st = .zero then { h with zeroClear := h.zeroClear.put false t.line false }
  else if t.isDirty then { h with zeroClear := h.zeroClear.put false t.line true }
  else h

/-- Remove the tags that satisfy p (first level: core and tag) and q (second level: die and tag), writing dirty data
back to memory first. -/
def Hier.remove (h : Hier) (p q : Nat → Tag → Bool) : Hier :=
  let out := (h.l1.flatMap (fun c => c.2.filter (p c.1))) ++ h.l2.flatMap (fun c => c.2.filter (q c.1))
  let h1 := out.foldl Hier.written { h with l1 := keepLists (fun c t => !p c t) h.l1, l2 := keepLists (fun d t => !q d t) h.l2 }
  ((out.map (fun t => t.line)).eraseDups).foldl Hier.sync h1

/-- Which virtual lines of an identifier are pinned on a die (R158). -/
abbrev PinTest := Nat → Nat → Nat → Bool

/-- A second-level tag where data of the line arrives: data joins what is there, and takes the place of a zero line or an
uncached mark (R311). -/
def Tag.join (old new : Tag) : Tag :=
  if new.st = .zero ∨ new.st = .uncached then new
  else if old.st = .uncached then new
  else if old.st = .zero then { new with valid := 0xF, dirty := if new.st = .modified then 0xF else new.dirty }
  else
    let d := old.dirty ||| new.dirty
    { new with valid := old.valid ||| new.valid, dirty := d, st := if d != 0 then .modified else new.st }

/-- Put a tag in a die's second-level cache, as the one used last: in a full set the unpinned line used longest ago leaves,
of the 16 data ways or of the 8 ways of zero lines (R310, R316). DESIGN CHOICE, log 132. -/
def Hier.put2 (h : Hier) (pin : PinTest) (die : Nat) (t : Tag) : Hier :=
  let l := h.l2.get [] die
  let new := match l.find? (fun x => x.is t.asid t.vline) with
    | some o => o.join t
    | none => t
  let rest := l.filter (fun x => !x.is t.asid t.vline)
  let z := new.st == .zero
  let mates := rest.filter (fun x => (x.st == .zero) == z && l2Place x.asid x.vline == l2Place t.asid t.vline)
  match (if mates.length < (if z then 8 else 16) then none else mates.find? (fun x => !pin die x.asid x.vline)) with
  | none => ({ h with l2 := h.l2.put [] die (rest ++ [new]) }).sync t.line
  | some v =>
    let left := rest.filter (fun (x : Tag) => !x.is v.asid v.vline)
    ((({ h with l2 := h.l2.put [] die (left ++ [new]) }).written v).sync v.line).sync t.line

/-- Put a tag in a core's first-level cache, as the one used last: in a full set of 16 the line used longest ago leaves,
its dirty data to the second level (R309). DESIGN CHOICE, log 132. -/
def Hier.put1 (h : Hier) (pin : PinTest) (core : Nat) (t : Tag) : Hier :=
  let rest := (h.l1.get [] core).filter (fun x => !x.is t.asid t.vline)
  let mates := rest.filter (fun x => l1Set x.vline == l1Set t.vline)
  match (if mates.length < 16 then none else mates.head?) with
  | none => ({ h with l1 := h.l1.put [] core (rest ++ [t]) }).sync t.line
  | some v =>
    let h1 := { h with l1 := h.l1.put [] core (rest.filter (fun (x : Tag) => !x.is v.asid v.vline) ++ [t]) }
    ((if v.isDirty then h1.put2 pin (dieOf core) v else h1).sync v.line).sync t.line

/-- Dirty first-level data of the tags that satisfy p goes to the second level of its die; the first-level tags stay,
clean. -/
def Hier.push1 (h : Hier) (pin : PinTest) (p : Nat → Tag → Bool) : Hier :=
  let out := h.l1.flatMap (fun c => (c.2.filter (fun t => p c.1 t && t.isDirty)).map (fun t => (dieOf c.1, t)))
  out.foldl (fun h x => h.put2 pin x.1 x.2)
    { h with l1 := h.l1.map (fun c => (c.1, updWhere (p c.1) Tag.clean c.2)) }

/-! ### Accesses (R311 to R313) -/

/-- Another die's owned copy of a line is written back and stays shared (R313). -/
def Hier.share (h : Hier) (pin : PinTest) (die line : Nat) : Hier :=
  let h1 := h.push1 pin (fun c t => dieOf c != die && t.line == line)
  let down (t : Tag) : Tag := if t.owns then { t with st := .shared, dirty := 0 } else t
  let other (d : Nat) (t : Tag) : Bool := d != die && t.line == line
  let out := h1.l2.flatMap (fun c => c.2.filter (other c.1))
  let h2 := { h1 with l1 := h1.l1.map (fun c => (c.1, updWhere (other (dieOf c.1)) down c.2))
                      l2 := h1.l2.map (fun c => (c.1, updWhere (other c.1) down c.2)) }
  out.foldl Hier.written h2

/-- Before a fill under an alias: another alias of the same identifier leaves every die, and a fifth of different
identifiers drives out the oldest (R313). -/
def Hier.enlist (h : Hier) (asid vline line : Nat) : Hier :=
  let h1 := h.remove (fun _ t => t.line == line && t.asid == asid && t.vline != vline)
    (fun _ t => t.line == line && t.asid == asid && t.vline != vline)
  let al := ((h1.dir.get DirEntry.none line).aliases).filter (fun a => !(a.1 == asid && a.2 == vline))
  match (if 4 ≤ al.length then al.head? else none) with
  | some a => h1.remove (fun _ t => t.line == line && t.is a.1 a.2) (fun _ t => t.line == line && t.is a.1 a.2)
  | none => h1

/-- A second-level miss of a page (R327): its count in the current window of 1 ms. -/
def Hier.miss (h : Hier) (now addr : Nat) : Hier :=
  let w := now / 1000000
  let m := h.misses.get PageMiss.none addr
  { h with misses := h.misses.put PageMiss.none addr { window := w, count := if m.window = w then m.count + 1 else 1 } }

/-- A line as a tag, from the translation of a page. -/
def tagFor (asid vline line : Nat) (pte : W64) (lvl addr : Nat) : Tag :=
  { asid := asid, vline := vline, line := line, st := .shared, valid := 0, dirty := 0, pte := pte, level := lvl, addr := addr }

/-- Fill a line in a die's second-level cache where it is missing some sectors of a mask: a line whose zero-map bit is set
arrives in state Z (R314). -/
def Hier.fill2 (h : Hier) (pin : PinTest) (now die : Nat) (t : Tag) (m : BitVec 4) : Hier :=
  let h0 := h.push1 pin (fun c x => dieOf c == die && x.line == t.line && x.is t.asid t.vline)
  match (h0.find2 die t.asid t.vline).filter (fun x => x.has m) with
  | some x => h0.put2 pin die x
  | none =>
    let h1 := ((h0.miss now t.addr).enlist t.asid t.vline t.line).share pin die t.line
    let alone := !(h1.tagsOf t.line).any (fun x => x.1 != die && x.2.st != .uncached)
    let z := hasZeroMap (t.line * 128) && !h1.zeroClear.get false t.line && !(h1.tagsOf t.line).any (fun x => x.2.isDirty)
    h1.put2 pin die { t with st := if z then .zero else if alone then .exclusive else .shared, valid := if z then 0 else 0xF }

/-- A read of a cacheable line: served by the first level where it holds the sectors, else by the second, which fills
(R309, R311). -/
def Hier.readLine (h : Hier) (pin : PinTest) (now core : Nat) (via1 : Bool) (t : Tag) (m : BitVec 4) : Hier :=
  match (if via1 then (h.find1 core t.asid t.vline).filter (fun x => x.has m) else none) with
  | some x => h.put1 pin core x
  | none =>
    let h1 := h.fill2 pin now (dieOf core) t m
    if via1 then
      match h1.find2 (dieOf core) t.asid t.vline with
      | some x =>
        let have1 := match h1.find1 core t.asid t.vline with
          | some y => y.valid
          | none => 0
        h1.put1 pin core { x with st := if x.st = .modified then .exclusive else x.st, valid := have1 ||| (if x.st = .zero then 0 else m), dirty := 0 }
      | none => h1
    else h1

/-- A die gains ownership of a line under one alias: every copy elsewhere is invalidated, dirty data first written back
(R311, R313); first-level copies of other cores of the die hand their data to its second level. -/
def Hier.own (h : Hier) (pin : PinTest) (core asid vline line : Nat) : Hier :=
  let die := dieOf core
  let h1 := h.push1 pin (fun c t => dieOf c == die && c != core && t.line == line && t.is asid vline)
  h1.remove (fun c t => t.line == line && !(c == core && t.is asid vline)) (fun d t => t.line == line && !(d == die && t.is asid vline))

/-- A store to some sectors of a cacheable line, in a core's first-level cache: a zero line gets a data way with every
sector valid (R309, R311). -/
def Hier.writeLine (h : Hier) (pin : PinTest) (core : Nat) (t : Tag) (m : BitVec 4) : Hier :=
  let h1 := h.own pin core t.asid t.vline t.line
  let a := h1.find1 core t.asid t.vline
  let b := h1.find2 (dieOf core) t.asid t.vline
  let zero (x : Option Tag) : Bool := (x.map (fun x => x.st == .zero)).getD false
  let full := zero a || zero b
  let old := a.getD t
  let h2 := if zero b then { h1 with l2 := h1.l2.put [] (dieOf core) ((h1.l2.get [] (dieOf core)).filter (fun x => !x.is t.asid t.vline)) } else h1
  h2.put1 pin core { t with st := .modified, valid := if full then 0xF else old.valid ||| m
                            dirty := if full then 0xF else old.dirty ||| m }

/-- A store performed in the line's slice of the second-level cache: by an engine, a far atomic or NIBST (R151, R310). -/
def Hier.writeFar (h : Hier) (pin : PinTest) (now core : Nat) (t : Tag) (m : BitVec 4) : Hier :=
  let die := dieOf core
  let h1 := (h.push1 pin (fun c x => dieOf c == die && x.line == t.line && x.is t.asid t.vline)).own pin core t.asid t.vline t.line
  let h2 := { h1 with l1 := h1.l1.put [] core ((h1.l1.get [] core).filter (fun x => !(x.line == t.line && x.is t.asid t.vline))) }
  let h3 := h2.fill2 pin now die t 0xF
  h3.put2 pin die { t with st := .modified, valid := 0xF, dirty := m }

/-- DCZ of a cacheable line of HBM4E or module memory (R315): no copy stays, the executing die holds it in state Z, and its
zero-map bit is set. -/
def Hier.zeroLine (h : Hier) (pin : PinTest) (core : Nat) (t : Tag) : Hier :=
  let h1 := { h with l1 := keepLists (fun _ x => x.line != t.line) h.l1, l2 := keepLists (fun _ x => x.line != t.line) h.l2 }
  let h2 := h1.put2 pin (dieOf core) { t with st := .zero, valid := 0, dirty := 0 }
  { h2 with zeroClear := h2.zeroClear.put false t.line false }

/-- An access to a line of an uncacheable page: the second level marks it, without data (R311, R312). -/
def Hier.markUncached (h : Hier) (pin : PinTest) (core : Nat) (t : Tag) : Hier :=
  h.put2 pin (dieOf core) { t with st := .uncached, valid := 0, dirty := 0 }

/-- Data written to memory past the caches, by the device or from outside: every copy of the lines is invalidated and
their zero-map bits are clear (R313, R314). -/
def Hier.pastCaches (h : Hier) (ls : List Nat) : Hier :=
  let h1 := if h.l1.isEmpty && h.l2.isEmpty then h
    else h.remove (fun _ t => ls.contains t.line && t.st != .uncached) (fun _ t => ls.contains t.line && t.st != .uncached)
  { h1 with zeroClear := putFlags true (ls.filter (fun l => hasZeroMap (l * 128))) h1.zeroClear }

/-! ### Maintenance (R159, R316, R324) -/

/-- Write a core's dirty first-level lines that satisfy p to the second level: how many (CWB.l1). -/
def Hier.cleanL1 (h : Hier) (pin : PinTest) (core : Nat) (p : Tag → Bool) : Nat × Hier :=
  (((h.l1.get [] core).filter (fun t => p t && t.isDirty)).length, h.push1 pin (fun c t => c == core && p t))

/-- Write every dirty line that satisfies p to memory: how many lines (CWB.all). -/
def Hier.cleanAll (h : Hier) (p : Tag → Bool) : Nat × Hier :=
  let out := ((h.l1.flatMap (fun c => c.2)) ++ h.l2.flatMap (fun c => c.2)).filter (fun t => p t && t.isDirty)
  let tidy (m : SMap (List Tag)) : SMap (List Tag) := m.map (fun c => (c.1, updWhere p Tag.clean c.2))
  ((out.map (fun t => t.line)).eraseDups.length, out.foldl Hier.written { h with l1 := tidy h.l1, l2 := tidy h.l2 })

/-- Give a line that is to be pinned a data way of its die's second level (R316). -/
def Hier.pinLine (h : Hier) (pin : PinTest) (now die : Nat) (t : Tag) : Hier :=
  let h1 := h.fill2 pin now die t 0xF
  match h1.find2 die t.asid t.vline with
  | some x => if x.st = .zero then h1.put2 pin die { x with st := .exclusive, valid := 0xF } else h1
  | none => h1

/-- A line leaves a core's first-level cache, its dirty data going to the second level; where it is not there it leaves
the second level of the core's die, its data going to memory. -/
def Hier.evict (h : Hier) (pin : PinTest) (core line : Nat) : Hier :=
  if (h.l1.get [] core).any (fun t => t.line == line) then
    let h1 := h.push1 pin (fun c t => c == core && t.line == line)
    ({ h1 with l1 := keepLists (fun c (t : Tag) => c != core || t.line != line) h1.l1 }).sync line
  else h.remove (fun _ _ => false) (fun d t => d == dieOf core && t.line == line && t.st != .uncached)

/-! ### Instruction caches (R160) -/

/-- The bytes a core's instruction cache holds of a line of code. -/
def Hier.codeHeld (h : Hier) (core asid vline : Nat) : Option (List Byte) :=
  ((h.code.get [] core).find? (fun c => c.asid == asid && c.vline == vline)).map (·.bytes)

/-- Hold a line of code. -/
def Hier.codeHold (h : Hier) (core : Nat) (c : CodeLine) : Hier :=
  { h with code := h.code.put [] core ((h.code.get [] core).filter (fun x => !(x.asid == c.asid && x.vline == c.vline)) ++ [c]) }

/-- Drop lines of code of an identifier from every instruction cache. -/
def Hier.codeDrop (h : Hier) (p : Nat → Nat → Bool) : Hier := { h with code := keepLists (fun _ c => !p c.asid c.vline) h.code }

end Sys2Proof.Machine
end

