-- ==== Sys2Proof/Machine/Mem.lean ====
section
/-! DEFINITION. Memory: locations, reads and writes, the page-table walk and its effects, address decoding and the
checks every access makes in the order of R140. -/

namespace Sys2Proof.Machine

/-! ### Locations (R286, R318) -/

/-- The location of a scratchpad byte. -/
def spadLoc (core byte : Nat) : Nat := 2 ^ 65 + core * 2 ^ 20 + byte

/-- The location lies in a scratchpad. -/
def isSpad (loc : Nat) : Bool := 2 ^ 65 ≤ loc

/-- CXL port of a local physical address (R318, R370). -/
def cxlPort (pa : Nat) : Option Nat :=
  if 0x1000000000000 ≤ pa ∧ pa < 0x1400000000000 then some 0
  else if 0x1400000000000 ≤ pa ∧ pa < 0x1800000000000 then some 1
  else none

/-- The CXL link of a location is down (R370). -/
def State.cxlLost (s : State) (loc : Nat) : Bool :=
  match cxlPort loc with
  | some p => s.cxlDown.getLsbD p
  | none => false

/-- HBM4E capacity: 64 GiB for each enabled stack (R3, R318). -/
def State.hbmBytes (s : State) : Nat := (below 8 (fun i => s.ident.stackEn.getLsbD i)).length * 2 ^ 36

/-- Enabled stacks, and the memory controllers they give (R317). -/
def State.stacks (s : State) : List Nat := below 8 (fun i => s.ident.stackEn.getLsbD i)
def State.ctlCount (s : State) : Nat := 2 * s.stacks.length

/-- The die beside the home controller of a physical address (R303, R317): two stacks stand at each die, and memory that
no stack holds is reached from the first die in operation. DEDUCED, log 133. -/
def State.homeDie (s : State) (pa : Nat) : Nat :=
  if pa < s.hbmBytes then s.stacks.getD (homeOf s.ctlCount pa / 2) 0 / 2 else s.dies.headD 0

/-- HBM4E that contexts may use: the zero map takes 1/1,024 of the capacity and 1 GiB at its top (R314). -/
def State.hbmFree (s : State) : Nat := s.hbmBytes - (s.hbmBytes / 1024 + 2 ^ 30)

/-- The aperture that a device-register address lies in, and the offset there (R217, R318). DESIGN CHOICE, log 141. -/
def apertureOf (loc : Nat) : Option (Nat × Nat) :=
  if 0xF000000000000 ≤ loc && loc < 0x10000000000000 && Config.apertureBase ≤ loc && loc < Config.apertureBase + 2 ^ 26 then
    some ((loc - Config.apertureBase) / 65536, (loc - Config.apertureBase) % 65536)
  else none

/-- A frame of `size` bytes at `pa` lies in one range of R318 that a context may map, or is an aperture (R217). DEDUCED,
log 49. -/
def State.frameOk (s : State) (pa size : Nat) : Bool :=
  pa + size ≤ s.hbmFree || (0x10000000000 ≤ pa && pa + size ≤ 0x20000000000)
    || (0x1000000000000 ≤ pa && pa + size ≤ 0x1800000000000) || (0x2000000000000 ≤ pa && pa + size ≤ 0x3000000000000)
    || (size == 65536 && (match apertureOf pa with
      | some x => x.2 == 0
      | none => false))

/-- A frame at another endpoint lies in a range of R318 there; how much HBM4E or pooled memory that endpoint has is its
own matter. DEDUCED, log 49. -/
def farFrameOk (pa size : Nat) : Bool :=
  pa + size ≤ 0x20000000000 || (0x1000000000000 ≤ pa && pa + size ≤ 0x1800000000000)
    || (0x2000000000000 ≤ pa && pa + size ≤ 0x3000000000000)

/-! ### Bytes -/

/-- A byte as the replica of a die holds it (R303): before the oldest sequenced write to it that the die has not
applied, or memory. DESIGN CHOICE, log 21. -/
def State.byteAt (s : State) (die loc : Nat) : Byte :=
  match s.seqLog.find? (fun w => w.pending.contains die && w.old.any (fun b => b.1 == loc)) with
  | some w => match w.old.find? (fun b => b.1 == loc) with
    | some b => b.2
    | none => s.mem.get 0 loc
  | none => s.mem.get 0 loc

/-- `n` bytes from a location, as a die sees them. -/
def State.bytesAt (s : State) (die loc : Nat) : Nat → List Byte
  | 0 => []
  | n + 1 => s.byteAt die loc :: s.bytesAt die (loc + 1) n

/-- `n` bytes from a location as the replica beside each line's home controller holds them: what the host and remote
parties read (R303). -/
def State.homeBytes (s : State) (loc n : Nat) : List Byte :=
  (List.range n).map (fun i => s.byteAt (s.homeDie (loc + i)) (loc + i))

/-- A little-endian number in memory, uncached (R322). DESIGN CHOICE, log 3. -/
def State.peek (s : State) (loc n : Nat) : Nat := bytesNat ((List.range n).map (fun i => s.mem.get 0 (loc + i)))

/-- Write consecutive bytes. -/
def putBytes (loc : Nat) : List Byte → SMap Byte → SMap Byte
  | [], m => m
  | b :: bs, m => putBytes (loc + 1) bs (m.put 0 loc b)

/-- Store bytes at a location: a CXL port whose link is down discards them (R370). -/
def State.pokeData (s : State) (loc : Nat) (bs : List Byte) : State :=
  if s.cxlLost loc then s else { s with mem := putBytes loc bs s.mem }

/-- Store bytes at a location past the caches: copies of its lines are invalidated and their zero-map bits cleared (R313,
R314). -/
def State.poke (s : State) (loc : Nat) (bs : List Byte) : State :=
  if s.cxlLost loc then s
  else { s with mem := putBytes loc bs s.mem
                hier := if isSpad loc then s.hier else s.hier.pastCaches (linesOf loc bs.length) }

/-- Store a number of n bytes. -/
def State.pokeN (s : State) (loc n x : Nat) : State := s.poke loc (natBytes n x)

/-- A sector marked as poisoned, or a byte behind a CXL link that is down (R146, R370). -/
def State.poisoned (s : State) (loc n : Nat) : Bool :=
  s.cxlLost loc || (n != 0 && (List.range ((loc + n - 1) / 32 - loc / 32 + 1)).any (fun i => s.poison.get false (loc / 32 + i)))

/-! ### Page-table entries (R320, R321) -/

/-- A valid entry at a level is a format error (R321). -/
def State.pteBad (s : State) (e : W64) (lvl : Nat) : Bool :=
  if pteLeaf e then
    3 ≤ lvl || pteFrame e % pageSize lvl != 0 || pteOrd e == 3 || 6 ≤ pteTier e || (pteZf e && lvl != 0)
      || (pteFt e && (pteTier e != 3 || pteC e || pteEp e == s.endpoint)) || (!pteFt e && pteEp e != 0)
      || (pteTier e == 3 && !pteFt e) || (pteRep e && (pteTier e != 0 || !pteC e))
      || (!ptePresent e && pteTier e != 5)
      || (ptePresent e && !(if pteFt e then farFrameOk (pteFrame e) (pageSize lvl) else s.frameOk (pteFrame e) (pageSize lvl)))
  else lvl == 0 || e &&& 0xFFC000000003BFFF#64 != 0#64

/-- Attributes compared across pages (R143). -/
def pteAttrs (e : W64) : Nat × Bool × Bool × Nat × Bool := (pteOrd e, pteC e, pteRep e, pteTier e, pteFt e)

/-! ### The walk (R322) -/

/-- How a translation ends. -/
inductive Walk where
  | leaf (e : W64) (lvl addr : Nat)
  | notValid
  | notPresent (e : W64) (lvl addr : Nat)
  | format (e : W64) (lvl addr : Nat)
deriving DecidableEq, Repr

/-- Index of an address at a level (R319). -/
def ptIndex (va lvl : Nat) : Nat := if lvl = 4 then (va >>> 64) % 65536 else (va >>> (12 * lvl + 16)) % 4096

/-- A table's entry for an address: what the walk cache holds, or memory. -/
def State.tableEntry (s : State) (asid va lvl addr : Nat) : W64 :=
  (s.hier.walkHeld s.ctlCount asid va lvl).getD (w64 (s.peek addr 8))

/-- Walk from a table at a level. -/
def State.walkFrom (s : State) (asid va : Nat) : Nat → Nat → Walk
  | lvl, base =>
    let addr := base + 8 * ptIndex va lvl
    let e := s.tableEntry asid va lvl addr
    if !pteV e then .notValid
    else if s.pteBad e lvl then .format e lvl addr
    else if pteLeaf e then
      if ptePresent e then .leaf e lvl addr else .notPresent e lvl addr
    else match lvl with
      | 0 => .format e 0 addr
      | l + 1 => s.walkFrom asid va l (pteFrame e)

/-- The table entries that a walk which ends in a leaf passes, for the walk cache. -/
def State.walkPath (s : State) (asid va : Nat) : Nat → Nat → List WalkEntry
  | lvl, base =>
    let e := s.tableEntry asid va lvl (base + 8 * ptIndex va lvl)
    if !pteV e || pteLeaf e then []
    else match lvl with
      | 0 => []
      | l + 1 => { asid := asid, level := l + 1, span := spanOf (l + 1) va, pte := e } :: s.walkPath asid va l (pteFrame e)

/-- Translate an address of a context in its controller: a held translation, or the walk; the walk reads no entry of an
untranslated window (R317, R319, R322, R325). DESIGN CHOICE, log 48. -/
def State.translate (s : State) (asid va : Nat) : Walk :=
  let w := va / 2 ^ 72 % 256
  if 0xFC ≤ w ∧ w ≤ 0xFE then .notValid
  else match s.hier.held s.ctlCount asid va with
    | some t => .leaf t.pte t.level t.addr
    | none => s.walkFrom asid va 4 (s.ctx asid).ptRoot

/-- The page of an address for the issuing group, or for an operation of its core where there is no group: the tag of a
line that a cache holds, else the translation (R312, R317). -/
def State.lookup (s : State) (asid va : Nat) : Walk :=
  match s.hier.serving (s.g.gid != 0) s.g.core asid (va / 128) with
  | some t => .leaf t.pte t.level t.addr
  | none => s.translate asid va

/-- Physical address under a leaf. -/
def leafPa (e : W64) (lvl va : Nat) : Nat := pteFrame e + va % pageSize lvl

/-! ### Pieces of an access -/

/-- One part of an access (R142): where it goes, and the page it goes through. -/
structure Piece where
  /-- local location, or the 52-bit address at a remote endpoint -/
  loc : Nat
  len : Nat
  va : Nat
  pte : Option (W64 × Nat × Nat)
  ep : Option Nat
deriving DecidableEq, Repr

/-- How an access can fail a check: a precise trap with its cause and detail, a translation fault of 64 KiB pages
(address bits 79:16), or a page-table format error. -/
inductive Fail where
  | trap (cause detail : Nat)
  | page (pages : List Nat)
  | format (detail : Nat) (va : Nat) (e : W64) (lvl addr : Nat)
deriving DecidableEq, Repr

/-- What an access does. -/
inductive Acc where
  | read | write | rmw | fetch
deriving DecidableEq, Repr

def Acc.writes : Acc → Bool
  | .write | .rmw => true
  | _ => false

/-- TRAP_DETAIL of an access violation (R372). DEDUCED, log 50. -/
def Acc.code : Acc → Nat
  | .read => 1 | .write => 2 | .rmw => 3 | .fetch => 4

def Acc.allowed (a : Acc) (e : W64) : Bool :=
  match a with
  | .read => pteR e | .write => pteW e | .rmw => pteR e && pteW e | .fetch => pteX e

/-- Where one byte address leads (R34). -/
inductive Place where
  | spad (core byte : Nat) | priv (off : Nat) | glob (va : Nat)
deriving DecidableEq, Repr

/-- A scratchpad offset of a block. -/
def spadPlace (b : Block) (off : Nat) : Except Fail Place :=
  if b.spadSize ≤ off then .error (.trap 0x08 off) else .ok (.spad b.core (b.spadBase + off))

/-- `decode` (R34) for the issuing group. -/
def State.decode (s : State) (a : Nat) : Except Fail Place :=
  let win := bitsOf a 72 8
  let core := s.g.core
  if win = 0xFE then
    if bitsOf a 40 32 ≠ 0 then .error (.trap 0x06 0)
    else
      let c := bitsOf a 24 16
      if c ≠ 0xFFFF ∧ c ≠ core then .error (.trap 0x07 c)
      else match s.thisBlock with
        | some b => spadPlace b (bitsOf a 0 24)
        | none => .error (.trap 0x08 (bitsOf a 0 24))
  else if win = 0xFD then
    if bitsOf a 40 32 ≠ 0 ∨ bitsOf a 26 6 ≠ 0 then .error (.trap 0x06 0)
    else
      let cl := bitsOf a 32 8
      if cl ≠ 0xFF ∧ cl ≠ clusterOf core then .error (.trap 0x07 cl)
      else
        let c := core / 4 * 4 + bitsOf a 24 2
        match s.thisBlock.bind (fun b => s.gangBlock b c) with
        | some b => spadPlace b (bitsOf a 0 24)
        | none => .error (.trap 0x07 c)
  else if win = 0xFC then
    if bitsOf a 32 40 ≠ 0 then .error (.trap 0x06 0)
    else
      let o := bitsOf a 0 32
      if s.cx.privSize ≤ o then .error (.trap 0x09 o)
      else if o < s.cx.stkLimit then .error (.trap 0x0A o)
      else .ok (.priv o)
  else .ok (.glob a)

/-- priv_addr (R33). -/
def State.privAddr (s : State) (tid : W32) (o : Nat) : Nat :=
  let t := tid.toNat
  let stride := s.cx.privSize + 4 * (256 - s.g.bound)
  (s.cx.privBase.toNat + t / 32 * 32 * stride + o / 4 * 128 + t % 32 * 4 + o % 4) % 2 ^ 80

/-- The two ends of an access lie in one window and one offset field (R34). -/
def spanOk (a n : Nat) : Bool :=
  let last := (a + n - 1) % 2 ^ 80
  let win := bitsOf a 72 8
  let keep := if win = 0xFE ∨ win = 0xFD then 24 else if win = 0xFC then 32 else 72
  a >>> keep == last >>> keep

/-- Cut n bytes at a into runs that do not cross a multiple of `unit`; `fuel` bounds their number. -/
def splitAt (unit : Nat) : Nat → Nat → Nat → List (Nat × Nat)
  | 0, _, _ => []
  | fuel + 1, a, n =>
    if n = 0 then []
    else
      let k := min n (unit - a % unit)
      (a, k) :: splitAt unit fuel (a + k) (n - k)

/-- The global runs of an access: 4-byte units of private offset, or pages (R142). -/
def State.runsOf (s : State) (tid : W32) (p : Place) (n : Nat) : List (Nat × Nat) :=
  match p with
  | .spad _ _ => []
  | .priv o => (splitAt 4 (n / 4 + 2) o n).map (fun r => (s.privAddr tid r.1, r.2))
  | .glob a => splitAt 65536 (n / 65536 + 2) a n

/-- A run with its translation. -/
def State.withWalk (s : State) (asid : Nat) (rs : List (Nat × Nat)) : List (Nat × Nat × Walk) :=
  rs.map (fun r => (r.1, r.2, s.lookup asid r.1))

/-- The leaf of a translation. -/
def Walk.pte? : Walk → Option W64
  | .leaf e _ _ => some e
  | _ => none

/-- The attributes of the pages that translate agree (check 4 of R140, R143). -/
def attrsAgree (l : List (Nat × Nat × Walk)) : Bool :=
  match l.filterMap (fun r => r.2.2.pte?) with
  | [] => true
  | e :: es => es.all (fun x => pteAttrs x == pteAttrs e)

/-- The 64 KiB pages that do not translate (check 5). -/
def missing (l : List (Nat × Nat × Walk)) : List Nat :=
  (l.filterMap (fun r => match r.2.2 with
    | .notValid => some (r.1 / 65536)
    | .notPresent _ _ _ => some (r.1 / 65536)
    | _ => none)).eraseDups

/-- Permission of one run (check 6), and the piece it gives. -/
def permit (a : Acc) (r : Nat × Nat × Walk) : Except Fail Piece :=
  match r.2.2 with
  | .leaf e lvl addr =>
    if a.allowed e then
      .ok { loc := leafPa e lvl r.1, len := r.2.1, va := r.1, pte := some (e, lvl, addr)
            ep := if pteFt e then some (pteEp e) else none }
    else .error (.trap 0x0D a.code)
  | .format e lvl addr => .error (.format a.code r.1 e lvl addr)
  | _ => .error (.page [r.1 / 65536])

/-- A list of checks, the first failure winning. -/
def allOk {α β : Type} (f : α → Except Fail β) : List α → Except Fail (List β)
  | [] => .ok []
  | x :: xs => match f x with
    | .error e => .error e
    | .ok y => match allOk f xs with
      | .error e => .error e
      | .ok ys => .ok (y :: ys)

/-- Checks 5 and 6 of R140 on the runs of an access, with the atomic-attribute check of R147. -/
def permitAll (a : Acc) (l : List (Nat × Nat × Walk)) : Except Fail (List Piece) :=
  if !(missing l).isEmpty then .error (.page (missing l))
  else match allOk (permit a) l with
    | .error e => .error e
    | .ok ps =>
      if a = .rmw ∧ l.any (fun r => (r.2.2.pte?.map pteRep).getD false) then .error (.trap 0x0E 0) else .ok ps

/-- Checks 2 and 3 of R140: decoding of both ends, and an alignment (R34, R142). -/
def State.checkEnds (s : State) (a n align : Nat) : Except Fail Place :=
  if !spanOk a n then .error (.trap 0x06 0)
  else match s.decode a with
    | .error e => .error e
    | .ok p => match s.decode ((a + n - 1) % 2 ^ 80) with
      | .error e => .error e
      | .ok _ => if a % align ≠ 0 then .error (.trap 0x0B 0) else .ok p

/-- Check 7: a local piece of a read is not poisoned (R146). -/
def State.poisonOk (s : State) (ps : List Piece) : Bool := ps.all (fun p => p.ep.isSome || !s.poisoned p.loc p.len)

/-- Checks 4 to 7 on an access whose place is known. -/
def State.checkPages (s : State) (asid : Nat) (tid : W32) (acc : Acc) (p : Place) (n : Nat) : Except Fail (List Piece) :=
  let fin (ps : List Piece) : Except Fail (List Piece) :=
    if acc ≠ .write ∧ !s.poisonOk ps then .error (.trap 0x0F 0) else .ok ps
  match p with
  | .spad core byte => fin [{ loc := spadLoc core byte, len := n, va := 0, pte := none, ep := none }]
  | p =>
    let l := s.withWalk asid (s.runsOf tid p n)
    if !attrsAgree l then .error (.trap 0x0C 0)
    else match permitAll acc l with
      | .error e => .error e
      | .ok ps => fin ps

/-- Checks 2 to 7 of R140 on n > 0 bytes at an address. -/
def State.checkAccess (s : State) (tid : W32) (acc : Acc) (a n align : Nat) : Except Fail (List Piece) :=
  match s.checkEnds a n align with
  | .error e => .error e
  | .ok p => s.checkPages s.g.asid tid acc p n

/-! ### Effects of a translation (R315, R320, R322, R323) -/

/-- Key of a pinned line in a context (R158). -/
def pinKey (die line : Nat) : Nat := die * 2 ^ 73 + line

/-- Lines pinned on a die. -/
def State.pinTest (s : State) : PinTest := fun die asid vline => (s.ctx asid).pins.contains (pinKey die vline)

/-- The zero-map bits of the lines of a zero-fill frame are set: its data is zero (R315). -/
def State.zeroFrame (s : State) (pa : Nat) : State :=
  let h := s.hier.remove (fun _ t => t.line / 512 == pa / 65536) (fun _ t => t.line / 512 == pa / 65536)
  { s with mem := s.mem.filter (fun c => c.1 < pa || pa + 65536 ≤ c.1)
           hier := { h with zeroClear := h.zeroClear.filter (fun c => c.1 < pa / 128 || (pa + 65536) / 128 ≤ c.1) } }

/-- One indivisible update of an entry (R323): bits set and cleared, every other bit as it is found. -/
def State.pteUpdate (s : State) (addr : Nat) (on off : W64) : State :=
  { s with mem := putBytes addr (natBytes 8 ((w64 (s.peek addr 8) ||| on) &&& ~~~off).toNat) s.mem }

/-- A leaf as it stands after its first translation: A set, and ZF cleared (R315, R320). -/
def pteWalked (e : W64) : W64 := (e ||| 0x10000#64) &&& ~~~(0x10#64)

/-- The effects of a walk that ended in a leaf e (R315, R322), an entry that reads `cur` by now: a zero-fill frame of local
memory becomes zero, ZF is cleared and A set in the entry, and the controller holds the translation and the table entries
it read. DEDUCED, log 134. -/
def State.walked (s : State) (asid va : Nat) (e cur : W64) (lvl addr : Nat) : State :=
  let zf := pteZf e && pteZf cur
  let s1 := if zf && !pteFt e then s.zeroFrame (pteFrame e) else s
  let s2 := if pteA cur && !zf then s1 else s1.pteUpdate addr 0x10000#64 (if zf then 0x10#64 else 0)
  let h1 := (s.walkPath asid va 4 (s.ctx asid).ptRoot).foldl (fun h w => h.holdWalk s.ctlCount va w) s2.hier
  let t : TlbEntry := { asid := asid, page := va / pageSize lvl, pte := pteWalked cur, level := lvl, addr := addr }
  { s2 with hier := h1.hold s.ctlCount va t }

/-- Translate an address in its controller, with the effects of the walk (R322). -/
def State.seen (s : State) (asid va : Nat) : State :=
  match s.translate asid va with
  | .leaf e lvl addr =>
    match s.hier.held s.ctlCount asid va with
    | some t => { s with hier := s.hier.hold s.ctlCount va t }
    | none => s.walked asid va e e lvl addr
  | _ => s

/-- Translate the runs of an access whose lines no cache serves. -/
def State.seenRuns (s : State) (asid : Nat) (rs : List (Nat × Nat)) : State :=
  rs.foldl (fun s r => if (s.hier.serving (s.g.gid != 0) s.g.core asid (r.1 / 128)).isSome then s else s.seen asid r.1) s

/-- D is set in an entry, and in the copies that controllers and tags hold of it (R320, R323). -/
def State.dirtied (s : State) (addr : Nat) : State :=
  let s1 := s.pteUpdate addr 0x20000#64 0
  let on (e : W64) : W64 := e ||| 0x20000#64
  let tags (m : SMap (List Tag)) : SMap (List Tag) :=
    m.map (fun c => (c.1, updWhere (fun (t : Tag) => t.addr == addr) (fun t => { t with pte := on t.pte }) c.2))
  let held (m : SMap (List TlbEntry)) : SMap (List TlbEntry) :=
    m.map (fun c => (c.1, updWhere (fun (t : TlbEntry) => t.addr == addr) (fun t => { t with pte := on t.pte }) c.2))
  { s1 with hier := { s1.hier with l1 := tags s1.hier.l1, l2 := tags s1.hier.l2, tlb := held s1.hier.tlb } }

/-- The tag a line of a piece has, and the sectors of it that the piece touches. -/
def Piece.tags (p : Piece) (asid : Nat) (e : W64) (lvl addr : Nat) : List (Tag × BitVec 4) :=
  (linesOf p.loc p.len).map (fun l =>
    (tagFor asid (p.va / 128 + (l - p.loc / 128)) l e lvl addr, sectorsOf l p.loc p.len))

/-- A piece is read through the caches (R309 to R312): lines of cacheable local pages are filled, those of uncacheable ones
marked. -/
def State.cacheRead (s : State) (asid : Nat) (p : Piece) : State :=
  match p.pte with
  | none => s
  | some (e, lvl, addr) =>
    if pteFt e then { s with hier := s.hier.miss s.now addr }
    else
      let via1 := s.g.gid != 0
      { s with hier := (p.tags asid e lvl addr).foldl (fun h x =>
          if pteC e then h.readLine s.pinTest s.now s.g.core via1 x.1 x.2 else h.markUncached s.pinTest s.g.core x.1) s.hier }

/-- An entry maps what it mapped when an access's checks read it as e: only A and D may have been set since, or ZF
cleared. -/
def entryStands (e cur : W64) : Bool := (e ^^^ cur) &&& ~~~(0x30010#64) == 0 && (pteZf e || !pteZf cur)

/-- The translation of a piece that an access's checks found is made: a line that a cache holds needs none, and an entry
that has changed since is left as it is (R317, R322, R323). -/
def State.seenPiece (s : State) (asid : Nat) (p : Piece) : State :=
  match p.pte with
  | none => s
  | some (e, lvl, addr) =>
    if (s.hier.serving (s.g.gid != 0) s.g.core asid (p.va / 128)).isSome then s
    else match s.hier.held s.ctlCount asid p.va with
      | some t => { s with hier := s.hier.hold s.ctlCount p.va t }
      | none =>
        let cur := s.tableEntry asid p.va lvl addr
        if entryStands e cur then s.walked asid p.va e cur lvl addr else s

/-- An access's effects on one page: the translation's, D for a write, and for a read the lines it fills. -/
def State.touch (s : State) (asid : Nat) (wr : Bool) (p : Piece) : State :=
  match p.pte with
  | none => s
  | some (e, _, addr) =>
    let s1 := s.seenPiece asid p
    if wr then (if pteD e then s1 else s1.dirtied addr) else s1.cacheRead asid p

def State.touchAll (s : State) (asid : Nat) (wr : Bool) (ps : List Piece) : State :=
  ps.foldl (fun s p => s.touch asid wr p) s

/-! ### Reading and writing pieces -/

/-- A write, an atomic or a DCZ waits at the directory while the lines of its page move (R329). -/
def State.moving (s : State) (p : Piece) : Bool :=
  p.ep.isNone && s.hier.moves.any (fun m =>
    decide (m.source * 65536 < p.loc + p.len) && decide (p.loc < m.source * 65536 + pageSize m.level))

/-- The bytes of local pieces, as a die sees them. -/
def State.readPieces (s : State) (die : Nat) : List Piece → List Byte
  | [] => []
  | p :: ps => s.bytesAt die p.loc p.len ++ s.readPieces die ps

/-- A store through the caches of a core, or where `far` in the line's slice (R311, R310). -/
def State.cacheWrite (s : State) (core asid : Nat) (far : Bool) (p : Piece) (e : W64) (lvl addr : Nat) : State :=
  { s with hier := (p.tags asid e lvl addr).foldl (fun h x =>
      if far then h.writeFar s.pinTest s.now core x.1 x.2
      else
        let h1 := if (h.serving true core asid x.1.vline).isSome then h else h.miss s.now addr
        h1.writeLine s.pinTest core x.1 x.2) s.hier }

/-- Bytes for a replicated page take their place in the sequence order, which every die's replica has still to apply (R303). -/
def State.sequenced (s : State) (asid : Nat) (tids : List W32) (loc : Nat) (bs : List Byte) : State :=
  let w : SeqWrite :=
    { num := s.seqNum, bytes := bs.mapIdx (fun i b => (loc + i, b))
      old := (List.range bs.length).map (fun i => (loc + i, s.mem.get 0 (loc + i)))
      pending := s.dies, threads := tids, asid := asid }
  { s.poke loc bs with seqLog := s.seqLog ++ [w], seqNum := s.seqNum + 1 }

/-- A location lies in a page that a controller or a cache knows as replicated. DEDUCED, log 138. -/
def State.replicatedAt (s : State) (loc : Nat) : Bool :=
  let of (e : W64) (lvl : Nat) : Bool := pteRep e && !pteFt e && decide (pteFrame e ≤ loc) && decide (loc < pteFrame e + pageSize lvl)
  s.hier.tlb.any (fun c => c.2.any (fun t => of t.pte t.level)) || s.hier.l2.any (fun c => c.2.any (fun t => of t.pte t.level))

/-- Bytes written by physical address, within one 64 KiB frame, by the host or by a packet: in sequence order where the page
is replicated, else past the caches (R303). -/
def State.outsideWrite (s : State) (loc : Nat) (bs : List Byte) : State :=
  if s.replicatedAt loc then s.sequenced 0 [] loc bs else s.poke loc bs

/-- Starts that wait on a channel of the apertures (R217). -/
def State.waiting (s : State) (core : Nat) : Nat := (s.apStarts.filter (fun o => o.core == core)).length

/-- The bytes of a load from an aperture: the starts that wait on the channel of its offset (R217). -/
def State.apertureBytes (s : State) (off n : Nat) : List Byte := natBytes n (if off % 256 = 0 then s.waiting (off / 256) else 0)

/-- An aligned 4-byte store to an aperture is on its way; any other store there does nothing. DESIGN CHOICE, log 141. -/
def State.apertureStored (s : State) (asid off : Nat) (bs : List Byte) : State :=
  if bs.length = 4 ∧ off % 4 = 0 then { s with apStores := s.apStores ++ [(asid, BitVec.ofNat 16 off, w32 (bytesNat bs))] } else s

/-- Store to one local piece: sequenced on a replicated page (R303), through the caches on a cacheable one, past them on
any other; to an aperture where it is one (R217). -/
def State.writeLocal (s : State) (core asid : Nat) (far : Bool) (tids : List W32) (p : Piece) (bs : List Byte) : State :=
  match p.pte with
  | none => s.poke p.loc bs
  | some (e, lvl, addr) =>
    if pteRep e then s.sequenced asid tids p.loc bs
    else if (apertureOf p.loc).isSome then
      match apertureOf p.loc with
      | some (a, off) => s.apertureStored a off bs
      | none => s
    else if pteC e then (s.pokeData p.loc bs).cacheWrite core asid far p e lvl addr
    else
      let s1 := s.poke p.loc bs
      { s1 with hier := (p.tags asid e lvl addr).foldl (fun h x => h.markUncached s.pinTest core x.1) s1.hier }

end Sys2Proof.Machine
end

