-- ==== Sys2Proof/Machine/Wire.lean ====
section
/-! DEFINITION. What the device writes and sends on its own: fault records and the fault queue (R377 to R379, R402),
trace events (R386), counted packets with their spans and log (R229, R232, R351, R352, R360), and the write-combining
buffer (R230). -/

namespace Sys2Proof.Machine

/-! ### Device accesses to a context's memory -/

/-- Local location of an address of a context that translates to local memory. -/
def State.locOf (s : State) (asid va : Nat) : Option Nat :=
  match s.translate asid va with
  | .leaf e lvl _ => if pteFt e then none else some (leafPa e lvl va)
  | _ => none

/-- Pages of a run of bytes at an address of a context. -/
def pageRuns (va n : Nat) : List (Nat × Nat) := (splitAt 65536 (n / 65536 + 2) va n).map (fun r => (r.1 % 2 ^ 80, r.2))

/-- Store bytes within one page as the device's own plain store: translated like any access, with A, D and ZF (R315, R320),
and sequenced on a replicated page (R303); a page that does not translate to local memory takes nothing. -/
def State.devicePoke (s : State) (asid va : Nat) (bs : List Byte) : State :=
  match s.translate asid va with
  | .leaf e lvl addr =>
    if pteFt e then s
    else
      let p : Piece := { loc := leafPa e lvl va, len := bs.length, va := va, pte := some (e, lvl, addr), ep := none }
      let s1 := s.seen asid va
      let s2 := if pteD e then s1 else s1.dirtied addr
      if pteRep e then s2.writeLocal 0 asid true [] p bs else s2.poke p.loc bs
  | _ => s

/-- Store bytes at addresses of a context as the device's own plain stores. -/
def State.vPoke (s : State) (asid va : Nat) (bs : List Byte) : State :=
  ((pageRuns va bs.length).foldl (fun (x : State × List Byte) r => (x.1.devicePoke asid r.1 (x.2.take r.2), x.2.drop r.2)) (s, bs)).1

/-- Read n bytes at addresses of a context, of a replicated page from the replica beside its home controller (R303); zero
where an address does not translate. -/
def State.vPeek (s : State) (asid va n : Nat) : List Byte :=
  (pageRuns va n).flatMap (fun r => match s.locOf asid r.1 with
    | some loc => s.homeBytes loc r.2
    | none => List.replicate r.2 0)

/-- Bytes of code as a core's fetch reads them: of a line its instruction cache holds, as they were fetched (R160). -/
def State.codePeek (s : State) (core asid va n : Nat) : List Byte :=
  (List.range n).flatMap (fun i => match s.hier.codeHeld core asid ((va + i) % 2 ^ 80 / 128) with
    | some l => [l.getD ((va + i) % 128) 0]
    | none => s.vPeek asid ((va + i) % 2 ^ 80) 1)

def State.vPeekN (s : State) (asid va n : Nat) : Nat := bytesNat (s.vPeek asid va n)

/-! ### Trace (R386) -/

/-- Offset of a die's trace registers: TR_BASE, TR_SIZE, TR_WRITE, TR_CTL at +0x00, +0x08, +0x10, +0x18. -/
def traceReg (die i : Nat) : Nat := 0x600000 + 0x40 * die + 8 * i

/-- Write a trace event of a kind where the die's TR_CTL enables it. DESIGN CHOICE, log 89. -/
def State.trace (s : State) (die core asid kind d2 d3 : Nat) : State :=
  let size := (s.devRegs.get 0 (traceReg die 1)).toNat
  if !(s.devRegs.get 0 (traceReg die 3)).getLsbD kind || size == 0 then s
  else
    let base := (s.devRegs.get 0 (traceReg die 0)).toNat % 2 ^ 52
    let w := (s.devRegs.get 0 (traceReg die 2)).toNat
    let ev := natBytes 8 s.now ++ natBytes 8 (kind + core * 2 ^ 16 + asid * 2 ^ 32) ++ natBytes 8 d2 ++ natBytes 8 d3
    { s.poke (base + 32 * (w % size)) ev with devRegs := s.devRegs.put 0 (traceReg die 2) (w64 (w + 1)) }

/-- A trace event that is the acquire side of a synchronisation whose release, on another die or device, has a stamp: its
own is greater (R387). DEDUCED, log 123. -/
def State.traceAfter (s : State) (stamp : Option Nat) (die core asid kind d2 d3 : Nat) : State :=
  match stamp with
  | none => s.trace die core asid kind d2 d3
  | some t => { { s with now := max s.now (t + 1) }.trace die core asid kind d2 d3 with now := s.now }

/-! ### Faults -/

/-- The sixteen doublewords of a fault record (R377). -/
def FaultRec.words (f : FaultRec) : List Nat :=
  [f.tstamp, f.code + f.cls * 2 ^ 16 + f.asid * 2 ^ 32 + f.dctx.toNat * 2 ^ 48, f.launch.toNat + f.pc.toNat * 2 ^ 32
    , f.wix + f.lane * 2 ^ 8 + f.core * 2 ^ 16 + f.thread.toNat * 2 ^ 32, f.addr.toNat % 2 ^ 64, f.addr.toNat / 2 ^ 64
    , f.rid, f.seq.toNat] ++ (List.range 8).map (fun i => (f.detail.getD i 0).toNat)

def FaultRec.bytes (f : FaultRec) : List Byte := (f.words.map (natBytes 8)).flatten

/-- A fault with no group, lane or address. DEDUCED, log 118. -/
def FaultRec.plain (s : State) (asid code cls : Nat) (detail : List W64) : FaultRec :=
  { tstamp := s.now, code := code, cls := cls, asid := asid, dctx := (s.ctx asid).dctx, launch := 0, pc := 0xFFFFFFFF
    wix := 0, lane := 0xFF, core := 0xFFFF, thread := 0xFFFFFFFF, addr := 0, rid := 0, seq := 0, detail := detail }

/-- Append a fault record to the context's fault queue (R378). -/
def State.ctxFault (s : State) (f : FaultRec) : State :=
  let c := s.ctx f.asid
  let base := c.fqBase.toNat
  let w := s.vPeekN f.asid base 8
  let r := s.vPeekN f.asid (base + 8) 8
  let s1 := s.setCtx f.asid { c with fqSeq := c.fqSeq + 1 }
  let s2 := s1.trace (dieOf f.core % 4) f.core f.asid 5 c.fqSeq f.code
  if (w - r) % 2 ^ 64 = c.fqSize then
    let d := s.vPeekN f.asid (base + 16) 8
    s2.vPoke f.asid (base + 16) (natBytes 8 (min (d + 1) (2 ^ 64 - 1)))
  else
    let s3 := s2.vPoke f.asid (base + 128 * (1 + w % c.fqSize)) ({ f with seq := w32 c.fqSeq }).bytes
    let s4 := s3.vPoke f.asid base (natBytes 8 (w + 1))
    if w = r then s4.emit (.msix (1 + c.part)) else s4

/-- An imprecise fault that work of a launch on a core gave rise to (R371, R372, R377, R402). -/
def State.impreciseOn (s : State) (asid launch core code : Nat) (detail : List W64) (addr : Nat) : State :=
  s.ctxFault { FaultRec.plain s asid code 1 detail with addr := BitVec.ofNat 80 addr, launch := w32 launch, core := core }

/-- An imprecise fault of the issuing group. -/
def State.impreciseGroup (s : State) (code : Nat) (detail : List W64) (addr : Nat) : State :=
  s.impreciseOn s.g.asid s.g.launch s.g.core code detail addr

/-- An imprecise fault of a context (R371, R372, R402). -/
def State.imprecise (s : State) (asid code : Nat) (detail : List W64) (addr : Nat) : State :=
  s.ctxFault { FaultRec.plain s asid code 1 detail with addr := BitVec.ofNat 80 addr }

/-- A device fault: the ring of R379, with its interrupt vector. -/
def State.devFault (s : State) (code : Nat) (detail : List W64) (part : Option Nat) : State :=
  { s with devFaults := s.devFaults ++ [{ FaultRec.plain s 0 code 3 detail with dctx := 0, seq := w32 s.devFaults.length }] }.emit
    (.msix (match part with | some p => 1 + p | none => 9))

/-! ### Ports and paths -/

/-- The ports that are up. -/
def State.upPorts (s : State) : List Nat := below 64 (fun p => (s.ports.get Port.off p).up)

/-- A path to a destination is up (R350). -/
def State.pathUp (s : State) : Bool := !s.upPorts.isEmpty

/-- PATH_HOLD in ns (R352). -/
def pathHoldNs : Nat := 1000

/-- Put a packet on its path: it waits while its line's path has changed (R352). -/
def State.transmit (s0 : State) (p : Packet) : State :=
  let s := s0.flits p.dctx
  let line := p.dst * 2 ^ 52 + p.addr / 128
  if s.pathHold.get 0 line ≠ 0 then { s with pathWait := s.pathWait ++ [(none, p)] }
  else { s with out := .packet p :: s.out, lineLast := s.lineLast.put 0 line (s.now + 1) }

/-- Bytes of log a packet takes: its flits (R351, R360). -/
def logBytes (p : Packet) : Nat :=
  match p.cls with
  | .write | .engineWrite => 160
  | .zeroLine => 32
  | .flag => 64

/-- Drop the oldest span of the log (R360). -/
def dropOldestSpan (l : List LogEntry) : List LogEntry :=
  match l with
  | [] => []
  | e :: _ => l.filter (fun x => !(x.pkt.dst == e.pkt.dst && x.pkt.slot == e.pkt.slot && x.pkt.span == e.pkt.span))

/-- Enter a packet or flag in the send log (R360). -/
def State.logPacket (s : State) (p : Packet) : State :=
  let used := (s.sendLog.map (fun e => logBytes e.pkt)).foldl (· + ·) 0
  let full := 2 ^ 30 < used + logBytes p
  let l := if full then dropOldestSpan s.sendLog else s.sendLog
  { s with sendLog := l ++ [{ pkt := p, closedAt := none }], slogDrop := if full then s.slogDrop + 1 else s.slogDrop }

def sendKey (dst slot : Nat) : Nat := dst * 64 + slot
def State.send (s : State) (dst slot : Nat) : SendState := s.sends.get SendState.init (sendKey dst slot)
def State.setSend (s : State) (dst slot : Nat) (x : SendState) : State :=
  { s with sends := s.sends.put SendState.init (sendKey dst slot) x }

/-- Send a counted packet in the open span: it is counted when it is first transmitted, so one whose line's path has
changed waits uncounted (R352), and one that finds the count at its limit is held for the next span (R229). -/
def State.sendCounted (s : State) (core : Nat) (p : Packet) : State :=
  let st := s.send p.dst p.slot
  if s.pathUp && s.pathHold.get 0 (p.dst * 2 ^ 52 + p.addr / 128) != 0 then { s with pathWait := s.pathWait ++ [(some core, p)] }
  else if 2 ^ 23 ≤ st.count then s.setSend p.dst p.slot { st with heldPkts := st.heldPkts ++ [(core, p)] }
  else
    let p' := { p with span := st.span, gen := st.gen, stamp := w32 s.now, src := s.endpoint }
    let s1 := (s.setSend p.dst p.slot { st with count := st.count + 1 }).logPacket p'
    if s.pathUp then s1.transmit p' else s1

/-- Packets of a core have not left the device: they wait for their path or for the next span (R305). -/
def State.notLeft (s : State) (core : Nat) : Bool :=
  s.pathWait.any (fun p => p.1 == some core) || s.sends.any (fun x => x.2.heldPkts.any (fun h => h.1 == core))

/-- Close the open span of a destination and slot (R232): the flag is logged, sent on the paths that are up, the
span number advances, and held packets go out in the new span. Answers SPAN and COUNT of the closed span. -/
def State.closeSpan (s : State) (dst slot : Nat) (dctx : BitVec 16) (addr : Nat) (value : W32) : Nat × State :=
  let st := s.send dst slot
  let f : Packet :=
    { cls := .flag, src := s.endpoint, dst := dst, dctx := dctx, slot := slot, span := st.span, gen := st.gen
      stamp := w32 s.now, addr := addr, bytes := [], count := st.count, value := value }
  let s1 := s.logPacket f
  let mark (e : LogEntry) : LogEntry :=
    if e.pkt.dst == dst && e.pkt.slot == slot && e.pkt.span == st.span && e.closedAt.isNone then
      { e with closedAt := some s.now } else e
  let s2 := { s1 with sendLog := s1.sendLog.map mark }
  let copies := min 2 s.upPorts.length
  let s3 := (List.range copies).foldl (fun s _ => (s.emit (.packet f)).flits dctx) s2
  let s4 := s3.setSend dst slot { st with span := st.span + 1, count := 0, heldPkts := [] }
  (st.span.toNat * 2 ^ 24 + st.count, st.heldPkts.foldl (fun s p => s.sendCounted p.1 p.2) s4)

/-! ### The write-combining buffer (R230) -/

/-- The packet an entry drains as. -/
def WcbEntry.packet (e : WcbEntry) : Packet :=
  { cls := .write, src := 0, dst := e.dst, dctx := e.dctx, slot := e.slot, span := 0, gen := 0, stamp := 0
    addr := e.line * 128, bytes := (below 128 (fun i => e.mask.getLsbD i)).map (fun i => (i, e.bytes.get 0 i)), count := 0
    value := 0 }

/-- Drain the entries that satisfy p, oldest first. -/
def State.drainWcb (s : State) (p : WcbEntry → Bool) : State :=
  (s.wcb.filter p).foldl (fun s e => s.sendCounted e.core e.packet) { s with wcb := s.wcb.filter (fun e => !p e) }

def State.wcbOf (s : State) (core : Nat) : List WcbEntry := s.wcb.filter (fun e => e.core == core)

/-- Places of a core's buffer that entries held for the next span take (R229). -/
def State.wcbHeld (s : State) (core : Nat) : Nat :=
  ((s.sends.map (fun x => (x.2.heldPkts.filter (fun h => h.1 == core && h.2.cls == .write)).length)).foldl (· + ·) 0)

/-- No place of a core's buffer can come free: every one of the 64 holds an entry that its span has no room for (R229). -/
def State.wcbBlocked (s : State) (core : Nat) : Bool :=
  64 ≤ s.wcbHeld core + ((s.wcbOf core).filter (fun e => 2 ^ 23 ≤ (s.send e.dst e.slot).count)).length

/-- Make a place in a core's buffer: while all 64 are taken the oldest entry drains. -/
def State.wcbRoom (s : State) (core : Nat) : Nat → State
  | 0 => s
  | n + 1 =>
    if (s.wcbOf core).length + s.wcbHeld core < 64 then s
    else match s.wcbOf core with
      | e :: _ => (s.drainWcb (fun x => x.id == e.id)).wcbRoom core n
      | [] => s

/-- An entry for a line. -/
def WcbEntry.for (e : WcbEntry) (core asid ep line : Nat) : Bool := e.core == core && e.asid == asid && e.dst == ep && e.line == line

/-- Store bytes within one line into the buffer of a core (R230). -/
def State.wcbLine (s : State) (core asid : Nat) (dctx : BitVec 16) (ep pa slot : Nat) (bs : List Byte) : State :=
  let same (e : WcbEntry) : Bool := e.for core asid ep (pa / 128)
  let s1 := if s.wcb.any (fun e => same e && e.slot != slot) then s.drainWcb same else s
  let s2 := if s1.wcb.any same then s1 else
    let s2 := s1.wcbRoom core 64
    let e : WcbEntry := { id := s2.serial, core := core, asid := asid, dctx := dctx, dst := ep, line := pa / 128, slot := slot
                          openedAt := s2.now, bytes := [], mask := 0 }
    { s2 with wcb := s2.wcb ++ [e], serial := s2.serial + 1 }
  let fill (e : WcbEntry) : WcbEntry :=
    { e with bytes := putBytes (pa % 128) bs e.bytes
             mask := e.mask ||| maskOf 128 ((List.range bs.length).map (fun i => pa % 128 + i)) }
  let s3 := { s2 with wcb := updWhere same fill s2.wcb }
  if s3.wcb.any (fun e => same e && e.mask == BitVec.allOnes 128) then s3.drainWcb same else s3

/-- Drain a core's entries of a context for some lines of an endpoint, so that what follows is behind them (R145). -/
def State.drainLines (s : State) (core asid ep : Nat) (ls : List Nat) : State :=
  s.drainWcb (fun e => e.core == core && e.asid == asid && e.dst == ep && ls.contains e.line)

/-- A packet's bytes as a location and a byte each; a zero line has all of its line's (R315). -/
def packetCells (p : Packet) : List (Nat × Byte) :=
  match p.cls with
  | .zeroLine => (List.range 128).map (fun i => (p.addr + i, 0))
  | _ => p.bytes.map (fun b => (p.addr + b.1, b.2))

/-- The bytes of a range at an endpoint that stores from a core have written and that have not left it: packets held for
the next span, then the entries of its buffer; by offset into the range, oldest first (R145). -/
def State.heldBytes (s : State) (core ep addr len : Nat) : List (Nat × Byte) :=
  let pkts := (s.sends.flatMap (fun x => x.2.heldPkts)).filter (fun h => h.1 == core && h.2.dst == ep)
  let cells := pkts.flatMap (fun h => packetCells h.2)
    ++ (s.wcb.filter (fun e => e.core == core && e.dst == ep)).flatMap (fun e => packetCells e.packet)
  (cells.filter (fun c => addr ≤ c.1 && c.1 < addr + len)).map (fun c => (c.1 - addr, c.2))

/-- A request for a range has to wait: packets of its lines wait for their path (R352), or, where it may not pass a store
of its core, for the next span. -/
def State.lineWaits (s : State) (ep addr len : Nat) (behind : Bool) : Bool :=
  (linesOf addr len).any (fun l => s.pathHold.get 0 (ep * 2 ^ 52 + l) != 0
    || (behind && s.sends.any (fun x => x.2.heldPkts.any (fun h => h.2.dst == ep && h.2.addr / 128 == l))))

/-- Store bytes to a remote endpoint through the buffer. -/
def State.wcbStore (s : State) (core asid ep pa slot : Nat) (bs : List Byte) : State :=
  ((splitAt 128 (bs.length / 128 + 2) pa bs.length).foldl
    (fun (x : State × List Byte) r =>
      (x.1.wcbLine core asid (s.ctx asid).dctx ep r.1 slot (x.2.take r.2), x.2.drop r.2)) (s, bs)).1

/-- Store to one piece, local or remote. -/
def State.writePiece (s : State) (core asid slot : Nat) (tids : List W32) (p : Piece) (bs : List Byte) : State :=
  match p.ep with
  | some ep => s.wcbStore core asid ep p.loc slot bs
  | none => s.writeLocal core asid false tids p bs

/-- Store bytes to the pieces of an access, in order. -/
def State.writePieces (s : State) (core asid slot : Nat) (tids : List W32) : List Piece → List Byte → State
  | [], _ => s
  | p :: ps, bs => (s.writePiece core asid slot tids p (bs.take p.len)).writePieces core asid slot tids ps (bs.drop p.len)

end Sys2Proof.Machine
end

