-- ==== Sys2Proof/Machine/Rec.lean ====
section
/-! DEFINITION. Tokens (R20), continuation records and their pool (R260 to R267), readiness and bins (R264, R268,
R269), and the ends of groups, blocks and launches (R13, R20, R339). -/

namespace Sys2Proof.Machine

/-! ### Records -/

/-- Bytes of a record in 256-byte units (R261). -/
def recUnits (nlive : Nat) : Nat := 1 + (16 * nlive + 255) / 256

def Rec.units (r : Rec) : Nat := recUnits r.nlive

/-- Two 32-bit positions in a doubleword (R261). -/
def pairWord (l : List W32) (i : Nat) : Nat := (l.getD i 0).toNat + (l.getD (i + 1) 0).toNat * 2 ^ 32

/-- A token entry's doubleword (R261). -/
def TokenEntry.word (t : TokenEntry) : Nat :=
  if t.valid then 2 ^ 63 + (if t.done then 2 ^ 62 else 0) + t.wreg * 2 ^ 56 + t.value.toNat else 0

/-- The 32 header doublewords of a record (R261). -/
def Rec.words (r : Rec) : List Nat :=
  [r.binKey.toNat * 2 ^ 48 + r.wix * 2 ^ 36 + r.kind * 2 ^ 32 + r.rpc.toNat
    , r.asid * 2 ^ 32 + r.launch
    , r.block * 2 ^ 40 + r.parkId.toNat
    , r.tstamp % 2 ^ 64
    , r.nlive * 2 ^ 37 + (if r.dv then 2 ^ 36 else 0) + r.dreg * 2 ^ 28
        + (r.lstate.getD 0 0 + 4 * r.lstate.getD 1 0 + 16 * r.lstate.getD 2 0 + 64 * r.lstate.getD 3 0) * 2 ^ 12
        + r.applied.toNat * 256 + r.helper.toNat * 16 + r.live.toNat
    , pairWord r.tids 0, pairWord r.tids 2, pairWord r.lpcs 0, pairWord r.lpcs 2, pairWord r.mrs 0, pairWord r.mrs 2
    , r.twait.toNat * 2 ^ 48 + r.klive.toNat * 2 ^ 32 + r.pred.toNat
    , r.wkind, r.wkey0.toNat, r.wkey1.toNat, r.rid]
  ++ (List.range 8).map (fun i =>
      (r.handles.get noMeeting (2 * i)).toNat + (r.handles.get noMeeting (2 * i + 1)).toNat * 2 ^ 32)
  ++ (List.range 8).map (fun i => match r.tokens[i]? with | some t => t.word | none => 0)

/-- The bytes of a record (R261). -/
def Rec.bytes (r : Rec) : List Byte :=
  ((r.words.map (natBytes 8)).flatten ++ ((List.range (4 * r.nlive)).map (fun i => natBytes 4 (r.regs.get 0 i).toNat)).flatten)

/-- The segment of a context's code that holds a PC (R330). -/
def Ctx.segOf (c : Ctx) (pc : W32) : Option Segment :=
  c.segs.find? (fun x => x.start.toNat ≤ pc.toNat && pc.toNat < x.stop.toNat)

/-- The state of a lane at a park, with its PC (R262, R280, R281, R375): 1 stopped inside a clause, 2 held at a meeting, 3
held at a segment-ending word, 0 otherwise; `yield` says that lanes of a yield handler go back to their YPC (KIND 3 and
4). -/
def Group.laneState (g : Group) (yield : Bool) (L : Nat) : Nat × W32 :=
  let x := g.lane L
  match g.trap, x.saved with
  | some t, some _ => (1, t.pc)
  | _, _ =>
    match (if yield then x.ypc else none) with
    | some y => (0, y)
    | none =>
      match x.hold with
      | .meeting => (2, x.pc)
      | .segEnd => (3, x.pc)
      | .none => if x.mid || (match g.run with | some r => r.mask.getLsbD L | none => false) then (1, x.pc) else (0, x.pc)

/-- The word index of the lanes in state 1 (R262). -/
def Group.parkWix (g : Group) : Nat :=
  match g.trap with
  | some t => t.wix.toNat
  | none => match g.run with
    | some r => r.wix
    | none => g.resumeWix

/-- The PC a group would issue at: the lowest of its LIVE lanes that are not held, or of all its LIVE lanes (R129).
DEDUCED, log 28. -/
def Group.lowestPc (g : Group) : W32 :=
  let free := g.live.filter (fun L => (g.lane L).hold = .none)
  (if free.isEmpty then g.live else free).foldl (fun m L => if (g.lane L).pc.toNat < m.toNat then (g.lane L).pc else m) noMeeting

/-- What a park asks of the records it writes (R260, R264). -/
structure ParkPlan where
  kind : Nat
  nlive : Nat
  /-- where every LIVE lane resumes in state 0; none: each lane by Group.laneState -/
  next : Option W32
  wkind : Nat
  wkey0 : W64
  wkey1 : W64
  evSerial : Nat
  dv : Bool
  dreg : Nat
  fired : Bool
  dval : W32
deriving DecidableEq, Repr

/-- A park that waits for nothing. -/
def ParkPlan.now (kind nlive : Nat) (next : Option W32) : ParkPlan :=
  { kind := kind, nlive := nlive, next := next, wkind := 0, wkey0 := 0, wkey1 := 0, evSerial := 0, dv := false, dreg := 0
    fired := true, dval := 0 }

/-- A record of a kernel with neither scratchpad nor quota is free (R270). -/
def Block.bound (b : Block) : Bool := b.spadSize != 0 || b.tbarQuota != 0 || b.queueQuota != 0 || b.boundQuota != 0

/-- The record of quad q of the issuing group under a plan (R261, R262). -/
def State.makeRec (s : State) (g : Group) (q : Nat) (p : ParkPlan) (parkId : W32) : Rec :=
  let ls := quadLanes q
  let st (L : Nat) : Nat × W32 := match p.next with
    | some n => (0, n)
    | none => g.laneState (decide (3 ≤ p.kind)) L
  let isL (L : Nat) : Bool := (g.lane L).isLive
  let isH (L : Nat) : Bool := (g.lane L).isHelper
  let there (L : Nat) : Bool := isL L || isH L
  let lvs := ls.filter isL
  let lpcL (L : Nat) : W32 := (st L).2
  let low := match lvs with
    | L :: _ => lpcL L
    | [] => 0
  let runPcs := (lvs.filter (fun L => (st L).1 < 2)).map lpcL
  let minPc (l : List W32) : W32 := l.foldl (fun m x => if x.toNat < m.toNat then x else m) noMeeting
  let rpc := if runPcs.isEmpty then minPc (lvs.map lpcL) else minPc runPcs
  let pick {α : Type} (d : α) (f : Nat → α) : List α := ls.map (fun L => if there L then f L else d)
  let slots := below 16 (fun t => g.tilePend.get 0 t != 0)
  let bounds := below 16 (fun t => g.handles.get noMeeting t != noMeeting)
  let toks : List TokenEntry :=
    if p.kind = 1 ∨ p.kind = 2 ∨ p.kind = 4 then
      g.pend.map (fun x => { valid := true, done := false, wreg := x.1, value := 0, serial := x.2 })
    else []
  let bit (f : Nat → Bool) : BitVec 4 := maskOf 4 (below 4 (fun j => f (4 * q + j)))
  let regKeys := (List.range p.nlive).flatMap (fun n => below 4 (fun j => there (4 * q + j)) |>.map (fun j => (n, j)))
  { rid := s.endpoint * 2 ^ 54 + s.ridNext, binKey := ((s.ctx g.asid).segOf rpc).elim 0 (fun x => x.binKey), kind := p.kind
    wix := if lvs.any (fun L => (st L).1 == 1) then g.parkWix else 0
    rpc := rpc, asid := g.asid, launch := g.launch
    block := match s.blockOf g.asid g.launch g.block with
      | some b => if b.bound then b.num else 0xFFFFFF
      | none => 0xFFFFFF
    parkId := if toks.isEmpty then 0 else parkId, tstamp := s.now, nlive := p.nlive, dv := p.dv, dreg := p.dreg
    lstate := ls.map (fun L => if isL L then (st L).1 else 0)
    applied := bit (fun L => there L && (g.lane L).applied), helper := bit isH, live := bit isL
    tids := pick 0 (fun L => (g.lane L).threadId)
    lpcs := pick 0 (fun L => if isL L then lpcL L else low), mrs := pick 0 (fun L => (g.lane L).mr)
    twait := maskOf 16 slots, klive := maskOf 16 (bounds.filter g.kr)
    pred := w32 (bytesNat ((pick 0 (fun L => (g.lane L).p)).map (fun x => x)))
    wkind := p.wkind, wkey0 := p.wkey0, wkey1 := p.wkey1, handles := g.handles, tokens := toks
    regs := regKeys.foldl (fun m x => m.put 0 (4 * x.1 + x.2) ((g.lane (4 * q + x.2)).vr x.1)) []
    regPoison := regKeys.foldl (fun m x => m.put false (4 * x.1 + x.2) ((g.lane (4 * q + x.2)).vPoison.get false x.1)) []
    core := g.core, place := .none, durable := false, fired := p.fired || p.wkind == 0, readyAt := none
    evSerial := p.evSerial, tileSerials := slots.map (fun t => g.tilePend.get 0 t), dval := p.dval, frame := none
    xfer := none, preferred := g.preferred.getLsbD q, overdue := false, due := false, away := false }

/-! ### The pool (R265 to R267, R383) -/

/-- Runs of pool units taken: the save directory, records, and blocks' images. -/
def State.poolUsed (s : State) (asid : Nat) : List (Nat × Nat) :=
  (0, 256) :: (s.records.filterMap (fun r => match r.place with
      | .pool u => if r.asid = asid then some (u, r.units) else none
      | _ => none))
    ++ (s.blocks.filterMap (fun b => if b.asid = asid then some (b.imageUnit, b.imageUnits) else none))

/-- The lowest free run of `n` units. -/
def State.poolFind (s : State) (asid n : Nat) : Option Nat :=
  let used := s.poolUsed asid
  let size := (s.ctx asid).poolSize / 256
  let ok (u : Nat) : Bool := u + n ≤ size && used.all (fun x => u + n ≤ x.1 || x.1 + x.2 ≤ u)
  let cands := used.map (fun x => x.1 + x.2)
  (cands.filter ok).foldl (fun m u => match m with
    | none => some u
    | some v => some (min u v)) none

/-- Emergency records of a core in use (R267). -/
def State.emergencyUsed (s : State) (core : Nat) : Nat :=
  (s.records.filter (fun r => r.place == .emergency core)).length

/-! ### Readiness and bins (R264, R268, R269) -/

/-- The conditions of R264. -/
def Rec.isReady (r : Rec) : Bool :=
  r.durable && r.fired && r.tokens.all (fun t => !t.valid || t.done) && r.tileSerials.isEmpty && r.frame.isNone

/-- Two records share a bin (R268). -/
def Rec.sameBin (a b : Rec) : Bool :=
  a.core == b.core && a.asid == b.asid && a.launch == b.launch && a.rpc == b.rpc && a.wix == b.wix
    && a.binKey == b.binKey && a.block == b.block && a.handles == b.handles && a.parkId == b.parkId

/-- Ready records of a record's bin, by ready time and then RID (R271). -/
def State.binOf (s : State) (r : Rec) : List Rec :=
  sortBy (fun a b => a.readyAt.getD 0 < b.readyAt.getD 0 || (a.readyAt == b.readyAt && a.rid ≤ b.rid))
    (s.records.filter (fun x => x.readyAt.isSome && x.xfer.isNone && x.sameBin r))

/-- Records that satisfy R264 join their bins now; a bin of 8 is DUE, and one that joins a DUE bin keeps it so
(R269). -/
def State.settle (s : State) : State :=
  let recs := s.records.map (fun r => if r.readyAt.isNone && r.isReady then { r with readyAt := some s.now } else r)
  let s1 := { s with records := recs }
  { s1 with records := recs.map (fun r =>
      if r.readyAt.isSome && !r.due && (recs.any (fun x => x.due && x.readyAt.isSome && x.sameBin r)
        || 8 ≤ (recs.filter (fun x => x.readyAt.isSome && x.sameBin r)).length) then { r with due := true } else r) }

/-- Change every record, those that wait for room in the pool too (R266). -/
def State.mapRecs (s : State) (f : Rec → Rec) : State :=
  let stalled (g : Group) : Group :=
    match g.parkStall with
    | some p => { g with parkStall := some { p with recs := p.recs.map (fun x => (x.1, f x.2)) } }
    | none => g
  { s.mapGroups stalled with records := s.records.map f }

/-- A record as it travels (R261, R274). -/
def State.imageOf (s : State) (r : Rec) (b : Option Block) : RecordImage :=
  { words := r.words.map w64
    regs := (List.range (4 * r.nlive)).map (fun i => r.regs.get 0 i), poison := r.regPoison, dctx := (s.ctx r.asid).dctx
    digest := (s.ctx r.asid).digest, value := if r.fired then some r.dval else none, block := b }

/-- The event of records that another device has accepted is told there, with its value (R276). -/
def State.tell (s : State) (p : Rec → Bool) (val : W32) : State :=
  let hit (r : Rec) : Bool := !r.fired && r.xfer.isSome && p r
  let fire (r : Rec) : Rec := { r with fired := true, dval := val }
  (s.departed.filter hit).foldl (fun s r => s.emit (.record (r.xfer.getD 0) r.rid (s.imageOf (fire r) none)))
    { s with departed := updWhere hit fire s.departed }

/-- Fire the event of the records that satisfy p (R264), delivering a value. DEDUCED, log 79. -/
def State.wake (s : State) (p : Rec → Bool) (val : W32) : State :=
  ((s.mapRecs (fun r => if !r.fired && p r then { r with fired := true, dval := val } else r)).tell p val).settle

/-! ### Tokens (R20) -/

/-- A new token of a unit in w register `wd` of the issuing group. -/
def State.newToken (s : State) (wd unit : Nat) : Nat × Nat × State :=
  let key := s.g.core * 16 + unit
  let op := s.engNext.get 0 key
  let ser := s.serial
  (ser, op,
    { s with serial := ser + 1, engNext := s.engNext.put 0 key ((op + 1) % 65536)
             toks := { serial := ser, core := s.g.core, unit := unit, op := op } :: s.toks
             g := { s.g with pend := s.g.pend.put 0 wd ser } })

/-- Complete a token: its value goes to the group that holds it, to the records that name it, and to a record that
awaits it (R20, R264). -/
def State.completeToken (s : State) (serial : Nat) (v : W32) : State :=
  if serial = 0 then s
  else
    let onG (g : Group) : Group :=
      if g.pend.any (fun x => x.2 == serial) then
        { g with w := (g.pend.filter (fun x => x.2 == serial)).foldl (fun m x => m.put 0 x.1 v) g.w
                 pend := g.pend.filter (fun x => x.2 != serial) }
      else g
    let onT (t : TokenEntry) : TokenEntry :=
      if t.valid && !t.done && t.serial == serial then { t with done := true, value := v } else t
    let onR (r : Rec) : Rec :=
      let r := { r with tokens := r.tokens.map onT }
      if r.wkind == 1 && !r.fired && r.evSerial == serial then { r with fired := true, dval := v } else r
    let s1 := { (s.mapGroups onG).mapRecs onR with toks := s.toks.filter (fun t => t.serial != serial) }
    (s1.tell (fun r => r.wkind == 1 && r.evSerial == serial) v).settle

/-! ### The ends of launches, blocks and groups -/

def State.launchOf (s : State) (asid num : Nat) : Option Launch :=
  s.launches.find? (fun l => l.asid == asid && l.num == num)

def Launch.word (l : Launch) (i : Nat) : Nat := (l.words.getD i 0).toNat

/-- Fields of a launch record (R336). -/
def Launch.nroles (l : Launch) : Nat := bitsOf (l.word 0) 4 3
def Launch.gang (l : Launch) : Nat := bitsOf (l.word 0) 7 2
def Launch.nblocks (l : Launch) : Nat := bitsOf (l.word 0) 16 24
def Launch.threadBase (l : Launch) : Nat := bitsOf (l.word 1) 32 32
def Launch.rolePc (l : Launch) (r : Nat) : Nat := bitsOf (l.word (6 + 2 * r)) 0 32
def Launch.roleRegs (l : Launch) (r : Nat) : Nat := roundUp (max 8 (bitsOf (l.word (6 + 2 * r)) 32 9)) 8
def Launch.roleGroups (l : Launch) (r : Nat) : Nat := bitsOf (l.word (6 + 2 * r)) 41 6
def Launch.roleTiles (l : Launch) (r : Nat) : Nat := bitsOf (l.word (6 + 2 * r)) 47 5
/-- Groups per block (R338). -/
def Launch.gpb (l : Launch) : Nat := ((List.range l.nroles).map l.roleGroups).foldl (· + ·) 0
def Launch.doneAddr (l : Launch) : Nat := l.word 4 + bitsOf (l.word 5) 0 16 * 2 ^ 64

/-- The block of a thread (R271, R338). -/
def Launch.blockOfThread (l : Launch) (tid : W32) : Nat := (tid.toNat + 2 ^ 32 - l.threadBase) % 2 ^ 32 / (32 * max 1 l.gpb)

/-! ### Fault batches (R282, R328) -/

/-- Open a batch for missing pages of a context, with the group that is still to run ahead. -/
def State.openBatch (s : State) (asid : Nat) (pages : List Nat) (ahead : Option Group) : Nat × State :=
  (s.batchNext, { s with batches := s.batches ++ [{ id := s.batchNext, asid := asid, pages := pages, ahead := ahead }]
                         batchNext := s.batchNext + 1 })

/-- Pages of a batch without a valid entry are reported (R328). -/
def State.reportInvalid (s : State) (asid id : Nat) (pages : List Nat) : State :=
  let inv := pages.filter (fun p => s.translate asid (p * 65536) == .notValid)
  let pg (i : Nat) : W64 := w64 (inv.getD i 0)
  if inv.isEmpty then s
  else s.imprecise asid 0x4C [w64 (id + inv.length * 2 ^ 32), pg 0, pg 1, pg 2, pg 3, pg 4, pg 5] 0

/-- Open a batch for pages that an engine, or a fetch of a clause or of a record, misses (R209, R322). -/
def State.newBatch (s : State) (asid : Nat) (pages : List Nat) : Nat × State :=
  let (b, s1) := s.openBatch asid pages none
  (b, s1.reportInvalid asid b pages)

/-- The pages are in some batch of the context already, or a batch is opened for them. -/
def State.wantPages (s : State) (asid : Nat) (pages : List Nat) : State :=
  if s.batches.any (fun b => b.asid == asid && pages.all b.pages.contains) then s else (s.newBatch asid pages).2

/-! ### Work queues (R335) -/

def State.queue (s : State) (q : Nat) : WorkQueue := s.queues.get WorkQueue.none q
def State.setQueue (s : State) (q : Nat) (x : WorkQueue) : State := { s with queues := s.queues.put WorkQueue.none q x }

/-- A launch has blocks that are still to start. -/
def Launch.unstarted (l : Launch) : Bool := !l.completed && (!l.accepted || decide (l.nextBlock < l.nblocks))

/-- Launches of a queue that are not complete, in queue order. -/
def State.launchesOf (s : State) (q : Nat) : List Launch := s.launches.filter (fun l => l.queue == q)

/-- Under WAITPREV a launch waits for every earlier launch of its queue to complete (R335, R336). -/
def State.waitsPrev (s : State) (l : Launch) : Bool :=
  bitOf (l.word 0) 9 && !((s.launchesOf l.queue).takeWhile (fun x => !(x.asid == l.asid && x.num == l.num))).isEmpty

/-- One turn of the queue state machine for a launch queue, as its launches and counts stand (R335). -/
def State.queueTurn (s : State) (q : Nat) : State :=
  let x := s.queue q
  let ls := s.launchesOf q
  let next : QueueState := match x.state with
    | .idle => if x.tail ≠ x.head then .active else .idle
    | .held => if ls.any s.waitsPrev then .held else .active
    | .active => if ls.any s.waitsPrev then .held
                 else if x.tail = x.head ∧ !(ls.any Launch.unstarted) then .idle else .active
    | y => y
  if x.task || next == x.state then s else s.setQueue q { x with state := next }

/-- The state machine comes to rest. -/
def State.settleQueue (s : State) (q : Nat) : State := ((s.queueTurn q).queueTurn q).queueTurn q

/-! ### Completion -/

/-- Store bytes at an address of a context as the device's own store with release at system scope: remote bytes leave at
once; a page that does not translate is asked for, and the answer says that the store waits; one with a format error is
reported and takes nothing (R321). -/
def State.ctxStore (s : State) (asid va : Nat) (bs : List Byte) : Bool × State :=
  match s.translate asid va with
  | .leaf e lvl addr =>
    if pteFt e then
      let s1 := s.seen asid va
      let s2 := if pteD e then s1 else s1.dirtied addr
      (true, (s2.wcbStore 0xFFFF asid (pteEp e) (leafPa e lvl va) 0 bs).drainWcb (fun x => x.core == 0xFFFF))
    else (true, s.vPoke asid va bs)
  | .format e lvl addr => (true, s.imprecise asid 0x45 [w64 lvl, w64 addr, e] (va / 65536 * 65536))
  | _ => if 0xFC ≤ va / 2 ^ 72 % 256 ∧ va / 2 ^ 72 % 256 ≤ 0xFE then (true, s) else (false, s.wantPages asid [va / 65536])

/-- The completion word (R339), a store with release at system scope: what the context's cores have buffered drains before it
(R161), and it waits for the context's sequenced writes (R304). The launch stays listed while its word waits for them or
for its page. -/
def State.complete (s : State) (l : Launch) : State :=
  let (ok, s1) :=
    if l.doneAddr = 0 then (true, s)
    else if s.seqLog.any (fun w => w.asid == l.asid) then (false, s)
    else (s.drainWcb (fun e => e.asid == l.asid)).ctxStore l.asid l.doneAddr (natBytes 8 (l.code + l.num * 2 ^ 32))
  let mine (x : Launch) : Bool := x.asid == l.asid && x.num == l.num
  if ok then
    let s2 := s1.trace 0 0 l.asid 7 l.num l.code
    ({ s2 with launches := s2.launches.filter (fun x => !mine x) }).settleQueue l.queue
  else { s1 with launches := updWhere mine (fun x => { x with completed := true, code := l.code }) s1.launches }

/-- Location of a host bus address (R368). -/
def hostLoc (h : Nat) : Nat := 0x2000000000000 + h % 2 ^ 48

def State.mailbox (s : State) (fn : Nat) : Mailbox := s.mbx.get Mailbox.idle fn

/-- The reply: status, detail and timestamp in bytes 128 to 143 of the block, DONE, and vector 0. DESIGN CHOICE, log 101. -/
def State.reply (s : State) (c : MbxCmd) (status detail : Nat) : State :=
  let s1 := s.poke (hostLoc (c.block + 128)) (natBytes 4 status ++ natBytes 4 detail ++ natBytes 8 s.now)
  { s1 with mbx := s1.mbx.put Mailbox.idle c.fn { s1.mailbox c.fn with req := none, done := true } }.emit (.msix 0)

/-- A context is gone (R369). -/
def State.dropCtx (s : State) (a : Nat) : State :=
  { s with ctxs := s.ctxs.put Ctx.off a Ctx.off, batches := s.batches.filter (fun b => b.asid != a) }

/-- A context that ends is gone, and its command answered, once no launch of it is left. -/
def State.endOver (s : State) (asid : Nat) : State :=
  match (s.ctx asid).state, (s.ctx asid).mbx with
  | .ending, some cmd => if s.launches.any (fun l => l.asid == asid) then s else (s.dropCtx asid).reply cmd 0 0
  | _, _ => s

/-- The completion words of a context that wait are tried again. -/
def State.completeWaiting (s : State) (asid : Nat) : State :=
  ((s.launches.filter (fun l => l.completed && l.asid == asid)).foldl (fun s l => s.complete l) s).endOver asid

/-- A group or record of a block exists, or a drain of one of its tables runs (R240, R339). -/
def State.blockBusy (s : State) (b : Block) : Bool :=
  let mine (num : Nat) (tids : List W32) : Bool :=
    num == b.num || (num == 0xFFFFFF && match s.launchOf b.asid b.launch with
      | some l => tids.any (fun t => l.blockOfThread t == b.num)
      | none => false)
  s.groups.any (fun g => g.asid == b.asid && g.launch == b.launch && !g.empty
      && mine g.block (g.live.map (fun L => (g.lane L).threadId)))
    || s.engOps.any (fun o => o.asid == b.asid && o.launch == b.launch && o.block == b.num && (match o.kind with
        | .drain _ => true
        | _ => false))
    || (s.records ++ s.departed).any (fun r => r.asid == b.asid && r.launch == b.launch && mine r.block
        ((below 4 (fun j => r.live.getLsbD j)).map (fun j => r.tids.getD j 0)))

/-- The tables of a block that ends are released: VALID becomes 0 in their headers (R240). -/
def State.releaseTables (s : State) (b : Block) : State :=
  b.htabs.foldl (fun s x =>
    let loc := spadLoc b.core (b.spadBase + x.2.off)
    if x.2.claimed && decide (x.2.off < b.spadSize) then s.poke loc [s.mem.get 0 loc &&& 0xBF] else s) s

/-- End the blocks of a launch that have no group and no record, and the launch when all its blocks have ended. -/
def State.endBlocks (s : State) (asid launch : Nat) : State :=
  let done := s.blocks.filter (fun b => b.asid == asid && b.launch == launch && !b.saved && !s.blockBusy b)
  if done.isEmpty then s
  else
    let s0 := done.foldl State.releaseTables s
    let s1 := { s0 with
      blocks := s.blocks.filter (fun b => !(done.any (fun d => b.is d.asid d.launch d.num)))
      launches := updWhere (fun l => l.asid == asid && l.num == launch)
        (fun l => { l with blocksEnded := l.blocksEnded + done.length }) s.launches }
    match s1.launchOf asid launch with
    | some l => if l.nblocks ≤ l.blocksEnded then s1.complete l else s1
    | none => s1

/-- Virtual time of a context after a group leaves that held an issue slot for `cyc` core cycles (R344). DEDUCED, log 85. -/
def State.addVt (s : State) (asid cyc : Nat) : State :=
  let c := s.ctx asid
  s.setCtx asid { c with vt := c.vt + (if c.share = 0 then 0 else cyc * 65536 / c.share) }

/-- Bound tiles of a group that stay for its parked records (R26): those whose handle some record carries. A slot that still
waits for its reload holds nothing to keep (R401). -/
def State.keepTiles (s : State) (g : Group) : List KeptTile :=
  (below 16 (fun t => g.handles.get noMeeting t != noMeeting && !g.reload.getLsbD t)).filterMap (fun t =>
    let h := g.handles.get noMeeting t
    if s.records.any (fun r => r.core == g.core && r.asid == g.asid && r.handles.any (fun x => x.2 == h)) then
      some { core := g.core, asid := g.asid, handle := h, tile := g.tbase + t }
    else none)

/-- Add to a context's telemetry entry of the segment that holds a PC, on a core (R347): records written, records
forwarded, busy and idle core cycles. DEDUCED, log 84. -/
def State.telemetry (s : State) (core asid : Nat) (pc : W32) (parks fwd busy idle : Nat) : State :=
  let c := s.ctx asid
  if c.telemBase = 0 then s
  else match c.segs.findIdx? (fun x => x.start.toNat ≤ pc.toNat && pc.toNat < x.stop.toNat) with
    | none => s
    | some i =>
      let a := c.telemBase.toNat + 32 * (256 * i + core)
      let old := s.vPeekN asid a 32
      let new := (bitsOf old 0 64 + busy) % 2 ^ 64 + (bitsOf old 64 64 + idle) % 2 ^ 64 * 2 ^ 64
        + min (2 ^ 32 - 1) (bitsOf old 128 32 + parks) * 2 ^ 128 + min (2 ^ 32 - 1) (bitsOf old 160 32 + fwd) * 2 ^ 160
        + s.now % 2 ^ 64 * 2 ^ 192
      s.vPoke asid a (natBytes 32 new)

/-- The issuing group leaves its core when it has no LIVE lane: its slots and tokens are released, and its blocks may
end (R13, R20, R26, R204, R344, R347). `pc` is where its segment ended. -/
def State.leave (s : State) (pc : W32) : State :=
  if s.g.empty && s.g.gid != 0 then
    let g := s.g
    let held := s.coreCycles (dieOf g.core) g.residentSince s.now
    ((({ s with kept := s.kept ++ s.keepTiles g, g := Group.off }).addVt g.asid held).telemetry g.core g.asid pc 0 0
      g.issued (held - g.issued)).endBlocks g.asid g.launch
  else s

/-! ### Writing records -/

/-- Place a record: pool units, or an emergency record of its core where `spill` allows one (R265 to R267).
DEDUCED, log 51. -/
def State.placeRec (s : State) (r : Rec) (spill : Bool) : Option RecPlace :=
  match s.poolFind r.asid r.units with
  | some u => some (.pool u)
  | none => if spill && s.emergencyUsed r.core < 8 then some (.emergency r.core) else none

/-- Write one record: it takes its place, a fresh RID and becomes durable (R265). -/
def State.addRec (s : State) (r : Rec) (p : RecPlace) : State :=
  let r' := { r with place := p, durable := true, rid := s.endpoint * 2 ^ 54 + s.ridNext }
  ({ s with records := s.records ++ [r'], ridNext := s.ridNext + 1 }).trace (dieOf r.core) r.core r.asid 0 r'.rid
    (r.wkind + r.kind * 2 ^ 32)

/-- The atomics and barrier operations that the lanes of a quad have sent to another device go with the quad's record, so
that their word, when it issues again, finds its answer (R154, R281); those of the group go with the first record.
DEDUCED, log 43. -/
def State.carryAsks (s : State) (q rid : Nat) : State :=
  let mine (w : RemoteWait) : Bool := w.gid == s.g.gid && w.req.op != .read && (w.tag == 32 || w.tag / 4 == q)
  { s with remotes := updWhere mine (fun w => { w with gid := 0, rid := rid, tag := 2 ^ 60 + (if w.tag = 32 then 32 else w.tag % 4) }) s.remotes }

/-- A group that resumes from records takes back what they carry. -/
def State.takeAsks (s : State) (gid : Nat) (recs : List Rec) : State :=
  let back (w : RemoteWait) : RemoteWait :=
    match (if w.rid = 0 then none else recs.findIdx? (fun r => r.rid == w.rid)) with
    | some k => { w with gid := gid, rid := 0, tag := if w.tag = 2 ^ 60 + 32 then 32 else 4 * k + (w.tag - 2 ^ 60) }
    | none => w
  { s with remotes := s.remotes.map back }

/-- The lanes of a quad leave the core. -/
def Group.dropQuad (g : Group) (q : Nat) : Group :=
  g.mapLanes (quadLanes q) (fun _ _ => Lane.off)

/-- Register n of a lane as a record is to hold it: a register at or above B that its backing slot holds is copied from
there (R17, R263). DEDUCED, log 26. -/
def State.recordReg (s : State) (L n : Nat) : W32 :=
  let x := s.g.lane L
  if n < s.g.bound || !x.inSlot.get false n then x.vr n
  else
    let va := s.privAddr x.threadId (s.cx.privSize + 4 * (n - s.g.bound))
    match s.translate s.g.asid va with
    | .leaf e lvl _ => if pteFt e then x.vr n else w32 (s.peek (leafPa e lvl va) 4)
    | _ => x.vr n

/-- A record as it is when it is written: its time, and the registers that come from backing slots (R261, R263). -/
def State.atWrite (s : State) (q : Nat) (r : Rec) : Rec :=
  let keys := (List.range r.nlive).flatMap (fun n => (below 4 (fun j => r.live.getLsbD j || r.helper.getLsbD j)).map (fun j => (n, j)))
  { r with tstamp := s.now
           regs := (keys.filter (fun x => s.g.bound ≤ x.1)).foldl
             (fun m x => m.put 0 (4 * x.1 + x.2) (s.recordReg (4 * q + x.2) x.1)) r.regs }

/-- Write the records of quads of the issuing group, as long as the pool gives units; answers those left. -/
def State.writeRecs (s : State) (spill : Bool) : List (Nat × Rec) → State × List (Nat × Rec)
  | [] => (s, [])
  | (q, r) :: rs =>
    match s.placeRec r spill with
    | some p =>
      let s1 := (s.addRec (s.atWrite q r) p).carryAsks q (s.endpoint * 2 ^ 54 + s.ridNext)
      ({ s1 with g := s1.g.dropQuad q }).writeRecs spill rs
    | none => (s, (q, r) :: rs)

/-- Entries of segment-ending words at which no lane is held any more are dropped. -/
def Group.trimHeld (g : Group) : Group :=
  { g with held := g.held.filter (fun h => (List.range 32).any (fun L =>
      h.mask.getLsbD L && (g.lane L).isLive && (g.lane L).hold = .segEnd && (g.lane L).pc == h.pc)) }

/-- A yield request reaches the group now: its yield limit starts, and a group that is parking-stalled is to answer by the
full spill (R42, R266, R277). -/
def Group.reached (g : Group) (now : Nat) : Group :=
  { g with yieldAt := some (g.yieldAt.getD now), yieldReq := false
           parkStall := g.parkStall.map (fun (p : ParkStall) => { p with asked := true }) }

/-- Park quads of the issuing group with these records (R260): those the pool has room for leave, and the others make
the group parking-stalled at the resume point of the parking word (R266). A full spill waits until there is room for all
of its records (R267). Records of an earlier word of the group that still wait go on waiting. DEDUCED, log 130. -/
def State.park (s : State) (rs : List (Nat × Rec)) (spill : Bool) (pc : W32) (wix : Nat) : State :=
  let (s1, rest) := match s.writeRecs spill rs with
    | (t, l) => if spill && !l.isEmpty then (s, rs) else (t, l)
  let s2 := (if rest.length < rs.length then s1.telemetry s.g.core s.g.asid pc (rs.length - rest.length) 0 0 0 else s1).settle
  let before (p : ParkStall) : List (Nat × Rec) := p.recs.filter (fun x => !(rs.any (fun y => y.1 == x.1)))
  let old := (s2.g.parkStall.map before).getD []
  let g := s2.g.trimHeld
  match old ++ rest with
  | [] => { s2 with g := { g with parkStall := none, stall := none } }.leave pc
  | wait =>
    let fresh : ParkStall := { since := s2.now, recs := wait, pc := pc, wix := wix, asked := false }
    let p : ParkStall := match s2.g.parkStall with
      | some p => if old.isEmpty then { fresh with since := p.since, asked := p.asked } else { p with recs := wait }
      | none => fresh
    let g1 : Group := { g with stall := some { kind := .parking, since := s2.now }, parkStall := some p }
    { s2 with g := if g.yieldReq then g1.reached s2.now else g1 }

/-- Park every quad of the issuing group under a plan (R164, R281, R282). -/
def State.parkAll (s : State) (p : ParkPlan) (spill : Bool) : State :=
  let c := s.cx
  let pid := w32 (c.parkNum + 1)
  let s1 := s.setCtx s.g.asid { c with parkNum := c.parkNum + 1 }
  let qs := below 8 (fun q => !(s1.g.quadLive q).isEmpty)
  let rs := qs.map (fun q => (q, s1.makeRec s1.g q p pid))
  let pc := match s1.g.run with
    | some r => r.pc
    | none => s1.g.lowestPc
  let wix := s1.g.parkWix
  let g1 := s1.g.mapLanes (below 32 s1.g.runs) (fun _ x => { x with mid := true })
  ({ s1 with g := { g1 with run := none, keep := none, resumeWix := wix } }).park rs spill pc wix

end Sys2Proof.Machine
end

