-- ==== Sys2Proof/Machine/Operands.lean ====
section
/-! DEFINITION. Operand forms: which registers a word reads and writes (R48, R49, R54, R55, R105), the value of a
source operand under its class and type (R51, R57, R75, R105), and the offsets of format M (R54). -/

namespace Sys2Proof.Machine

open Sys2Proof.Enc

/-- Registers a word reads and writes. -/
structure WordRegs where
  vr : List Nat
  vw : List Nat
  wr : List Nat
  ww : List Nat
deriving DecidableEq, Repr

def WordRegs.none : WordRegs := { vr := [], vw := [], wr := [], ww := [] }

def WordRegs.add (a b : WordRegs) : WordRegs :=
  { vr := a.vr ++ b.vr, vw := a.vw ++ b.vw, wr := a.wr ++ b.wr, ww := a.ww ++ b.ww }

def regRange (n k : Nat) : List Nat := (List.range k).map (fun i => n + i)

/-- Registers a source field reads (R48). -/
def srcRegs (ty : Ty) (k : SrcKind) (s : Src) : WordRegs :=
  match k, s with
  | .val wd _ _ _ _ _, .v n => { WordRegs.none with vr := regRange n.toNat (wd.regs ty) }
  | .val wd _ _ _ _ _, .w n => { WordRegs.none with wr := regRange n.toNat (wd.regs ty) }
  | _, _ => WordRegs.none

/-- Registers a field of formats M and E, or DST, names: read or written. -/
def fieldRegs (ty : Ty) (write : Bool) (k : FieldKind) (f : BitVec 8) : WordRegs :=
  let n := f.toNat
  let v (c : Nat) : WordRegs := if write then { WordRegs.none with vw := regRange n c } else { WordRegs.none with vr := regRange n c }
  let w (c : Nat) : WordRegs := if write then { WordRegs.none with ww := regRange n c } else { WordRegs.none with wr := regRange n c }
  match k with
  | .v wd => v (wd.regs ty)
  | .w wd => w (wd.regs ty)
  | .vBlock c => v c
  | .wBlock c => w c
  | _ => WordRegs.none

/-- Bits of an integer, raw or floating type. -/
def tyBits : Ty → Nat
  | .s8 | .n8 | .e4m3 | .e5m2 | .e3m2 | .e2m3 => 8
  | .s16 | .n16 | .bf16 | .f16 => 16
  | .s64 | .n64 => 64
  | _ => 32

/-- Registers an operand of a type takes (R105). -/
def tyRegs (t : Ty) : Nat := if t.is64 then 2 else 1

/-- Registers of a word whose destination is also a source: BRC (R131), PKCVT to a narrow type (R122), an ATOM or ATOMW
under .cas (R152); RET reads v31 (R132); CALL and CALLX write it. -/
def extraRegs (opc : Nat) (f : Fields) : WordRegs :=
  match f with
  | .a x => if opc = 0x06B ∧ tyBits x.ty = 8 then { WordRegs.none with vr := [x.dst.toNat] } else WordRegs.none
  | .j x => if opc = 0x0B2 then { WordRegs.none with vr := [x.dst.toNat] }
            else if opc = 0x0B4 then { WordRegs.none with vw := [31] } else WordRegs.none
  | .m x =>
    let k := if x.ty.is64 then 2 else 1
    if x.mod.toNat % 8 = 7 ∧ opc = 0x0C8 then { WordRegs.none with vr := regRange x.dst.toNat k }
    else if x.mod.toNat % 8 = 7 ∧ opc = 0x0C9 then { WordRegs.none with wr := regRange x.dst.toNat k }
    else WordRegs.none
  | .e _ => if opc = 0x0B6 then { WordRegs.none with vr := [31] }
            else if opc = 0x0B5 then { WordRegs.none with vw := [31] } else WordRegs.none
  | .w _ => WordRegs.none

/-- Registers of the fields of a word, from its row. -/
def rowRegs (r : Fmt) (f : Fields) : WordRegs :=
  match r, f with
  | .a s _, .a x =>
    let cty := cTyOf x.c
    let aTy := match s.c with | .srcTy _ => cty | _ => x.ty
    (fieldRegs x.ty true s.dst x.dst).add ((srcRegs aTy s.a x.a).add ((srcRegs x.ty s.b x.b).add (srcRegs x.ty s.c x.c)))
  | .w _, .w x => { WordRegs.none with vw := [x.dst.toNat] }
  | .j d _ _, .j x => fieldRegs .b32 true d x.dst
  | .m s _, .m x =>
    let m := x.mod.toNat
    let off := srcRegs .b32 offKind x.off
    (fieldRegs x.ty true (s.dst m) x.dst).add ((fieldRegs x.ty false s.a x.a).add ((fieldRegs x.ty false (s.b m) x.b).add off))
  | .e s _, .e x =>
    let m := x.mod.toNat
    let i := x.imm.toNat
    (fieldRegs .b32 true (s.dst m i) x.dst).add ((fieldRegs .b32 false (s.a m i) x.a).add
      ((fieldRegs .b32 false (s.b m i) x.b).add (fieldRegs .b32 false (s.c m i) x.c)))
  | _, _ => WordRegs.none

/-- MOVW reads the register its sum names, not the one in field A (R112). -/
def dropA : Fields → Fields
  | .a x => .a { x with a := .imm 0 }
  | f => f

/-- Registers a word reads and writes; none for hints (R63) and device events. -/
def wordRegs (i : Instr) : WordRegs :=
  match view i with
  | .word opc f =>
    match rowFor opc f.mod with
    | some r => (rowRegs r.fmt (if opc = 0x023 then dropA f else f)).add (extraRegs opc f)
    | none => WordRegs.none
  | _ => WordRegs.none

/-! ### Source values -/

/-- The raw value of a short immediate of an integer type, at 64 bits (R51). -/
def immInt (t : Ty) (x : BitVec 8) : Nat := if t.isSigned then (x.signExtend 64).toNat else x.toNat

/-- Literal i at k registers' width (R57). -/
def litVal (lits : List W64) (i k : Nat) : Nat :=
  let lo := (lits.getD i 0).toNat
  if k = 1 then lo % 2 ^ 32 else if k = 2 then lo else lo + (lits.getD (i + 1) 0).toNat % 2 ^ 16 * 2 ^ 64

/-- The literals of the running clause. -/
def Group.lits (g : Group) : List W64 :=
  match g.run with
  | some r => r.lits
  | none => []

/-- A source of k registers in a lane, an immediate read under an integer or raw type (R51, R57, R105). -/
def Group.srcInt (g : Group) (t : Ty) (k : Nat) (s : Src) (L : Nat) : Nat :=
  match s with
  | .v n => (g.lane L).vrN n.toNat k
  | .w n => g.wrN n.toNat k
  | .imm x => immInt t x % 2 ^ (32 * k)
  | .lit i => litVal g.lits i.toNat k

/-- The offset of a format M word in a lane (R54); `s` is the access size an immediate is scaled by. -/
def Group.offset (g : Group) (size : Nat) (o : Src) (L : Nat) : Int :=
  match o with
  | .v n => ((g.lane L).vr n.toNat).toInt
  | .w n => (g.wr n.toNat).toInt
  | .imm x => x.toInt * size
  | .lit i => (g.lits.getD i.toNat 0).toInt

/-- Bits 31:16 of the third register of an address triple (R18). -/
def tripleBad (x : Nat) : Bool := 2 ^ 80 ≤ x

/-- Access size of format M (R54). -/
def accSize (t : Ty) : Nat := tyBits t / 8

end Sys2Proof.Machine
end

