-- ==== Sys2Proof/Machine/Flags.lean ====
section
/-! DEFINITION. The computations of the flags, which are the predicates of a lane: predicate operands (R105), the
conditions of ICMP, FCMP and ACMP (R113, R123), the combination with a predicate (R123), and the integer ranges and
clamps of the types (R80). -/

namespace Sys2Proof.Machine

/-- A predicate field: number in bits 2:0, negation in bit 3 (R105). -/
def Lane.predField (x : Lane) (s : Src) : Bool := xor (x.pred (s.field.toNat % 8)) (s.field.getLsbD 3)

/-- Conditions eq, ne, lt, le, gt, ge of a comparison (R113, R123). -/
def condOrd (md : Nat) (o : Ordering) : Bool :=
  match md with
  | 0 => o == .eq
  | 1 => o != .eq
  | 2 => o == .lt
  | 3 => o != .gt
  | 4 => o == .gt
  | _ => o != .lt

/-- Conditions of FCMP (R123). -/
def condFloat (md : Nat) (x y : FNum) : Bool :=
  let un := x.isNan || y.isNan
  if md = 6 then !un
  else if md = 7 then un
  else if un then md == 1
  else condOrd md (x.cmp y)

/-- Field C of ICMP and FCMP combines a comparison with a predicate (R123). -/
def Lane.combine (x : Lane) (c : Src) (cmp : Bool) : Bool :=
  let f := c.field
  let q := xor (x.pred (f.toNat % 8)) (f.getLsbD 5)
  match (f.extractLsb' 3 2).toNat with
  | 0 => cmp
  | 1 => cmp && q
  | 2 => cmp || q
  | _ => xor cmp q

/-! ### Integer types (R80) -/

/-- The value of raw bits under an integer or raw type. -/
def tyVal (t : Ty) (x : Nat) : Int := if t.isSigned then sextN x (tyBits t) else zextN x (tyBits t)

def tyMin (t : Ty) : Int := if t.isSigned then -(2 ^ (tyBits t - 1) : Nat) else 0
def tyMax (t : Ty) : Int := if t.isSigned then (2 ^ (tyBits t - 1) : Nat) - 1 else (2 ^ tyBits t : Nat) - 1

/-- The exact result of an integer type at w bits: modulo 2^w, or clamped to the type first (R80). -/
def tyFit (t : Ty) (sat : Bool) (w : Nat) (x : Int) : Nat :=
  wrapTo w (if sat then clampTo (tyMin t) (tyMax t) x else x)

/-- The value of an integer operand under the word's type (R105). -/
def Group.srcVal (g : Group) (t : Ty) (s : Src) (L : Nat) : Int := tyVal t (g.srcInt t (tyRegs t) s L)

/-- A 32-bit operand as a raw number. -/
def Group.src32 (g : Group) (t : Ty) (s : Src) (L : Nat) : Nat := g.srcInt t 1 s L % 2 ^ 32

/-- The encoding of a floating-point operand in a lane, an immediate converted exactly (R51, R75). -/
def Group.srcEnc (g : Group) (t : Ty) (s : Src) (L : Nat) : Nat :=
  match s with
  | .imm x => roundF (fmtOf t) .rne 0 false (FNum.ofInt x.toInt)
  | s => g.src32 t s L % 2 ^ tyBits t

/-- The value of a floating-point operand. -/
def Group.srcNum (g : Group) (t : Ty) (s : Src) (L : Nat) : FNum := decodeF (fmtOf t) (g.srcEnc t s L)

end Sys2Proof.Machine
end

