-- ==== Sys2Proof/Machine/Ops.lean ====
section
/-! DEFINITION. The shared operations of instruction words: taking a trap, to the user-level handler or to the
supervisor (R371 to R376), returning from one (R258), the page-fault procedure (R282), the wait for operands (R20,
R165), and the run of one word (R14, R42, R46). -/

namespace Sys2Proof.Machine

/-- A precise trap: cause code and detail (R372), and the lowest trapping lane, none for a group trap. -/
structure Trap where
  cause : Nat
  detail : Nat
  lane : Option Nat
deriving DecidableEq, Repr

/-! ### Retiring a word -/

/-- A word of the issuing group retires (R344, R348); the answers it waited for are used up. -/
def State.retire (s : State) : State :=
  ({ s with g := { s.g with issued := s.g.issued + 1, stall := none }
            remotes := s.remotes.filter (fun r => r.gid != s.g.gid) }).progress s.g.asid

/-- The end of a clause: the lanes that ran it and took no transfer continue at the next one (R42, R129), and the
keep latch empties (R59). -/
def Group.endClause (g : Group) (r : Run) : Group :=
  { g.mapLanes (below 32 g.runs) (fun _ x => { x with pc := r.next }) with run := none, keep := none }

/-- The next word of the clause, or its end (R42). -/
def Group.nextWord (g : Group) : Group :=
  match g.run with
  | none => g
  | some r => if r.wix + 1 < r.words.length then { g with run := some { r with wix := r.wix + 1 } } else g.endClause r

/-- A word that takes no control transfer is done. -/
def State.advance (s : State) : State := ({ s with g := s.g.nextWord }).retire

/-- A word that has set the PCs of its lanes is done, and with it the clause. -/
def State.endTransfer (s : State) : State := ({ s with g := { s.g with run := none, keep := none } }).retire

/-! ### Switching a context out: its first steps (R382) -/

/-- A yield request to the groups of a context (R277): a group that is stalled on a token or tile, or
parking-stalled, is reached at once (R42). -/
def Group.askYield (g : Group) (now : Nat) : Group :=
  if g.yieldAt.isSome then (if g.parkStall.isSome then g.reached now else g)
  else match g.stall with
    | some st => if st.kind = .result ∨ st.kind = .batch then { g with yieldReq := true } else g.reached now
    | none => { g with yieldReq := true }

/-- Step 1 of R382 and the request of step 2: queues but those that are OFF pause, and every resident group of the context is asked to
yield. -/
def State.beginSwitch (s : State) (asid : Nat) : State :=
  let c := s.ctx asid
  if c.state ≠ .running then s
  else
    let s1 := s.setCtx asid { c with state := .switching }
    let pause (q : WorkQueue) : WorkQueue :=
      if q.asid == asid && q.state != .off && q.state != .paused then
        { q with saved := q.state, state := .paused } else q
    let s2 := { s1 with queues := s1.queues.map (fun (x : Nat × WorkQueue) => (x.1, pause x.2)) }
    s2.mapGroups (fun g => if g.asid = asid ∧ g.gid ≠ 0 then g.askYield s.now else g)

/-! ### Taking a trap -/

/-- The handler lanes of a trap at a PC (R374): LIVE lanes there that are not held, and the lanes held at the trapping
point of a record-pool-exhausted or convergence trap. -/
def Group.handlerLane (g : Group) (cause : Nat) (pc : W32) (L : Nat) : Bool :=
  let x := g.lane L
  x.isLive && x.pc == pc
    && (x.hold = .none || (cause == 0x2A && x.hold = .segEnd) || cause == 0x05)

/-- The clause at a PC as its header in memory says: 64 bits, 0 where it does not translate. -/
def State.headerAt (s : State) (pc : W32) : Nat :=
  bytesNat (s.codePeek s.g.core s.g.asid (s.cx.codeBase.toNat + pc.toNat) 8)

/-- Instruction words of the clause at a PC and the address of the next clause: of the clause that runs, of one that holds
lanes at its last word, or as the header in memory says (R39, R258). -/
def State.clauseShape (s : State) (pc : W32) : Nat × W32 :=
  let h := s.headerAt pc
  let peeked : Nat × W32 := (bitsOf h 0 4 + 1 - bitsOf h 10 3, pc + BitVec.ofNat 32 (8 * (bitsOf h 0 4 + 2)))
  match s.g.run with
  | some r => if r.pc = pc then (r.words.length, r.next) else peeked
  | none => match s.g.held.find? (fun x => x.pc == pc) with
    | some x => (x.wix + 1, x.next)
    | none => peeked

/-- Entry of the user-level trap handler (R374). -/
def State.enterHandler (s : State) (t : Trap) (pc : W32) (wix : Nat) : State :=
  let g := s.g
  let save (x : Lane) : Lane :=
    { x with saved := some { pc := x.pc, mr := x.mr, hold := x.hold }, pc := s.cx.trapPc, mr := noMeeting, hold := .none
             mid := false }
  let regs : TrapRegs :=
    { cause := w32 t.cause, detail := w32 t.detail, pc := pc, wix := w32 wix
      lane := match t.lane with | some L => w32 L | none => 0xFFFFFFFF
      words := (s.clauseShape pc).1, after := (s.clauseShape pc).2 }
  { s with
    remotes := s.remotes.filter (fun r => r.gid != g.gid)
    g := { g.mapLanes (below 32 (g.handlerLane t.cause pc)) (fun _ x => save x) with
      trap := some regs, run := none, keep := none, stall := none, parkStall := none }.trimHeld }

/-- The trapping group as its KIND 4 records are to show it: the lanes at the trapping point stopped inside the clause
there; the state a user-level handler saved is not kept (R376). -/
def Group.stopAt (g : Group) (cause : Nat) (pc : W32) (wix : Nat) : Group :=
  let g1 := g.mapLanes (below 32 (fun L => (g.lane L).isLive)) (fun L x =>
    { x with saved := none, hold := if g.handlerLane cause pc L then .none else x.hold
             mid := if g.handlerLane cause pc L then true else x.mid })
  { g1 with trap := none, run := none, keep := none, stall := none, parkStall := none, resumeWix := wix }

/-- A trap that goes to the supervisor (R376): a frame and a class 2 fault record, the group's quads written as KIND 4
records with the trapping resume point, and the whole context switched out. DEDUCED, log 38. -/
def State.supervisorTrap (s : State) (t : Trap) (pc : W32) (wix : Nat) : State :=
  let g := s.g
  let c := s.cx
  let nq := (below 8 (fun q => !(g.quadLive q).isEmpty)).length
  let rid := s.endpoint * 2 ^ 54 + s.ridNext
  let fr : TrapFrame :=
    { rid0 := rid, nrec := nq, pc := pc, wix := wix, cause := t.cause, detail := w32 t.detail
      origCause := match g.trap with | some r => r.cause.toNat | none => 0
      origPc := match g.trap with | some r => r.pc | none => 0
      origWix := match g.trap with | some r => r.wix.toNat | none => 0
      nested := g.trap.isSome, words := (s.clauseShape pc).1, after := (s.clauseShape pc).2 }
  let f : FaultRec :=
    { FaultRec.plain s g.asid t.cause 2 [w64 t.detail] with
      launch := w32 g.launch, pc := pc, wix := wix, lane := t.lane.getD 0xFF, core := g.core
      thread := match t.lane with | some L => (g.lane L).threadId | none => 0xFFFFFFFF
      rid := rid }
  let s1 := (s.setCtx g.asid { c with frames := c.frames ++ [fr] }).ctxFault f
  let s2 := { s1 with g := s1.g.stopAt t.cause pc wix }
  let first := s2.ridNext
  let s3 := s2.parkAll (ParkPlan.now 4 256 none) true
  let mark (r : Rec) : Rec :=
    if rid ≤ r.rid && r.rid < s3.endpoint * 2 ^ 54 + first + nq && r.asid == g.asid then
      { r with frame := some c.frames.length, readyAt := none, due := false } else r
  let hold (p : ParkStall) : ParkStall := { p with recs := p.recs.map (fun x => (x.1, { x.2 with frame := some c.frames.length })) }
  ({ s3 with records := s3.records.map mark, g := { s3.g with parkStall := s3.g.parkStall.map hold } }).beginSwitch g.asid

/-- The route of a trap is the supervisor's (R371, R257). DEDUCED, log 108. -/
def State.toSupervisor (s : State) (cause : Nat) : Bool :=
  cause == 0x2D || (cause == 0x2C && s.cx.bkptSup) || s.cx.trapPc == 0xFFFFFFFF || s.g.trap.isSome

/-- Take a precise trap at a resume point (R371, R374, R376). -/
def State.takeTrapAt (s : State) (t : Trap) (pc : W32) (wix : Nat) : State :=
  let s1 := if s.toSupervisor t.cause then s.supervisorTrap t pc wix else s.enterHandler t pc wix
  s1.trace (dieOf s.g.core) s.g.core s.g.asid 5 s.cx.fqSeq t.cause

/-- Take a precise trap at the word being run. -/
def State.takeTrap (s : State) (t : Trap) : State :=
  match s.g.run with
  | some r => s.takeTrapAt t r.pc r.wix
  | none => s

/-! ### The return (R258, R374) -/

/-- Return from the user-level trap handler: to the trapping word, or past it. DEDUCED, log 37. -/
def State.trapReturn (s : State) (skip : Bool) : State :=
  match s.g.trap with
  | none => s
  | some t =>
    let last := t.words ≤ t.wix.toNat + 1
    let back (x : Lane) : Lane :=
      match x.saved with
      | none => x
      | some v =>
        if skip then
          { x with saved := none, mr := v.mr, hold := .none, applied := false
                   pc := if last then t.after else t.pc, mid := !last }
        else { x with saved := none, pc := v.pc, mr := v.mr, hold := v.hold, mid := decide (v.hold = .none) }
    { s with g := { s.g.mapLanes (below 32 (fun L => (s.g.lane L).saved.isSome)) (fun _ x => back x) with
        trap := none, run := none, keep := none
        resumeWix := if skip then t.wix.toNat + 1 else t.wix.toNat } }

/-! ### The page-fault procedure (R282, R375) -/

/-- A translation fault of the issuing group: its pages form a batch, and the group parks with KIND 2 keyed to it, or
waits for it inside a trap handler. At a word it first runs ahead, which the batch's checkpoint stands for; a code fetch
does not (R322). DEDUCED, log 39. -/
def State.pageFault (s : State) (pages : List Nat) : State :=
  let (b, s1) := match s.g.run with
    | some _ => s.openBatch s.g.asid (pages.take 32) (some s.g)
    | none => s.newBatch s.g.asid pages
  if s.g.trap.isSome then
    { s1 with g := { s1.g with stall := some { kind := .batch, since := s1.now }, waitBatch := some b } }
  else
    s1.parkAll { ParkPlan.now 2 256 none with wkind := 4, wkey0 := w64 b, fired := false } false

/-! ### The end of a word -/

/-- How a word ends. -/
inductive Res where
  /-- its effects are taken; the next word follows -/
  | done (s : State)
  /-- it has set the PCs of its lanes; its clause is over -/
  | ended (s : State)
  /-- a precise trap, with the state it leaves (applied bits, R154) -/
  | trap (s : State) (t : Trap)
  /-- it waits, and issues again -/
  | stall (s : State) (k : StallKind)
  /-- a translation fault of these pages -/
  | page (s : State) (pages : List Nat)
  /-- its clause is over and its quads are dealt with -/
  | stop (s : State)

/-- A failing check of a lane, or of the group. -/
def failRes (s : State) (lane : Option Nat) (f : Fail) : Res :=
  match f with
  | .trap c d => .trap s { cause := c, detail := d, lane := lane }
  | .page ps => .page s ps
  | .format d va e lvl addr =>
    .trap (s.impreciseGroup 0x45 [w64 lvl, w64 addr, e] (va / 65536 * 65536)) { cause := 0x0D, detail := d, lane := lane }

/-- Stall the issuing group, keeping the start of a stall of the same kind. A yield request that has not reached it reaches
it where the stall is on a token or a tile (R42, R277). -/
def State.stallOn (s : State) (k : StallKind) : State :=
  let since := match s.g.stall with
    | some st => if st.kind = k then st.since else s.now
    | none => s.now
  let g := { s.g with stall := some { kind := k, since := since } }
  { s with g := if s.g.yieldReq && (k == .token || k == .tile) then g.reached s.now else g }

def Res.finish : Res → State
  | .done s => s.advance
  | .ended s => s.endTransfer
  | .trap s t => s.takeTrap t
  | .stall s k => s.stallOn k
  | .page s ps => s.pageFault ps
  | .stop s => s

/-! ### The wait for operands (R17, R20, R165, R380) -/

/-- A pending token among w registers a word reads or writes; AWAIT reads its token without waiting (R162). -/
def Group.tokenWait (g : Group) (opc : Nat) (r : WordRegs) : Bool :=
  (opc != 0x0E0 && r.wr.any (fun n => g.pend.get 0 n != 0)) || r.ww.any (fun n => g.pend.get 0 n != 0)

/-- The lowest active lane that reads a poisoned register, with the lowest such register (R380). -/
def Group.poisonRead (g : Group) (act : List Nat) (r : WordRegs) : Option (Nat × Nat) :=
  (act.filterMap (fun L => (r.vr.find? (fun n => (g.lane L).vPoison.get false n)).map (fun n => (L, n)))).head?

/-- The address of the backing slot of register n of a lane: private offset PRIV_SIZE + 4 (n − B) (R17, R33). -/
def State.slotAddr (s : State) (L n : Nat) : Nat :=
  s.privAddr (s.g.lane L).threadId (s.cx.privSize + 4 * (n - s.g.bound))

/-- The backing slots a word reaches in its active lanes (R17). -/
def State.backing (s : State) (act : List Nat) (r : WordRegs) : List (Nat × Nat × Bool) :=
  act.flatMap (fun L =>
    (r.vr.filter (fun n => s.g.bound ≤ n)).map (fun n => (L, s.slotAddr L n, false))
      ++ (r.vw.filter (fun n => s.g.bound ≤ n)).map (fun n => (L, s.slotAddr L n, true)))

/-- The checks of backing-store accesses, in lane order, and their effects on translations. -/
def State.checkBacking (s : State) (l : List (Nat × Nat × Bool)) : Except (Option Nat × Fail) State :=
  match l with
  | [] => .ok s
  | (L, va, wr) :: rest =>
    match permitAll (if wr then .write else .read) (s.withWalk s.g.asid [(va, 4)]) with
    | .error f => .error (some L, f)
    | .ok ps => match s.checkBacking rest with
      | .error e => .error e
      | .ok s' => .ok (s'.touchAll s.g.asid wr ps)

/-- The registers of a word are there: no pending token, no poisoned source, backing slots that translate. -/
def State.operandsReady (s : State) (opc : Nat) (r : WordRegs) (act : List Nat) : Except Res State :=
  if s.g.tokenWait opc r then .error (.stall s .token)
  else match s.g.poisonRead act r with
    | some (L, n) => .error (.trap s { cause := 0x0F, detail := 0x100 + n, lane := some L })
    | none => match s.checkBacking (s.backing act r) with
      | .error (L, f) => .error (failRes s L f)
      | .ok s' => .ok s'

/-- Opcode of a word. -/
def opcodeOf (i : Instr) : Nat :=
  match Enc.view i with
  | .word o _ => o
  | .hint n _ => 0x3C0 + n.toNat
  | .raw w => (w.extractLsb' 54 10).toNat
  | .event => 0

/-! ### The keep latch (R59) -/

/-- The v operand in field A, with its width: that of the source type where field C names one (R120). -/
def keepOperand (i : Instr) : Option (Nat × Nat) :=
  match Enc.view i with
  | .word opc f =>
    if !f.keep then none
    else match Enc.rowFor opc f.mod, f with
      | some r, .a x => match r.fmt, x.a with
        | .a sp _, .v n => match sp.a with
          | .val wd _ _ _ _ t => some (n.toNat, wd.regs (if t = .cTy then Enc.cTyOf x.c else x.ty))
          | _ => none
        | _, _ => none
      | some r, .m x => match r.fmt with
        | .m sp _ => match sp.a with
          | .v wd => some (x.a.toNat, wd.regs x.ty)
          | _ => none
        | _ => none
      | some r, .e x => match r.fmt with
        | .e sp _ => match sp.a x.mod.toNat x.imm.toNat with
          | .v wd => some (x.a.toNat, wd.regs .b32)
          | _ => none
        | _ => none
      | _, _ => none
  | _ => none

/-- Fill the latch from a word with K = 1 whose A is a v register. DEDUCED, log 30. -/
def Group.fillKeep (g : Group) (i : Instr) (act : List Nat) : Group :=
  match keepOperand i with
  | none => g
  | some (n, k) =>
    { g with keep := some { reg := n, width := k
                            vals := act.map (fun L => (L, (List.range k).map (fun j => (g.lane L).vr (n + j)))) } }

/-! ### The run of one word -/

/-- The backing slot of a register holds it. -/
def Group.slotHolds (g : Group) (L n : Nat) : Group :=
  g.mapLanes [L] (fun _ x => { x with inSlot := x.inSlot.put false n true })

/-- Copy a register of a LIVE or HELPER lane into its backing slot, where the slot may be written (R17, R263).
DEDUCED, log 26. -/
def State.saveSlot (s : State) (L n : Nat) : State :=
  if (s.g.lane L).status = .absent then s
  else match permitAll .write (s.withWalk s.g.asid [(s.slotAddr L n, 4)]) with
    | .error _ => s
    | .ok ps =>
      let s1 := (s.touchAll s.g.asid true ps).writePieces s.g.core s.g.asid s.g.slotSel.toNat [(s.g.lane L).threadId] ps
        (natBytes 4 ((s.g.lane L).vr n).toNat)
      { s1 with g := s1.g.slotHolds L n }

/-- The registers of some lanes that lie at or above B go to their backing slots. -/
def State.saveSlots (s : State) (ls ns : List Nat) : State :=
  (ls.flatMap (fun L => (ns.filter (fun n => s.g.bound ≤ n)).map (fun n => (L, n)))).foldl
    (fun s x => s.saveSlot x.1 x.2) s

/-- The slots of some lanes' registers at or above B, as the checks of a word find them (R17). -/
def State.slotPieces (s : State) (ls ns : List Nat) : List ((Nat × Nat) × List Piece) :=
  ls.flatMap (fun L => (ns.filter (fun n => s.g.bound ≤ n)).map (fun n =>
    ((L, n), match permitAll .write (s.withWalk s.g.asid [(s.slotAddr L n, 4)]) with
      | .ok ps => ps
      | .error _ => [])))

/-- Registers are copied into the slots that were found for them. -/
def State.saveTo (s : State) (l : List ((Nat × Nat) × List Piece)) : State :=
  l.foldl (fun s x =>
    if (s.g.lane x.1.1).status = .absent ∨ x.2.isEmpty then s
    else
      let s1 := s.writePieces s.g.core s.g.asid s.g.slotSel.toNat [(s.g.lane x.1.1).threadId] x.2
        (natBytes 4 ((s.g.lane x.1.1).vr x.1.2).toNat)
      { s1 with g := s1.g.slotHolds x.1.1 x.1.2 }) s

/-- The registers a word wrote go to their backing slots with its effects. -/
def Res.saved (r : Res) (gid : Nat) (l : List ((Nat × Nat) × List Piece)) : Res :=
  match r with
  | .done s => .done (s.saveTo l)
  | .ended s => .ended (s.saveTo l)
  | .stop s => .stop (if s.g.gid = gid then s.saveTo l else s)
  | r => r

/-- Run a word of the issuing group's clause: with no active lane it retires without effect (R46); otherwise it waits
for its operands (R165) and then takes its own checks and effects. DESIGN CHOICE, log 7. -/
def State.word (s : State) (i : Instr) (gd : Guard) (body : State → Res) : Host.Outcome State Fault Refusal :=
  .next (match s.g.run with
    | none => s
    | some _ =>
      let act := s.g.active gd
      if act.isEmpty then s.advance
      else match s.operandsReady (opcodeOf i) (wordRegs i) act with
        | .error r => r.finish
        | .ok s1 => ((body { s1 with g := s1.g.fillKeep i act }).saved s.g.gid (s.slotPieces act (wordRegs i).vw)).finish)

/-- A word that computes a value of `k` registers for DST in each executing lane, from the group as it stands before
any write (R104). -/
def State.alu (s : State) (i : Instr) (gd : Guard) (dst k : Nat) (f : Group → Nat → Nat) :
    Host.Outcome State Fault Refusal :=
  s.word i gd (fun s => .done { s with g := s.g.writeV (s.g.executing gd) dst k (f s.g) })

/-- A word that computes a predicate in each executing lane. -/
def State.aluP (s : State) (i : Instr) (gd : Guard) (dst : Nat) (f : Group → Nat → Bool) :
    Host.Outcome State Fault Refusal :=
  s.word i gd (fun s => .done { s with g := s.g.writeP (s.g.executing gd) dst (f s.g) })

end Sys2Proof.Machine
end

