-- ==== Sys2Proof/Machine/Integer.lean ====
section
/-! DEFINITION. Integer arithmetic (R106 to R109), logic, shifts and bit fields (R110, R111), selection and moves
(R112). -/

namespace Sys2Proof.Machine

/-! ### R106 -/

/-- A two-operand integer word: the exact result fitted to the type. -/
def State.int2 (s : State) (i : Instr) (f : FmtA) (op : Int → Int → Int) : Host.Outcome State Fault Refusal :=
  s.alu i f.guard f.dst.toNat (tyRegs f.ty) (fun g L =>
    tyFit f.ty f.sat (tyBits f.ty) (op (g.srcVal f.ty f.a L) (g.srcVal f.ty f.b L)))

/-- A one-operand integer word. -/
def State.int1 (s : State) (i : Instr) (f : FmtA) (op : Int → Int) : Host.Outcome State Fault Refusal :=
  s.alu i f.guard f.dst.toNat (tyRegs f.ty) (fun g L => tyFit f.ty f.sat (tyBits f.ty) (op (g.srcVal f.ty f.a L)))

/-- IADD (R106). -/
def execIadd (f : FmtA) (s : State) : Host.Outcome State Fault Refusal := s.int2 (.iadd f) f (· + ·)
/-- ISUB (R106). -/
def execIsub (f : FmtA) (s : State) : Host.Outcome State Fault Refusal := s.int2 (.isub f) f (· - ·)
/-- IMUL (R106). -/
def execImul (f : FmtA) (s : State) : Host.Outcome State Fault Refusal := s.int2 (.imul f) f (· * ·)
/-- IMULH: the high 32 bits of the 64-bit product (R106). -/
def execImulh (f : FmtA) (s : State) : Host.Outcome State Fault Refusal :=
  s.int2 (.imulh f) f (fun a b => a * b / (2 ^ 32 : Nat))
/-- IMAD (R106). -/
def execImad (f : FmtA) (s : State) : Host.Outcome State Fault Refusal :=
  s.alu (.imad f) f.guard f.dst.toNat 1 (fun g L =>
    tyFit f.ty f.sat 32 (g.srcVal f.ty f.a L * g.srcVal f.ty f.b L + g.srcVal f.ty f.c L))
/-- IMIN (R106). -/
def execImin (f : FmtA) (s : State) : Host.Outcome State Fault Refusal := s.int2 (.imin f) f (fun a b => if b < a then b else a)
/-- IMAX (R106). -/
def execImax (f : FmtA) (s : State) : Host.Outcome State Fault Refusal := s.int2 (.imax f) f (fun a b => if a < b then b else a)
/-- IABS (R106). -/
def execIabs (f : FmtA) (s : State) : Host.Outcome State Fault Refusal := s.int1 (.iabs f) f (fun a => (a.natAbs : Int))
/-- INEG (R106). -/
def execIneg (f : FmtA) (s : State) : Host.Outcome State Fault Refusal := s.int1 (.ineg f) f (fun a => -a)

/-- The 64-bit type of a 32-bit type's signedness. -/
def wideTy (t : Ty) : Ty := if t.isSigned then .s64 else .n64

/-- IMAD64: 32-bit factors, a 64-bit addend, a pair (R107). -/
def execImad64 (f : FmtA) (s : State) : Host.Outcome State Fault Refusal :=
  s.alu (.imad64 f) f.guard f.dst.toNat 2 (fun g L =>
    tyFit (wideTy f.ty) f.sat 64
      (g.srcVal f.ty f.a L * g.srcVal f.ty f.b L + tyVal (wideTy f.ty) (g.srcInt f.ty 2 f.c L)))

/-- The sum of four products of bytes (R108). -/
def dot4Sum (signed : Bool) (a b : Nat) : Int :=
  (List.range 4).foldl (fun acc j =>
    let x := bitsOf a (8 * j) 8
    let y := bitsOf b (8 * j) 8
    acc + (if signed then sextN x 8 * sextN y 8 else (x * y : Nat))) 0

/-- DOT4 (R108). -/
def execDot4 (f : FmtA) (s : State) : Host.Outcome State Fault Refusal :=
  let t32 : Ty := if f.ty.isSigned then .s32 else .n32
  s.alu (.dot4 f) f.guard f.dst.toNat 1 (fun g L =>
    tyFit t32 f.sat 32 (tyVal t32 (g.src32 f.ty f.c L) + dot4Sum f.ty.isSigned (g.src32 f.ty f.a L) (g.src32 f.ty f.b L)))

/-! ### R109 -/

/-- A word that writes a register and the carry predicate in each executing lane. -/
def State.carryOp (s : State) (i : Instr) (f : FmtA) (op : Int → Int → Int → Int) (cy : Int → Bool) :
    Host.Outcome State Fault Refusal :=
  s.word i f.guard (fun s =>
    let q := f.c.field.toNat % 8
    let r (L : Nat) : Int :=
      op (g_val s f.a L) (g_val s f.b L) (if (s.g.lane L).pred q then 1 else 0)
    .done { s with g := (s.g.mapLanes (s.g.executing f.guard)
      (fun L x => (x.vw f.dst.toNat (w32 (wrapTo 32 (r L)))).setPred q (cy (r L)))).touchKeep f.dst.toNat 1 })
where g_val (s : State) (x : Src) (L : Nat) : Int := s.g.srcVal .n32 x L

/-- IADDC (R109). -/
def execIaddc (f : FmtA) (s : State) : Host.Outcome State Fault Refusal :=
  s.carryOp (.iaddc f) f (fun a b q => a + b + q) (fun x => decide ((2 ^ 32 : Nat) ≤ x))
/-- ISUBB (R109). -/
def execIsubb (f : FmtA) (s : State) : Host.Outcome State Fault Refusal :=
  s.carryOp (.isubb f) f (fun a b q => a - b - q) (fun x => decide (x < 0))

/-! ### Logic and shifts (R110) -/

/-- A word over two 32-bit patterns. -/
def State.bits2 (s : State) (i : Instr) (f : FmtA) (op : W32 → W32 → W32) : Host.Outcome State Fault Refusal :=
  s.alu i f.guard f.dst.toNat 1 (fun g L => (op (w32 (g.src32 f.ty f.a L)) (w32 (g.src32 f.ty f.b L))).toNat)

/-- A word over one 32-bit pattern. -/
def State.bits1 (s : State) (i : Instr) (f : FmtA) (op : W32 → W32) : Host.Outcome State Fault Refusal :=
  s.alu i f.guard f.dst.toNat 1 (fun g L => (op (w32 (g.src32 f.ty f.a L))).toNat)

/-- Number of bits set. -/
def popCount (x : W32) : Nat := (below 32 (fun j => x.getLsbD j)).length

/-- Number of zeros before the first set bit of a list of bits. -/
def zerosBefore : List Bool → Nat
  | [] => 0
  | b :: bs => if b then 0 else 1 + zerosBefore bs

/-- AND (R110). -/
def execAnd (f : FmtA) (s : State) : Host.Outcome State Fault Refusal := s.bits2 (.and f) f (· &&& ·)
/-- OR (R110). -/
def execOr (f : FmtA) (s : State) : Host.Outcome State Fault Refusal := s.bits2 (.or f) f (· ||| ·)
/-- XOR (R110). -/
def execXor (f : FmtA) (s : State) : Host.Outcome State Fault Refusal := s.bits2 (.xor f) f (· ^^^ ·)
/-- ANDN (R110). -/
def execAndn (f : FmtA) (s : State) : Host.Outcome State Fault Refusal := s.bits2 (.andn f) f (fun a b => a &&& ~~~b)
/-- NOT (R110). -/
def execNot (f : FmtA) (s : State) : Host.Outcome State Fault Refusal := s.bits1 (.not f) f (fun a => ~~~a)
/-- SHL (R110). -/
def execShl (f : FmtA) (s : State) : Host.Outcome State Fault Refusal :=
  s.bits2 (.shl f) f (fun a b => if b.toNat < 32 then a <<< b.toNat else 0)
/-- SHR (R110). -/
def execShr (f : FmtA) (s : State) : Host.Outcome State Fault Refusal :=
  s.bits2 (.shr f) f (fun a b => if b.toNat < 32 then a >>> b.toNat else 0)
/-- SAR (R110). -/
def execSar (f : FmtA) (s : State) : Host.Outcome State Fault Refusal :=
  s.bits2 (.sar f) f (fun a b => a.sshiftRight (min b.toNat 31))
/-- ROTL (R110). -/
def execRotl (f : FmtA) (s : State) : Host.Outcome State Fault Refusal :=
  s.bits2 (.rotl f) f (fun a b => a.rotateLeft (b.toNat % 32))
/-- POPC (R110). -/
def execPopc (f : FmtA) (s : State) : Host.Outcome State Fault Refusal := s.bits1 (.popc f) f (fun a => w32 (popCount a))
/-- CLZ (R110). -/
def execClz (f : FmtA) (s : State) : Host.Outcome State Fault Refusal :=
  s.bits1 (.clz f) f (fun a => w32 (zerosBefore ((List.range 32).map (fun j => a.getLsbD (31 - j)))))
/-- CTZ (R110). -/
def execCtz (f : FmtA) (s : State) : Host.Outcome State Fault Refusal :=
  s.bits1 (.ctz f) f (fun a => w32 (zerosBefore ((List.range 32).map (fun j => a.getLsbD j))))
/-- BREV (R110). -/
def execBrev (f : FmtA) (s : State) : Host.Outcome State Fault Refusal :=
  s.bits1 (.brev f) f (fun a => maskOf 32 (below 32 (fun j => a.getLsbD (31 - j))))

/-! ### Bit fields (R111) -/

/-- BFX: the field of a that b names, extended under the type (R111). -/
def bfxVal (signed : Bool) (a b : W32) : W32 :=
  let pos := b.toNat % 256
  let len := b.toNat / 256 % 256
  if 32 ≤ pos ∨ len = 0 then 0
  else
    let n := min len (32 - pos)
    let x := bitsOf a.toNat pos n
    w32 (wrapTo 32 (if signed then sextN x n else zextN x n))

/-- BFI: the field of a that b names, replaced by the low bits of c (R111). -/
def bfiVal (a b c : W32) : W32 :=
  let pos := b.toNat % 256
  let len := b.toNat / 256 % 256
  if 32 ≤ pos ∨ len = 0 then a
  else
    let n := min len (32 - pos)
    let m : W32 := BitVec.ofNat 32 ((2 ^ n - 1) * 2 ^ pos)
    (a &&& ~~~m) ||| ((c <<< pos) &&& m)

/-- PRMT: four bytes chosen from the eight of a and b, or their sign (R111). -/
def prmtVal (a b c : W32) : W32 :=
  let x := a.toNat + b.toNat * 2 ^ 32
  let byte (j : Nat) : Nat :=
    let sel := bitsOf c.toNat (4 * j) 4
    let v := bitsOf x (8 * (sel % 8)) 8
    if 8 ≤ sel then (if 128 ≤ v then 255 else 0) else v
  w32 (byte 0 + byte 1 * 256 + byte 2 * 65536 + byte 3 * 16777216)

/-- BFX (R111). -/
def execBfx (f : FmtA) (s : State) : Host.Outcome State Fault Refusal := s.bits2 (.bfx f) f (bfxVal f.ty.isSigned)

/-- A word over three 32-bit patterns. -/
def State.bits3 (s : State) (i : Instr) (f : FmtA) (op : W32 → W32 → W32 → W32) : Host.Outcome State Fault Refusal :=
  s.alu i f.guard f.dst.toNat 1 (fun g L =>
    (op (w32 (g.src32 f.ty f.a L)) (w32 (g.src32 f.ty f.b L)) (w32 (g.src32 f.ty f.c L))).toNat)

/-- BFI (R111). -/
def execBfi (f : FmtA) (s : State) : Host.Outcome State Fault Refusal := s.bits3 (.bfi f) f bfiVal
/-- PRMT (R111). -/
def execPrmt (f : FmtA) (s : State) : Host.Outcome State Fault Refusal := s.bits3 (.prmt f) f prmtVal

/-! ### Selection and moves (R112) -/

/-- SEL (R112). -/
def execSel (f : FmtA) (s : State) : Host.Outcome State Fault Refusal :=
  s.alu (.sel f) f.guard f.dst.toNat (tyRegs f.ty) (fun g L =>
    g.srcInt f.ty (tyRegs f.ty) (if (g.lane L).predField f.c then f.a else f.b) L)
/-- MOV (R112). -/
def execMov (f : FmtA) (s : State) : Host.Outcome State Fault Refusal :=
  s.alu (.mov f) f.guard f.dst.toNat (tyRegs f.ty) (fun g L => g.srcInt f.ty (tyRegs f.ty) f.a L)

/-- The value of MOVI (R112). -/
def moviVal (md : Nat) (x : BitVec 28) : W32 :=
  match md with
  | 0 => x.zeroExtend 32
  | 1 => x.signExtend 32
  | _ => x.zeroExtend 32 <<< 4

/-- MOVI (R112). -/
def execMovi (f : FmtW) (s : State) : Host.Outcome State Fault Refusal :=
  s.alu (.movi f) f.guard f.dst.toNat 1 (fun _ _ => (moviVal f.mod.toNat f.imm).toNat)

/-- MOVW: w[A + b[5:0]], zero past w63 (R112). A register that holds a pending token is waited for (R20). -/
def execMovw (f : FmtA) (s : State) : Host.Outcome State Fault Refusal :=
  s.word (.movw f) f.guard (fun s =>
    let idx (L : Nat) : Nat := f.a.field.toNat + s.g.src32 f.ty f.b L % 64
    let val (L : Nat) : Nat := if idx L ≤ 63 then (s.g.wr (idx L)).toNat else 0
    let ex := s.g.executing f.guard
    if ex.any (fun L => s.g.pend.get 0 (idx L) != 0) then .stall s .token
    else .done { s with g := s.g.writeV ex f.dst.toNat 1 val })

/-- The lane a uniform value is read from: the lowest-numbered active one (R112, R126). DEDUCED, log 31. -/
def Group.lowest (g : Group) (gd : Guard) : Nat := (g.active gd).headD 0

/-- WMOV (R112). -/
def execWmov (f : FmtA) (s : State) : Host.Outcome State Fault Refusal :=
  s.word (.wmov f) f.guard (fun s =>
    .done { s with g := s.g.wwN f.dst.toNat (tyRegs f.ty) (s.g.srcInt f.ty (tyRegs f.ty) f.a (s.g.lowest f.guard)) })

end Sys2Proof.Machine
end

