-- ==== Sys2Proof/Machine/Address.lean ====
section
/-! DEFINITION. Address arithmetic: AADD to SPCAST (R113 to R115). A HELPER lane makes no check (R14): where a check
would have failed there, AADD, ASUB and ADIFF still compute modulo 2^80, and the pointer SPCAST would have made is a
free value. -/

namespace Sys2Proof.Machine

/-- The raw 96 bits of an address operand (R113). -/
def Group.srcTriple (g : Group) (s : Src) (L : Nat) : Nat := g.srcInt .b32 3 s L

/-- The first failing per-lane check of a word, over its active lanes in ascending order (R373). -/
def firstTrap (act : List Nat) (chk : Nat → Option (Nat × Nat)) : Option Trap :=
  (act.filterMap (fun L => (chk L).map (fun c => ({ cause := c.1, detail := c.2, lane := some L } : Trap)))).head?

/-- A word with per-lane checks that computes a value of k registers. -/
def State.checkedAlu (s : State) (i : Instr) (gd : Guard) (dst k : Nat) (chk : State → Nat → Option (Nat × Nat))
    (f : State → Nat → Nat) : Host.Outcome State Fault Refusal :=
  s.word i gd (fun s =>
    match firstTrap (s.g.active gd) (chk s) with
    | some t => .trap s t
    | none => .done { s with g := s.g.writeV (s.g.executing gd) dst k (f s) })

/-- The window of an address (R113). -/
def winOf (a : Nat) : Nat := bitsOf a 72 8

/-- The address-format checks of AADD and ASUB on the exact sum (R113). -/
def sumBad (a : Nat) (x : Int) : Bool :=
  let lim (n : Nat) : Bool :=
    let y := (a % 2 ^ n : Nat) + (x - (a : Int))
    decide (y < 0) || decide ((2 ^ n : Nat) ≤ y)
  winOf (wrapTo 80 x) != winOf a || ((winOf a == 0xFE || winOf a == 0xFD) && lim 24) || (winOf a == 0xFC && lim 32)

/-- AADD and ASUB: `sg` is 1 or −1. DESIGN CHOICE, log 32. -/
def State.addrSum (s : State) (i : Instr) (f : FmtA) (sg : Int) : Host.Outcome State Fault Refusal :=
  let sum (s : State) (L : Nat) : Int :=
    (s.g.srcTriple f.a L % 2 ^ 80 : Nat) + sg * s.g.srcVal f.ty f.b L
  s.checkedAlu i f.guard f.dst.toNat 3
    (fun s L =>
      if tripleBad (s.g.srcTriple f.a L) || sumBad (s.g.srcTriple f.a L) (sum s L) then some (0x06, 0) else none)
    (fun s L => wrapTo 80 (sum s L))

/-- AADD (R113). -/
def execAadd (f : FmtA) (s : State) : Host.Outcome State Fault Refusal := s.addrSum (.aadd f) f 1
/-- ASUB (R113). -/
def execAsub (f : FmtA) (s : State) : Host.Outcome State Fault Refusal := s.addrSum (.asub f) f (-1)

/-- Either triple is no address. -/
def badPair (s : State) (f : FmtA) (L : Nat) : Bool :=
  tripleBad (s.g.srcTriple f.a L) || tripleBad (s.g.srcTriple f.b L)

/-- ADIFF (R113). -/
def execAdiff (f : FmtA) (s : State) : Host.Outcome State Fault Refusal :=
  let a (s : State) (L : Nat) : Nat := s.g.srcTriple f.a L % 2 ^ 80
  let b (s : State) (L : Nat) : Nat := s.g.srcTriple f.b L % 2 ^ 80
  s.checkedAlu (.adiff f) f.guard f.dst.toNat 2
    (fun s L => if badPair s f L || winOf (a s L) != winOf (b s L) then some (0x06, 0) else none)
    (fun s L => tyFit .s64 f.sat 64 ((a s L : Int) - (b s L : Int)))

/-- ACMP (R113). -/
def execAcmp (f : FmtA) (s : State) : Host.Outcome State Fault Refusal :=
  s.word (.acmp f) f.guard (fun s =>
    match firstTrap (s.g.active f.guard) (fun L => if badPair s f L then some (0x06, 0) else none) with
    | some t => .trap s t
    | none => .done { s with g := s.g.writeP (s.g.executing f.guard) f.dst.toNat (fun L =>
        condOrd f.mod.toNat (compare (s.g.srcTriple f.a L % 2 ^ 80) (s.g.srcTriple f.b L % 2 ^ 80))) })

/-- AMOVI (R113). -/
def execAmovi (f : FmtA) (s : State) : Host.Outcome State Fault Refusal :=
  s.checkedAlu (.amovi f) f.guard f.dst.toNat 3
    (fun s L => if tripleBad (s.g.srcTriple f.a L) then some (0x06, 0) else none)
    (fun s L => s.g.srcTriple f.a L % 2 ^ 80)

/-- The tests of SPTEST (R114). -/
def State.spTest (s : State) (md a : Nat) : Bool :=
  let win := winOf a
  if tripleBad a then false
  else match md with
    | 0 => win == 0xFE
    | 1 => win == 0xFD
    | 2 => win == 0xFC
    | 3 => win < 0xFC || win == 0xFF
    | _ =>
      if win = 0xFE then
        bitsOf a 40 32 == 0 && (bitsOf a 24 16 == 0xFFFF || bitsOf a 24 16 == s.g.core)
      else if win = 0xFD then
        bitsOf a 40 32 == 0 && bitsOf a 26 6 == 0 && (bitsOf a 32 8 == 0xFF || bitsOf a 32 8 == clusterOf s.g.core)
          && (s.thisBlock.bind (fun b => s.gangBlock b (s.g.core / 4 * 4 + bitsOf a 24 2))).isSome
      else false

/-- SPTEST (R114). -/
def execSptest (f : FmtA) (s : State) : Host.Outcome State Fault Refusal :=
  s.word (.sptest f) f.guard (fun s =>
    let t (L : Nat) : Bool := s.spTest f.mod.toNat (s.g.srcTriple f.a L)
    .done { s with g := s.g.writeP (s.g.executing f.guard) f.dst.toNat t })

/-- The core a scratchpad or cluster-shared pointer names, and its offset (R115). -/
def spCore (here a : Nat) : Except (Nat × Nat) Nat :=
  let win := winOf a
  if tripleBad a then .error (0x06, 0)
  else if win = 0xFE then
    if bitsOf a 40 32 ≠ 0 then .error (0x06, 0)
    else
      let core := if bitsOf a 24 16 = 0xFFFF then here else bitsOf a 24 16
      if 51 < core % 64 then .error (0x06, 0) else .ok core
  else if win = 0xFD then
    if bitsOf a 40 32 ≠ 0 ∨ bitsOf a 26 6 ≠ 0 then .error (0x06, 0)
    else
      let cl := if bitsOf a 32 8 = 0xFF then clusterOf here else bitsOf a 32 8
      if 12 < cl % 16 then .error (0x06, 0)
      else
        let core := cl / 16 * 64 + 4 * (cl % 16) + bitsOf a 24 2
        if 51 < core % 64 then .error (0x06, 0) else .ok core
  else .error (0x06, 0)

/-- The core or cluster that the foreign-scratchpad trap of SPCAST names (R372): the cluster of a cluster-shared pointer
where it is another cluster, as `decode` names it, else the core. DEDUCED, log 145. -/
def spNamed (here a core : Nat) : Nat :=
  if winOf a = 0xFD ∧ clusterOf core ≠ clusterOf here then clusterOf core else core

/-- The pointer SPCAST makes (R115); CLUSTER has eight bits (R31). -/
def spCast (here md a : Nat) : Except (Nat × Nat) Nat :=
  match spCore here a with
  | .error e => .error e
  | .ok core =>
    let off := a % 2 ^ 24
    match md with
    | 0 => .ok (0xFD * 2 ^ 72 + clusterOf core % 256 * 2 ^ 32 + core % 4 * 2 ^ 24 + off)
    | 1 => .ok (0xFE * 2 ^ 72 + core * 2 ^ 24 + off)
    | _ => if core ≠ here then .error (0x07, spNamed here a core) else .ok (0xFE * 2 ^ 72 + 0xFFFF * 2 ^ 24 + off)

/-- SPCAST (R115). -/
def execSpcast (f : FmtA) (s : State) : Host.Outcome State Fault Refusal :=
  s.word (.spcast f) f.guard (fun s =>
    let r (L : Nat) := spCast s.g.core f.mod.toNat (s.g.srcTriple f.a L)
    let bad (L : Nat) : Option (Nat × Nat) := match r L with
      | .error e => some e
      | .ok _ => none
    match firstTrap (s.g.active f.guard) bad with
    | some t => .trap s t
    | none =>
      let (fr, s1) := s.free
      .done { s1 with g := s.g.writeV (s.g.executing f.guard) f.dst.toNat 3 (fun L => match r L with
        | .ok a => a
        | .error _ => fr.toNat) })

end Sys2Proof.Machine
end

