-- ==== Sys2Proof/WellFormed.lean ====
section
/-! DEFINITION. Well-formedness of a step. For an instruction word: the checks 3 to 5 of R58 pass in a clause whose
literal words are `lits`, so the word can be written and the device accepts it. For a device event: its arguments
name things that can exist (a port, a slot, a queue, a span of the fabric). -/

namespace Sys2Proof

/-- An instruction's fields pass the checks of the row that its opcode and MOD select, and the row is this instruction's
own (instructions that share an opcode are told apart by MOD). A guard never needs a check of its own: the unguarded form
has N and P zero by construction (R46). -/
def wordWf (lits : List W64) (opc : Nat) (f : Enc.Fields) (i : Instr) : Bool :=
  match Enc.rowFor opc f.mod with
  | some r => r.fmt.check lits f == none && r.fmt.make f == some i
  | none => false

/-- A counted packet names endpoints of ten bits and a slot below 64 (R350, R351). -/
def Packet.wf (p : Packet) : Bool :=
  decide (p.src < 1024) && decide (p.dst < 1024) && decide (p.slot < 64) && decide (p.addr < 2 ^ 52)
    && decide (p.count < 2 ^ 24)

/-- Well-formedness of every step, instruction words in a clause with literals `lits`. -/
def Instr.wf (lits : List W64) (i : Instr) : Bool :=
  match Enc.view i with
  | .word opc f => wordWf lits opc f i
  | .hint n _ => match i with
    | .hintUnimplemented _ _ => decide (2 ≤ n.toNat)
    | _ => true
  | .raw w => !Enc.assigned (w.extractLsb' 54 10).toNat && decide ((w.extractLsb' 54 10).toNat < 0x3C0)
  | .event => match i with
    | .doorbellWrite q _ => decide (q < 131072)
    | .launchFetch q => decide (q < 131072)
    | .countedPacketArrive p => p.wf
    | .flagArrive p => p.wf
    | .protectionNotice p => p.wf
    | .replayRequest ep slot => decide (ep < 1024) && decide (slot < 64)
    | .replayRequestArrive ep slot _ _ => decide (ep < 1024) && decide (slot < 64)
    | .replayGone ep slot => decide (ep < 1024) && decide (slot < 64)
    | .sendLogExpiry ep slot _ => decide (ep < 1024) && decide (slot < 64)
    | .linkTraining p => decide (p < 64)
    | .linkStateWordArrive p _ _ => decide (p < 64)
    | .linkTrainTimeout p => decide (p < 64)
    | .portLinkLoss p => decide (p < 64)
    | .cxlLinkDown p => decide (p < 2)
    | .queueEnable _ q _ l _ asid => decide (q < 131072) && decide (6 ≤ l) && decide (l ≤ 14) && decide (asid < 1024)
    | .slotAssign _ peer slot _ => decide (peer < 1024) && decide (slot < 64)
    | .slotReset _ peer slot _ _ => decide (peer < 1024) && decide (slot < 64)
    | .endpointSet _ ep => decide (ep < 1024)
    | .pmWindowExpiry p => decide (p < 8)
    | .partUnfreeze p => decide (p < 8)
    | .replicaWriteApplied d => decide (d < 4)
    | .meshPacketArrive d ch _ c => decide (d < 4) && decide (ch < 16) && decide (c < 52)
    | .meshNodeTimeout d ch _ _ => decide (d < 4) && decide (ch < 16)
    | _ => true

/-- The step is an instruction word. -/
def Instr.isWord (i : Instr) : Bool := Enc.view i != .event

end Sys2Proof
end

