-- ==== Sys2Proof/Decode.lean ====
section
/-! DEFINITION. The decoder and the encoder of instruction words, from the layouts of R45 and R50 to R56 and the
opcode map of R61. Decoding is total: a word is an instruction, a hint, a word with a reserved opcode, or is
rejected with the number of the check of R58 that fails first. -/

namespace Sys2Proof

open Enc

/-! ### Fields of a word (R45) -/

def opcOf (w : W64) : Nat := (w.extractLsb' 54 10).toNat
def modOf (w : W64) : BitVec 4 := w.extractLsb' 50 4
def keepOf (w : W64) : Bool := w.getLsbD 49

/-- The guard; none where G = 0 and N or P is not zero (R46). -/
def guardOf (w : W64) : Option Guard :=
  if w.getLsbD 48 then some (.on (w.getLsbD 47) (w.extractLsb' 44 3))
  else if (w.extractLsb' 44 4) = 0#4 then some .always else none

def guardBits : Guard → BitVec 5
  | .always => 0#5
  | .on n p => (1#1 ++ BitVec.ofBool n) ++ p

/-- Bits 63:44 of a word. -/
def headBits (opc : Nat) (md : BitVec 4) (keep : Bool) (g : Guard) : BitVec 20 :=
  ((BitVec.ofNat 10 opc ++ md) ++ BitVec.ofBool keep) ++ guardBits g

/-- Format A (R50). -/
def fieldsA (w : W64) (g : Guard) : Option FmtA :=
  (tyOfCode (w.extractLsb' 7 5)).map fun ty =>
    { guard := g, keep := keepOf w, mod := modOf w, dst := w.extractLsb' 36 8
      a := srcOf (w.extractLsb' 5 2) (w.extractLsb' 28 8)
      b := srcOf (w.extractLsb' 3 2) (w.extractLsb' 20 8)
      c := srcOf (w.extractLsb' 1 2) (w.extractLsb' 12 8)
      ty := ty, sat := w.getLsbD 0 }

def packA (opc : Nat) (f : FmtA) : W64 :=
  headBits opc f.mod f.keep f.guard ++ f.dst ++ f.a.field ++ f.b.field ++ f.c.field
    ++ Ty.code f.ty ++ f.a.cls ++ f.b.cls ++ f.c.cls ++ BitVec.ofBool f.sat

/-- Format W (R52). -/
def fieldsW (w : W64) (g : Guard) : FmtW :=
  { guard := g, keep := keepOf w, mod := modOf w, dst := w.extractLsb' 36 8, a := w.extractLsb' 28 8
    imm := w.extractLsb' 0 28 }

def packW (opc : Nat) (f : FmtW) : W64 :=
  headBits opc f.mod f.keep f.guard ++ f.dst ++ f.a ++ f.imm

/-- Format J (R53). -/
def fieldsJ (w : W64) (g : Guard) : FmtJ :=
  { guard := g, keep := keepOf w, mod := modOf w, dst := w.extractLsb' 36 8, off := w.extractLsb' 0 36 }

def packJ (opc : Nat) (f : FmtJ) : W64 :=
  headBits opc f.mod f.keep f.guard ++ f.dst ++ f.off

/-- Format M (R54). -/
def fieldsM (w : W64) (g : Guard) : Option FmtM :=
  (tyOfCode (w.extractLsb' 7 5)).map fun ty =>
    { guard := g, keep := keepOf w, mod := modOf w, dst := w.extractLsb' 36 8, a := w.extractLsb' 28 8
      b := w.extractLsb' 20 8, off := srcOf (w.extractLsb' 5 2) (w.extractLsb' 12 8), ty := ty
      scope := scopeOfCode (w.extractLsb' 2 3), ord := ordOfCode (w.extractLsb' 0 2) }

def packM (opc : Nat) (f : FmtM) : W64 :=
  headBits opc f.mod f.keep f.guard ++ f.dst ++ f.a ++ f.b ++ f.off.field
    ++ Ty.code f.ty ++ f.off.cls ++ Scope.code f.scope ++ Ord.code f.ord

/-- Format E (R55). -/
def fieldsE (w : W64) (g : Guard) : FmtE :=
  { guard := g, keep := keepOf w, mod := modOf w, dst := w.extractLsb' 36 8, a := w.extractLsb' 28 8
    b := w.extractLsb' 20 8, c := w.extractLsb' 12 8, imm := w.extractLsb' 0 12 }

def packE (opc : Nat) (f : FmtE) : W64 :=
  headBits opc f.mod f.keep f.guard ++ f.dst ++ f.a ++ f.b ++ f.c ++ f.imm

/-! ### Decoding -/

/-- The fields of a word under a row's format, with the constructor they make; none where TYPE names no type. -/
def fieldsFor (w : W64) (g : Guard) : Fmt → Option (Fields × Instr)
  | .a _ mk => (fieldsA w g).map fun f => (.a f, mk f)
  | .w mk => let f := fieldsW w g; some (.w f, mk f)
  | .j _ _ mk => let f := fieldsJ w g; some (.j f, mk f)
  | .m _ mk => (fieldsM w g).map fun f => (.m f, mk f)
  | .e _ mk => let f := fieldsE w g; some (.e f, mk f)

/-- A hint (R63): its fields are not checked. -/
def hintOf (w : W64) : Instr :=
  match opcOf w - 0x3C0 with
  | 0 => .hint0 (w.extractLsb' 0 54)
  | 1 => .hint1 (w.extractLsb' 0 54)
  | n => .hintUnimplemented (BitVec.ofNat 6 n) (w.extractLsb' 0 54)

/-- Decode one instruction word of a clause whose literal words are `lits`: the instruction, or the number of the
first check of R58 that fails. A reserved or permanently illegal OPC is the RESERVED_OPCODE step, which raises the
trap of check 1 (R62). DEDUCED, log 11. -/
def decodeWord (lits : List W64) (w : W64) : Except Nat Instr :=
  let opc := opcOf w
  if 0x3C0 ≤ opc then .ok (hintOf w)
  else if !assigned opc then .ok (.reservedOpcode w)
  else match guardOf w with
    | none => .error 2
    | some g =>
      match rowFor opc (modOf w).toNat with
      | none => .error 3
      | some r =>
        match fieldsFor w g r.fmt with
        | none => .error 3
        | some (f, i) =>
          match r.fmt.check lits f with
          | none => .ok i
          | some n => .error n

/-! ### Encoding -/

/-- The word of the fields of a format. -/
def packFields (opc : Nat) : Fields → W64
  | .a f => packA opc f | .w f => packW opc f | .j f => packJ opc f | .m f => packM opc f | .e f => packE opc f

/-- The word of an instruction; none for a device event, which has no encoding. -/
def encode (i : Instr) : Option W64 :=
  match view i with
  | .word opc f => some (packFields opc f)
  | .hint n b => some (BitVec.ofNat 10 (0x3C0 + n.toNat) ++ b)
  | .raw w => some w
  | .event => none

/-! ### Bytes (R5) -/

/-- The little-endian value of a list of bytes. -/
def leNat : List Byte → Nat
  | [] => 0
  | b :: bs => b.toNat + 256 * leNat bs

/-- The `n` low bytes of a number, lowest first. -/
def leBytes : Nat → Nat → List Byte
  | 0, _ => []
  | n + 1, x => BitVec.ofNat 8 x :: leBytes n (x / 256)

/-- Decode the instruction at the head of a byte list, with the rest of the list; none where fewer than 8 bytes are
left. -/
def decodeBytes (lits : List W64) (bs : List Byte) : Option (Except Nat Instr × List Byte) :=
  if bs.length < 8 then none else some (decodeWord lits (BitVec.ofNat 64 (leNat (bs.take 8))), bs.drop 8)

/-- The decoder on a word of the opcode table: bit 0 is the least significant bit of the first (and only) 64-bit
word; the bits above `nbits` are zero, and the word stands in a clause without literals. -/
def decodeTableWord (nbits w : Nat) : Option Instr :=
  match decodeBytes [] (leBytes 8 (w % 2 ^ min nbits 64)) with
  | some (.ok i, _) => some i
  | _ => none

end Sys2Proof
end

