-- ==== Sys2Proof/Machine/Segment.lean ====
section
/-! DEFINITION. The ends of segments: lanes held at a segment-ending word, the arrival of quads, and what becomes of the
quads that have arrived (R134, R135, R137, R162, R170, R173, R280). -/

namespace Sys2Proof.Machine

/-! ### Barriers as they lie in memory (R166, R264) -/

/-- Fields of a barrier's 16 bytes. -/
structure Barrier where
  arrInit : Nat
  sect : Int
  arr : Nat
  phase : Nat
  last : W32
deriving DecidableEq, Repr

def Barrier.ofNat (x : Nat) : Barrier :=
  { arrInit := bitsOf x 104 24, sect := sextN (bitsOf x 64 32) 32, arr := bitsOf x 40 24, phase := bitsOf x 36 4
    last := w32 x }

def Barrier.toNat (b : Barrier) : Nat :=
  b.arrInit * 2 ^ 104 + wrapTo 32 b.sect * 2 ^ 64 + b.arr * 2 ^ 40 + b.phase * 2 ^ 36 + b.last.toNat

/-- Where a barrier lies: its piece, and the key of a record that waits on it (R264). -/
def barrierKey (p : Piece) (phase : Nat) : W64 × W64 :=
  match p.ep with
  | some ep => (w64 (ep * 2 ^ 54 + p.loc), w64 (phase * 2 ^ 16 + 2 ^ 20))
  | none =>
    if isSpad p.loc then (w64 ((p.loc - 2 ^ 65) / 2 ^ 20 + (p.loc - 2 ^ 65) % 2 ^ 20 * 2 ^ 16), w64 (phase * 2 ^ 16 + 2 ^ 21))
    else (w64 p.loc, w64 (phase * 2 ^ 16))

/-- A uniform address in a w triple: the format check, and no private window (R150, R169). -/
def State.uniformAddr (s : State) (n : Nat) : Except Fail Nat :=
  let a := s.g.wrN n 3
  if tripleBad a then .error (.trap 0x06 0)
  else if bitsOf a 72 8 = 0xFC then .error (.trap 0x06 0)
  else .ok a

/-- The window of the address in a w triple. -/
def Group.winOf (g : Group) (n : Nat) : Nat := bitsOf (g.wrN n 3) 72 8

/-- The scratchpad slot check of R168: a live barrier at this byte, where the address lies in the scratchpad window;
barriers in other windows take no slot. -/
def State.liveTbar (s : State) (win : Nat) (p : Piece) : Bool :=
  if win = 0xFE then
    let core := (p.loc - 2 ^ 65) / 2 ^ 20
    let byte := (p.loc - 2 ^ 65) % 2 ^ 20
    s.blocks.any (fun b => b.core == core && !b.saved && b.spadBase ≤ byte && byte < b.spadBase + b.spadSize
      && b.tbars.contains (byte - b.spadBase))
  else true

/-- The barrier at the address in a w triple, after the checks of R169: its one piece. -/
def State.barrierAt (s : State) (n : Nat) (acc : Acc) : Except Fail Piece :=
  match s.uniformAddr n with
  | .error e => .error e
  | .ok a => match s.checkAccess 0 acc a 16 16 with
    | .error e => .error e
    | .ok [] => .error (.trap 0x0B 0)
    | .ok (p :: _) => .ok p

/-- The phase of a local barrier. -/
def State.barrierRead (s : State) (p : Piece) : Barrier := Barrier.ofNat (bytesNat (s.bytesAt (dieOf s.g.core) p.loc 16))

/-! ### Held lanes and arrival -/

/-- A lane has arrived at the segment-ending word of a clause; for a PARK.Y in a yield handler a lane held when the
handler was entered counts too (R280). -/
def Group.arrivedLane (g : Group) (pc : W32) (parkY : Bool) (L : Nat) : Bool :=
  let x := g.lane L
  (x.hold = .segEnd && x.pc == pc) || (parkY && x.hold ≠ .none && x.ypc.isNone)

/-- Every LIVE lane of a quad has arrived. -/
def Group.arrived (g : Group) (pc : W32) (parkY : Bool) (q : Nat) : Bool :=
  !(g.quadLive q).isEmpty && (g.quadLive q).all (g.arrivedLane pc parkY)

/-- Park quads with one plan. -/
def State.parkQuads (s : State) (qs : List Nat) (p : ParkPlan) (pc : W32) (wix : Nat) : State :=
  s.park (qs.map (fun q => (q, s.makeRec s.g q p 0))) false pc wix

/-- Quads continue at the next clause; a register may be written in their LIVE and HELPER lanes (R162). -/
def Group.release (g : Group) (qs : List Nat) (next : W32) (val : Option (Nat × W32)) : Group :=
  g.mapLanes (qs.flatMap quadLanes) (fun _ x =>
    let y := match val with
      | some (n, v) => if x.status = .absent then x else x.vw n v
      | none => x
    if x.isLive then { y with pc := next, hold := .none } else y)

/-- A group in a yield handler (R278). -/
def Group.inYield (g : Group) : Bool := (List.range 32).any (fun L => (g.lane L).isLive && (g.lane L).ypc.isSome)

/-- The core, unit and operation of a token, as D13 gives them (R264). -/
def State.tokenKey (s : State) (serial : Nat) : W64 :=
  match s.toks.find? (fun t => t.serial == serial) with
  | some t => w64 (t.core + t.unit * 2 ^ 16 + t.op * 2 ^ 24)
  | none => 0

/-- The counted flag a wait word names has been delivered (R233). -/
def State.flagDelivered (s : State) (word : W32) : Bool :=
  let x := word.toNat
  let r := s.recvs.get RecvState.init (bitsOf x 0 10 * 64 + bitsOf x 10 6)
  (r.lastDone.toNat + 256 - bitsOf x 16 8) % 256 < 128

/-- What becomes of quads that have arrived at a held word. -/
inductive Verdict where
  | park (p : ParkPlan)
  | go (val : Option (Nat × W32))
  | fail (f : Fail)
  | none

/-- The request a record's wait for a remote barrier makes (R276). -/
def State.askBarrier (s : State) (p : Piece) (phase : Nat) : State :=
  match p.ep with
  | none => s
  | some ep =>
    let r : RemoteReq :=
      { id := s.serial, src := s.endpoint, dst := ep, dctx := s.cx.dctx, addr := p.loc, len := 16, op := .barrier 4 phase 0 }
    { s with serial := s.serial + 1, out := .request r :: s.out
             remotes := s.remotes ++ [{ req := r, gid := 0, tag := 32, status := none, bytes := [], rid := 0, ahead := [] }] }

/-- The decision of a segment-ending word for quads whose last lane has just arrived (R135, R137, R138, R162, R170,
R173). -/
def State.verdict (s : State) (h : HeldAt) (i : Instr) : Verdict :=
  let live (imm : BitVec 12) : Nat := imm.toNat % 512
  match i with
  | .park f =>
    match f.mod.toNat with
    | 1 => .park { ParkPlan.now 0 (live f.imm) (some h.next) with
                   wkind := 6, wkey0 := w64 h.deadline, fired := decide (h.deadline ≤ s.now) }
    | 2 => if s.g.inYield then .park (ParkPlan.now 3 (live f.imm) none)
           else .park (ParkPlan.now 0 (live f.imm) (some h.next))
    | 3 => .park { ParkPlan.now 0 (live f.imm) (some h.next) with
                   wkind := 5, wkey0 := h.val.zeroExtend 64, fired := s.flagDelivered h.val }
    | _ => .park (ParkPlan.now 0 (live f.imm) (some h.next))
  | .yield f => .park (ParkPlan.now 0 (live f.imm) (some h.next))
  | .await f =>
    let n := f.a.toNat
    let ser := s.g.pend.get 0 n
    if ser = 0 then .go (some (f.dst.toNat, s.g.wr n))
    else .park { ParkPlan.now 0 (live f.imm) (some h.next) with
                 wkind := 1, wkey0 := s.tokenKey ser, wkey1 := w64 n, evSerial := ser, dv := true, dreg := f.dst.toNat
                 fired := false }
  | .tbwait f =>
    match s.barrierAt f.a.toNat .rmw with
    | .error e => .fail e
    | .ok p =>
      let ph := (s.g.wr f.b.toNat).toNat % 16
      let now := match p.ep with
        | some _ => h.val.toNat % 16
        | none => (s.barrierRead p).phase
      if now ≠ ph then .go none
      else
        let k := barrierKey p ph
        .park { ParkPlan.now 0 (live f.imm) (some h.next) with wkind := 2, wkey0 := k.1, wkey1 := k.2, fired := false }
  | .qpush f =>
    .park { ParkPlan.now 0 (live f.imm) (some h.next) with wkind := 3, wkey0 := w64 h.waiter, fired := h.served }
  | .qpop f =>
    .park { ParkPlan.now 0 (live f.imm) (some h.next) with
            wkind := 3, wkey0 := w64 h.waiter, fired := h.served, dv := true, dreg := f.dst.toNat, dval := h.val }
  | _ => .none

/-- A quad is decided by the newest issue that holds one of its LIVE lanes at the word (R173). DEDUCED, log 130. -/
def Group.heldBy (g : Group) (h : HeldAt) (q : Nat) : Bool :=
  match g.held.find? (fun x => x.pc == h.pc && (g.quadLive q).any x.mask.getLsbD) with
  | some x => x == h
  | none => true

/-- Decide for the arrived quads among `qs` at a held word. -/
def State.decideHeld (s : State) (h : HeldAt) (qs : List Nat) : State :=
  match decodeWord [] h.word with
  | .error _ => s
  | .ok i =>
    let parkY := match i with
      | .park f => f.mod.toNat == 2 && s.g.inYield
      | _ => false
    let ready := ((if parkY then List.range 8 else qs).filter (s.g.arrived h.pc parkY)).filter (s.g.heldBy h)
    if ready.isEmpty then s
    else match s.verdict h i with
      | .park p =>
        let s1 := match i with
          | .tbwait f => match s.barrierAt f.a.toNat .rmw with
            | .ok pc => s.askBarrier pc ((s.g.wr f.b.toNat).toNat % 16)
            | .error _ => s
          | _ => s
        s1.parkQuads ready p h.pc h.wix
      | .go v => { s with g := (s.g.release ready h.next v).trimHeld }
      | .fail (.trap c d) => s.takeTrapAt { cause := c, detail := d, lane := none } h.pc h.wix
      | .fail (.page ps) => s.pageFault ps
      | .fail (.format d va e lvl addr) =>
        (s.impreciseGroup 0x45 [w64 lvl, w64 addr, e] (va / 65536 * 65536)).takeTrapAt
          { cause := 0x0D, detail := d, lane := none } h.pc h.wix
      | .none => s

/-- Entries after a decision are trimmed while the group is still there. -/
def State.trim (s : State) : State := if s.g.gid = 0 then s else { s with g := s.g.trimHeld }

/-- What the first issue at a segment-ending word reads (R137, R173). -/
structure Capture where
  val : W32
  deadline : Nat
  waiter : Nat
  served : Bool

def Capture.zero : Capture := { val := 0, deadline := 0, waiter := 0, served := false }

/-- Hold the active lanes at a segment-ending word; the other lanes that ran the clause go on to the next one.
DEDUCED, log 40. -/
def Group.holdAt (g : Group) (r : Run) (gd : Guard) : Group :=
  let act := g.active gd
  { g.mapLanes (below 32 g.runs) (fun L x =>
      if act.contains L then { x with hold := .segEnd, mid := false } else { x with pc := r.next, mid := false }) with
    run := none, keep := none }

/-- An issue that holds some lanes takes them from the earlier ones. -/
def HeldAt.without (m : BitVec 32) (h : HeldAt) : HeldAt := { h with mask := h.mask &&& ~~~m }

/-- A segment-ending word holds its active lanes, and the quads that have arrived are decided (R135); inside a
user-level trap handler it raises the handler-state trap (R375). `first` gives the values read where no lane is held
at the word yet; `fresh` says that each issue reads its own (R173). DEDUCED, log 36. -/
def State.segEnd (s : State) (gd : Guard) (fresh : Bool) (first : Capture) : Res :=
  match s.g.run with
  | none => .stop s
  | some r =>
    if s.g.trap.isSome then .trap s { cause := 0x2D, detail := 0, lane := none }
    else
      let s1 := s.retire
      let m := maskOf 32 (s.g.active gd)
      let old := s1.g.held.find? (fun h => h.pc == r.pc)
      let h : HeldAt := match (if fresh then none else old) with
        | some h => { h with mask := h.mask ||| m }
        | none => { pc := r.pc, wix := r.wix, word := r.words.getD r.wix 0, next := r.next, val := first.val
                    deadline := first.deadline, waiter := first.waiter, served := first.served, mask := m }
      let g1 := s1.g.holdAt r gd
      let s2 := { s1 with g := { g1 with held := h :: (g1.held.map (HeldAt.without m)).filter (fun x => x.mask != 0 && (fresh || x.pc != r.pc)) } }
      .stop (s2.decideHeld h (List.range 8)).trim

/-- Arrival completed by EXIT: the quads among `qs` whose LIVE lanes are now all held at one word (R135). Where several
words hold such quads, the word whose issue is newest is decided first. DEDUCED, log 130. -/
def State.exitArrivals (s : State) (qs : List Nat) : State :=
  s.g.held.foldl (fun s h => if s.g.gid = 0 || s.g.run.isSome then s else (s.decideHeld h qs).trim) s

end Sys2Proof.Machine
end

