-- ==== Sys2Proof/Machine/Access.lean ====
section
/-! DEFINITION. The shared parts of memory words: effective addresses (R54), the checks of all lanes in the order of
R140 and R373, requests to remote endpoints and their answers (R147, R305, R355), and releases (R161, R304). -/

namespace Sys2Proof.Machine

/-! ### Effective addresses -/

/-- The effective address of a base and an offset, with the window check (R54, R18). -/
def effAddr (base : Nat) (off : Int) : Except Fail Nat :=
  if tripleBad base then .error (.trap 0x06 0)
  else
    let a := wrapTo 80 ((base : Int) + off)
    if bitsOf a 72 8 ≠ bitsOf base 72 8 then .error (.trap 0x06 0) else .ok a

/-- The effective address of a lane; `scale` is what a short immediate offset counts in. -/
def Group.laneAddr (g : Group) (f : FmtM) (scale : Nat) (L : Nat) : Except Fail Nat :=
  effAddr ((g.lane L).vrN f.a.toNat 3) (g.offset scale f.off L)

/-- The effective address of a uniform word: a per-lane offset is that of the lowest active lane (R46). -/
def Group.uniAddr (g : Group) (f : FmtM) (scale : Nat) : Except Fail Nat :=
  effAddr (g.wrN f.a.toNat 3) (g.offset scale f.off ((g.active f.guard).headD 0))

/-- A uniform load, store or atomic has no private window (R150). -/
def noPriv (r : Except Fail Nat) : Except Fail Nat :=
  match r with
  | .ok a => if bitsOf a 72 8 = 0xFC then .error (.trap 0x06 0) else .ok a
  | .error e => .error e

/-! ### The checks of all lanes -/

/-- The pages that do not translate among the failures of some lanes (R282). -/
def failPages (fs : List (Option Fail)) : List Nat :=
  ((fs.filterMap (fun f => match f with
    | some (.page ps) => some ps
    | _ => none)).flatten.eraseDups).take 32

/-- The failure of the lowest failing lane, a translation fault with the pages of every lane (R140, R282, R373). -/
def lowestFail {α : Type} (ls : List Nat) (chk : Nat → Except Fail α) : Option (Nat × Fail) :=
  let bad (L : Nat) : Option Fail := match chk L with
    | .error e => some e
    | .ok _ => none
  match (ls.filterMap (fun L => (bad L).map (fun e => (L, e)))).head? with
  | none => none
  | some (L, .page ps) => some (L, .page ((ps ++ failPages (ls.map bad)).eraseDups.take 32))
  | some x => some x

/-- The pieces of the lanes that pass. -/
def passing {α : Type} (ls : List Nat) (chk : Nat → Except Fail α) : List (Nat × α) :=
  ls.filterMap (fun L => match chk L with
    | .ok x => some (L, x)
    | .error _ => none)

/-- Checks 1 to 7 of a lane's access of n bytes (R140). -/
def State.laneAccess (s : State) (acc : Acc) (f : FmtM) (scale n align L : Nat) : Except Fail (List Piece) :=
  match s.g.laneAddr f scale L with
  | .error e => .error e
  | .ok a => s.checkAccess (s.g.lane L).threadId acc a n align

/-! ### Remote requests -/

/-- A request a word needs answered. -/
structure Ask where
  tag : Nat
  ep : Nat
  addr : Nat
  len : Nat
  op : RemoteOp
deriving DecidableEq, Repr

def State.answerOf (s : State) (a : Ask) : Option RemoteWait :=
  s.remotes.find? (fun r => r.gid == s.g.gid && r.tag == a.tag && r.req.dst == a.ep && r.req.addr == a.addr
    && r.req.len == a.len && r.req.op == a.op)

/-- Send a request the issuing group has not sent yet (R351). A read takes with it the bytes of its range that its core
still holds from earlier stores (R145, R289); any other request leaves after the stores to its lines, and every request
goes behind the packets that wait for its line's path (R305, R352). DESIGN CHOICE, log 100. -/
def State.request (s0 : State) (a : Ask) : State :=
  match s0.answerOf a with
  | some _ => s0
  | none =>
    let s := if a.op = .read then s0 else s0.drainLines s0.g.core s0.g.asid a.ep (linesOf a.addr a.len)
    if s.lineWaits a.ep a.addr a.len (a.op != .read) then s
    else
      let r : RemoteReq :=
        { id := s.serial, src := s.endpoint, dst := a.ep, dctx := s.cx.dctx, addr := a.addr, len := a.len, op := a.op }
      let s1 := s.progress s.g.asid
      { s1 with serial := s.serial + 1, out := .request r :: s.out, lineLast := s.lineLast.put 0 (a.ep * 2 ^ 52 + a.addr / 128) (s.now + 1)
                remotes := s.remotes ++ [{ req := r, gid := s.g.gid, tag := a.tag, status := none, bytes := [], rid := 0
                                           ahead := if a.op = .read then s.heldBytes s.g.core a.ep a.addr a.len else [] }] }

/-- What has come of the requests of a word. -/
inductive Answers where
  /-- some are not answered yet: the word waits -/
  | wait (s : State)
  /-- the lowest lane's failure -/
  | fail (tag : Nat) (f : Fail)
  | all

/-- How an answer fails (R355, R370). -/
def statusFail (st : RemoteStatus) (ep : Nat) : Option Fail :=
  match st with
  | .ok => none
  | .refused => some (.trap 0x23 ep)
  | .poisoned => some (.trap 0x0F 0)
  | .unreachable => some (.trap 0x24 ep)

/-- Ask, or read the answers; a request without an up path fails at once (R355). `must` says which tags can fail:
a HELPER lane cannot. -/
def State.askAll (s : State) (asks : List Ask) (must : Nat → Bool) : Answers :=
  if asks.isEmpty then .all
  else if !s.pathUp then
    match asks.find? (fun a => must a.tag && (s.answerOf a).isNone) with
    | some a => .fail a.tag (.trap 0x24 a.ep)
    | none => .all
  else
    let s1 := asks.foldl State.request s
    if asks.any (fun a => match s1.answerOf a with
        | some r => r.status.isNone
        | none => true) then .wait s1
    else
      match (asks.filterMap (fun a => match s1.answerOf a with
        | some r => (r.status.bind (fun st => statusFail st a.ep)).map (fun f => (a.tag, f))
        | none => none)).filter (fun x => must x.1) with
      | (t, f) :: _ => .fail t f
      | [] => .all

/-- The read requests of a lane's pieces. -/
def readAsks (tag : Nat) (ps : List Piece) : List Ask :=
  ps.filterMap (fun p => p.ep.map (fun ep => { tag := tag, ep := ep, addr := p.loc, len := p.len, op := .read }))

/-- The bytes of an answer, with those that its core held when it asked over them (R145). -/
def RemoteWait.read (r : RemoteWait) : List Byte :=
  (List.range r.req.len).map (fun i => match (r.ahead.filter (fun c => c.1 == i)).getLast? with
    | some c => c.2
    | none => r.bytes.getD i 0)

/-- The bytes of a lane's piece: a remote one from its answer, none where that failed. -/
def State.pieceBytes (s : State) (tag : Nat) (p : Piece) : Option (List Byte) :=
  match p.ep with
  | none => match apertureOf p.loc with
    | some (_, off) => some (s.apertureBytes off p.len)
    | none => some (s.bytesAt (dieOf s.g.core) p.loc p.len)
  | some ep => match s.answerOf { tag := tag, ep := ep, addr := p.loc, len := p.len, op := .read } with
    | some r => if r.status = some .ok then some r.read else none
    | none => none

/-- The bytes of a lane's pieces; zero in every byte where any part failed (R141). -/
def State.gather (s : State) (tag : Nat) (ps : List Piece) : List Byte :=
  let l := ps.map (s.pieceBytes tag)
  if l.all Option.isSome then l.flatMap (fun x => x.getD [])
  else List.replicate ((ps.map (fun p => p.len)).foldl (· + ·) 0) 0

/-! ### Replicated pages and releases (R161, R304) -/

/-- A sequenced write of one of these threads to these bytes that the local replica has not applied (R304). -/
def State.ownWriteWaits (s : State) (tids : List W32) (ps : List Piece) : Bool :=
  s.seqLog.any (fun w => w.threads.any tids.contains && w.asid == s.g.asid && w.pending.contains (dieOf s.g.core)
    && ps.any (fun p => p.ep.isNone && w.bytes.any (fun b => p.loc ≤ b.1 && b.1 < p.loc + p.len)))

/-- The ORD of a release (R54). -/
def ordReleases : Ord → Bool
  | .release | .acqrel => true
  | _ => false

/-- A release at a scope has to wait for replicas: all of them at package, domain and system scope, the local one at a
narrower scope (R304). DEDUCED, log 125. -/
def State.releaseWaits (s : State) (sc : Scope) : Bool :=
  match sc with
  | .package | .domain | .system => !s.seqLog.isEmpty
  | _ => s.seqLog.any (fun w => w.pending.contains (dieOf s.g.core))

/-- A release at domain or system scope drains the core's write-combining buffer (R161). -/
def State.releaseDrain (s : State) (sc : Scope) : State :=
  match sc with
  | .domain | .system => s.drainWcb (fun e => e.core == s.g.core)
  | _ => s

/-- A release at a scope: it waits for replicas (R304), drains the buffer (R161) and waits until what the core sends has
left the device (R305); then `k`. -/
def State.releasing (s : State) (sc : Scope) (k : State → Res) : Res :=
  if s.releaseWaits sc then .stall s .result
  else
    let s1 := s.releaseDrain sc
    if (sc == .domain || sc == .system) && s1.notLeft s1.g.core then .stall s1 .result else k s1

/-- Run the rest of a word as a release where its ORD says so. -/
def State.withRelease (s : State) (f : FmtM) (k : State → Res) : Res :=
  if ordReleases f.ord then s.releasing f.scope k else k s

/-- A store to these pieces has to wait, as a result stall: it needs an entry of a buffer that held entries fill (R229), or
its lines are moving (R329). -/
def State.storeWaits (s : State) (ps : List Piece) : Bool :=
  ps.any (fun p => s.moving p || (match p.ep with
    | some ep => s.wcbBlocked s.g.core && (linesOf p.loc p.len).any (fun l => !s.wcb.any (fun e => e.for s.g.core s.g.asid ep l))
    | none => false))

/-! ### Reading and writing for lanes -/

/-- Touch the translations of the accesses of several lanes. -/
def State.touchLanes (s : State) (wr : Bool) (l : List (Nat × List Piece)) : State :=
  l.foldl (fun s x => s.touchAll s.g.asid wr x.2) s

/-- The translations that an access of a lane makes before it fails a check: none where one of checks 1 to 3 fails (R140,
R322). -/
def State.laneSeen (s : State) (f : FmtM) (scale n align L : Nat) : State :=
  match s.g.laneAddr f scale L with
  | .error _ => s
  | .ok a => match s.checkEnds a n align with
    | .error _ => s
    | .ok p => s.seenRuns s.g.asid (s.runsOf (s.g.lane L).threadId p n)

/-- The translation of the address in a w triple, which a word makes before it fails a later check (R322). -/
def State.seenAt (s : State) (reg : Nat) : State :=
  match s.uniformAddr reg with
  | .error _ => s
  | .ok a => match s.checkEnds a 16 16 with
    | .error _ => s
    | .ok p => s.seenRuns s.g.asid (s.runsOf 0 p 16)

/-- The end of a word whose lane L fails: the lanes up to it, or after a translation fault all of them, have translated
their addresses (R140, R282, R322). DEDUCED, log 134. -/
def State.failLane (s : State) (f : FmtM) (scale n align : Nat) (ls : List Nat) (L : Nat) (e : Fail) : Res :=
  let all := match e with
    | .page _ => true
    | _ => false
  failRes ((ls.filter (fun M => all || decide (M ≤ L))).foldl (fun s M => s.laneSeen f scale n align M) s) (some L) e

/-- A per-lane load of n bytes: the checks, the answers, then `k` with the bytes of each lane; a HELPER lane that fails
a check reads zeros (R140, R141). -/
def State.loadLanes (s : State) (f : FmtM) (scale n : Nat) (k : State → (Nat → List Byte) → Res) : Res :=
  let act := s.g.active f.guard
  let chk (L : Nat) := s.laneAccess .read f scale n 1 L
  match lowestFail act chk with
  | some (L, e) => s.failLane f scale n 1 act L e
  | none =>
    let acc := passing (s.g.executing f.guard) chk
    if acc.any (fun x => s.ownWriteWaits [(s.g.lane x.1).threadId] x.2) then .stall s .result
    else
      match s.askAll (acc.flatMap (fun x => readAsks x.1 x.2)) (fun L => act.contains L) with
      | .wait s1 => .stall s1 .result
      | .fail L e => failRes s (some L) e
      | .all =>
        let s1 := s.touchLanes false acc
        k s1 (fun L => match acc.find? (fun x => x.1 == L) with
          | some x => s1.gather L x.2
          | none => List.replicate n 0)

/-- A store into an aperture is a release at system scope (R217). -/
def State.intoAperture (s : State) (ps : List Piece) (k : State → Res) : Res :=
  if ps.any (fun p => p.ep.isNone && (apertureOf p.loc).isSome) then s.releasing .system k else k s

/-- A per-lane store of n bytes in ascending lane order (R140, R149). -/
def State.storeLanes (s : State) (f : FmtM) (scale n : Nat) (data : Group → Nat → List Byte) : Res :=
  let act := s.g.active f.guard
  let chk (L : Nat) := s.laneAccess .write f scale n 1 L
  match lowestFail act chk with
  | some (L, e) => s.failLane f scale n 1 act L e
  | none =>
    s.withRelease f (fun s =>
      let acc := passing act chk
      if acc.any (fun x => s.storeWaits x.2) then .stall s .result
      else s.intoAperture (acc.flatMap (·.2)) (fun s =>
        let s1 := s.touchLanes true acc
        .done (acc.foldl (fun s x =>
          s.writePieces s.g.core s.g.asid s.g.slotSel.toNat [(s.g.lane x.1).threadId] x.2 (data s.g x.1)) s1)))

/-- The thread whose private window a uniform access would use: that of the lowest active lane. -/
def Group.uniThread (g : Group) (gd : Guard) : W32 := (g.lane ((g.active gd).headD 0)).threadId

end Sys2Proof.Machine
end

