-- ==== Sys2Proof/Machine/Control.lean ====
section
/-! DEFINITION. Control flow (R131 to R134), the ends of segments PARK and YIELD (R137, R138), NOP (R133), the hints
(R63, R64), and words with a reserved opcode (R62). -/

namespace Sys2Proof.Machine

/-- The target of a format J word: the header of its own clause plus eight times OFF36, modulo 2^32 (R53). -/
def jTarget (pc : W32) (off : BitVec 36) : W32 := w32 (wrapTo 32 ((pc.toNat : Int) + 8 * off.toInt))

/-- Lanes leave a clause by its last word: the active ones as `f` says, the others at the next clause (R129). -/
def Group.transfer (g : Group) (r : Run) (gd : Guard) (f : Nat → Lane → Lane) : Group :=
  let act := g.active gd
  g.mapLanes (below 32 g.runs) (fun L x => if act.contains L then f L x else { x with pc := r.next })

/-- A control transfer: its effect in each active lane (R131, R132). -/
def State.branch (s : State) (i : Instr) (gd : Guard) (f : Run → Nat → Lane → Lane) : Host.Outcome State Fault Refusal :=
  s.word i gd (fun s => match s.g.run with
    | none => .stop s
    | some r => .ended { s with g := s.g.transfer r gd (f r) })

/-- BRA (R131). -/
def execBra (f : FmtJ) (s : State) : Host.Outcome State Fault Refusal :=
  s.branch (.bra f) f.guard (fun r _ x => { x with pc := jTarget r.pc f.off })

/-- BRC (R131). -/
def execBrc (f : FmtJ) (s : State) : Host.Outcome State Fault Refusal :=
  s.branch (.brc f) f.guard (fun r _ x =>
    let n := x.vr f.dst.toNat - 1
    { x.vw f.dst.toNat n with pc := if n = 0 then r.next else jTarget r.pc f.off })

/-- CALL (R131). -/
def execCall (f : FmtJ) (s : State) : Host.Outcome State Fault Refusal :=
  s.branch (.call f) f.guard (fun r _ x => { x.vw 31 r.next with pc := jTarget r.pc f.off })

/-- Write MR in the active lanes (R131). -/
def State.setMr (s : State) (i : Instr) (gd : Guard) (f : W32 → W32) : Host.Outcome State Fault Refusal :=
  s.word i gd (fun s =>
    let pc := match s.g.run with
      | some r => r.pc
      | none => 0
    .done { s with g := s.g.mapLanes (s.g.active gd) (fun _ x => { x with mr := f pc }) })

/-- MEET (R131). -/
def execMeet (f : FmtJ) (s : State) : Host.Outcome State Fault Refusal :=
  s.setMr (.meet f) f.guard (fun pc => jTarget pc f.off)

/-- MEET.clear (R131). -/
def execMeetClear (f : FmtJ) (s : State) : Host.Outcome State Fault Refusal :=
  s.setMr (.meetClear f) f.guard (fun _ => noMeeting)

/-- An indirect transfer through a register of each lane; a target that is not a multiple of 8 raises the branch-target
trap for the lowest such lane (R132). -/
def State.indirect (s : State) (i : Instr) (gd : Guard) (reg : Nat) (link : Bool) : Host.Outcome State Fault Refusal :=
  s.word i gd (fun s => match s.g.run with
    | none => .stop s
    | some r =>
      let bad (L : Nat) : Option (Nat × Nat) :=
        if ((s.g.lane L).vr reg).toNat % 8 = 0 then none else some (0x04, L)
      match firstBad (s.g.active gd) bad with
      | some t => .trap s t
      | none => .ended { s with g := s.g.transfer r gd (fun _ x =>
          { (if link then x.vw 31 r.next else x) with pc := x.vr reg }) })
where firstBad (act : List Nat) (chk : Nat → Option (Nat × Nat)) : Option Trap :=
  (act.filterMap (fun L => (chk L).map (fun c => ({ cause := c.1, detail := c.2, lane := some L } : Trap)))).head?

/-- BRX (R132). -/
def execBrx (f : FmtE) (s : State) : Host.Outcome State Fault Refusal := s.indirect (.brx f) f.guard f.a.toNat false
/-- CALLX (R132). -/
def execCallx (f : FmtE) (s : State) : Host.Outcome State Fault Refusal := s.indirect (.callx f) f.guard f.a.toNat true
/-- RET (R132). -/
def execRet (f : FmtE) (s : State) : Host.Outcome State Fault Refusal := s.indirect (.ret f) f.guard 31 false

/-- NOP (R133). -/
def execNop (f : FmtE) (s : State) : Host.Outcome State Fault Refusal := s.word (.nop f) f.guard .done

/-- The lanes of a list end their threads: a lane becomes HELPER where its quad keeps a LIVE lane, and otherwise the
quad becomes ABSENT (R13). -/
def Group.endThreads (g : Group) (ls : List Nat) : Group :=
  let g1 := g.mapLanes ls (fun _ x => { x with status := .helper, hold := .none, mid := false, ypc := none })
  g1.mapLanes (allLanes.filter (fun L => (g1.quadLive (L / 4)).isEmpty)) (fun _ _ => Lane.off)

/-- EXIT (R134). -/
def execExit (f : FmtE) (s : State) : Host.Outcome State Fault Refusal :=
  s.word (.exit f) f.guard (fun s => match s.g.run with
    | none => .stop s
    | some r =>
      if s.g.trap.isSome then .trap s { cause := 0x2D, detail := 0, lane := none }
      else
        let act := s.g.active f.guard
        let s1 := s.retire
        let g1 := { s1.g.transfer r f.guard (fun _ x => x) with run := none, keep := none }
        let s2 := { s1 with g := g1.endThreads act }
        .stop (((s2.exitArrivals ((act.map (· / 4)).eraseDups)).leave r.pc).endBlocks s.g.asid s.g.launch))

/-- PARK: the values of A, and now() for PARK.time, are those of the issue at which a lane is first held (R137); a
PARK.flag whose wait word has bits 31:24 set raises the flag-word trap (R233). -/
def execPark (f : FmtE) (s : State) : Host.Outcome State Fault Refusal :=
  s.word (.park f) f.guard (fun s =>
    let a := s.g.wr f.a.toNat
    if s.g.trap.isNone ∧ f.mod = 3 ∧ 2 ^ 24 ≤ a.toNat then .trap s { cause := 0x22, detail := 0, lane := none }
    else s.segEnd f.guard false { val := a, deadline := s.now + a.toNat, waiter := 0, served := false })

/-- YIELD (R138). -/
def execYield (f : FmtE) (s : State) : Host.Outcome State Fault Refusal :=
  s.word (.yield f) f.guard (fun s => s.segEnd f.guard false Capture.zero)

/-! ### Hints and reserved opcodes -/

/-- The guard of a hint: its fields G, N and P, unchecked (R63). -/
def hintGuard (b : BitVec 54) : Guard := if b.getLsbD 48 then .on (b.getLsbD 47) (b.extractLsb' 44 3) else .always

/-- HINT 0: the active lanes' quads are preferred for forwarding at their next park (R64). -/
def execHint0 (b : BitVec 54) (s : State) : Host.Outcome State Fault Refusal :=
  s.word (.hint0 b) (hintGuard b) (fun s =>
    let m := maskOf 8 ((s.g.active (hintGuard b)).map (· / 4))
    .done { s with g := { s.g with preferred := s.g.preferred ||| m } })

/-- HINT 1: the number of groups resident on the core (R64). -/
def execHint1 (b : BitVec 54) (s : State) : Host.Outcome State Fault Refusal :=
  s.alu (.hint1 b) (hintGuard b) (b.extractLsb' 36 8).toNat 1 (fun g _ =>
    1 + (s.others.filter (fun x => x.core == g.core && !x.empty)).length)

/-- A hint the device does not implement retires without effect (R63). -/
def execHintUnimplemented (n : BitVec 6) (b : BitVec 54) (s : State) : Host.Outcome State Fault Refusal :=
  s.word (.hintUnimplemented n b) .always .done

/-- A word with a reserved or permanently illegal opcode raises the illegal-instruction trap under check 1, whatever its
guard (R58, R62). -/
def execReservedOpcode (w : W64) (s : State) : Host.Outcome State Fault Refusal :=
  .next (s.takeTrap { cause := 0x02, detail := (w.extractLsb' 54 10).toNat + 1024, lane := none })

end Sys2Proof.Machine
end

