-- ==== Sys2Proof/Machine/Sync.lean ====
section
/-! DEFINITION. Waiting on tokens (R162), transaction barriers (R166 to R170), and tile-handle queues (R171 to
R174). -/

namespace Sys2Proof.Machine

/-- AWAIT (R162). -/
def execAwait (f : FmtE) (s : State) : Host.Outcome State Fault Refusal :=
  s.word (.await f) f.guard (fun s => s.segEnd f.guard false Capture.zero)

/-! ### Barriers -/

/-- The phase of a barrier has changed: its waiters are made ready, here and at other devices (R166, R264). `old` none
stands for every phase (TBINIT). -/
def State.phaseChanged (s : State) (p : Piece) (old : Option Nat) : State :=
  let k0 := (barrierKey p 0).1
  let loc := (barrierKey p 0).2.toNat / 2 ^ 20
  let s1 := s.wake (fun r => r.wkind == 2 && r.wkey0 == k0 && r.wkey1.toNat / 2 ^ 20 == loc
    && (match old with
        | some o => bitsOf r.wkey1.toNat 16 4 == o
        | none => true)) 0
  let hit (r : RemoteReq) : Bool := p.ep.isNone && r.addr == p.loc
  (s1.barWaits.filter hit).foldl (fun s r => s.emit (.response r.id .ok (s.bytesAt 0 p.loc 16)))
    { s1 with barWaits := s1.barWaits.filter (fun r => !hit r) }

/-- The end of a barrier operation (R166): the barrier, and the phase it left. -/
def Barrier.complete (b : Barrier) (now : Nat) : Barrier × Option Nat :=
  if b.arrInit ≠ 0 ∧ b.arr = 0 ∧ b.sect = 0 then
    ({ b with phase := (b.phase + 1) % 16, arr := b.arrInit, last := w32 now }, some b.phase)
  else (b, none)

/-- Store a barrier and finish its operation (R166): at its home, the line's slice or the bank. -/
def State.putBarrier (s : State) (core asid : Nat) (p : Piece) (b : Barrier) : State :=
  let (b1, old) := b.complete s.now
  let s1 := s.writeLocal core asid true [] p (natBytes 16 b1.toNat)
  match old with
  | some o => s1.phaseChanged p (some o)
  | none => s1

/-- The end of an operation that changes no field of a barrier that stands as `b`: a phase whose counts are at zero
completes (R166). -/
def State.endBarrierOp (s : State) (core asid : Nat) (p : Piece) (b : Barrier) : State :=
  if p.ep.isSome || (b.complete s.now).2.isNone then s else s.putBarrier core asid p b

/-- Arrive with c after posting e sectors; none where it would overflow (R169). -/
def Barrier.arrive (b : Barrier) (c e : Nat) : Option Barrier :=
  if c = 0 ∨ b.arr < c ∨ (2 ^ 31 : Nat) ≤ b.sect + e then none else some { b with arr := b.arr - c, sect := b.sect + e }

/-- Post e sectors (R169). -/
def Barrier.expect (b : Barrier) (e : Nat) : Option Barrier :=
  if (2 ^ 31 : Nat) ≤ b.sect + e then none else some { b with sect := b.sect + e }

/-- A fresh barrier (R169). -/
def Barrier.init (n now : Nat) : Barrier := { arrInit := n, sect := 0, arr := n, phase := 0, last := w32 now }

/-- The block that holds a scratchpad byte. -/
def State.blockAt (s : State) (loc : Nat) : Option Block :=
  let core := (loc - 2 ^ 65) / 2 ^ 20
  let byte := (loc - 2 ^ 65) % 2 ^ 20
  s.blocks.find? (fun b => b.core == core && !b.saved && b.spadBase ≤ byte && byte < b.spadBase + b.spadSize)

/-- Take or release the slot of a barrier in the scratchpad window (R168); none where the quota is spent. -/
def State.tbarSlot (s : State) (win : Nat) (p : Piece) (n : Nat) : Option State :=
  if win ≠ 0xFE then some s
  else match s.blockAt p.loc with
    | none => some s
    | some b =>
      let off := (p.loc - 2 ^ 65) % 2 ^ 20 - b.spadBase
      if n = 0 then some (s.setBlock { b with tbars := b.tbars.filter (· != off) })
      else if b.tbars.contains off then some s
      else if b.tbarQuota ≤ b.tbars.length then none
      else some (s.setBlock { b with tbars := b.tbars ++ [off] })

/-- The scope of a barrier operation follows the barrier's location (R167). -/
def barrierScope (win : Nat) (p : Piece) : Scope :=
  if win = 0xFE then .block else if win = 0xFD then .gang else if p.ep.isSome then .domain else .package

/-- A barrier word: the address checks, the slot check where a live barrier is needed, and for a remote barrier the
answered request; `k` runs with the barrier as it stood. Every operation is a read-modify-write (R166), and an arrival a
release at the barrier's scope (R167 to R169). DEDUCED, log 56. -/
def State.barrierWord (s : State) (i : Instr) (gd : Guard) (reg : Nat) (live release : Bool) (op : RemoteOp)
    (k : State → Piece → Barrier → Res) : Host.Outcome State Fault Refusal :=
  s.word i gd (fun s =>
    match s.barrierAt reg .rmw with
    | .error e => failRes (s.seenAt reg) none e
    | .ok p =>
      let go (s0 : State) : Res :=
        let s := s0.touch s0.g.asid true p
        match p.ep with
        | none => k s p (s.barrierRead p)
        | some ep =>
          let a : Ask := { tag := 32, ep := ep, addr := p.loc, len := 16, op := op }
          match s.askAll [a] (fun _ => true) with
          | .wait s1 => .stall s1 .result
          | .fail _ e => failRes s none e
          | .all => k s p (Barrier.ofNat (match s.answerOf a with
              | some r => bytesNat (r.bytes.take 16)
              | none => 0))
      if live && !s.liveTbar (s.g.winOf reg) p then .trap s { cause := 0x18, detail := 0, lane := none }
      else if s.moving p then .stall s .result
      else if release then s.releasing (barrierScope (s.g.winOf reg) p) go
      else go s)

/-- The overflow trap of R169. -/
def overflowTrap (s : State) : Res := .trap s { cause := 0x19, detail := 0, lane := none }

/-- Store a local barrier; a remote one was changed at its home. DEDUCED, log 74. -/
def State.storeBarrier (s : State) (p : Piece) (b : Barrier) : State :=
  if p.ep.isSome then s else s.putBarrier s.g.core s.g.asid p b

/-- TBINIT (R168, R169). -/
def execTbinit (f : FmtE) (s : State) : Host.Outcome State Fault Refusal :=
  let n (s : State) : Nat := (s.g.wr f.b.toNat).toNat
  s.barrierWord (.tbinit f) f.guard f.a.toNat false false (.barrier 0 (n s) 0) (fun s p _ =>
    if 0xFFFFFF < n s then overflowTrap s
    else match s.tbarSlot (s.g.winOf f.a.toNat) p (n s) with
      | none => .trap s { cause := 0x18, detail := 0, lane := none }
      | some s1 => .done ((s1.storeBarrier p (Barrier.init (n s) s.now)).phaseChanged p none))

/-- Arrival with sectors (R169). -/
def State.arriveWord (s : State) (i : Instr) (f : FmtE) (e : State → Nat) : Host.Outcome State Fault Refusal :=
  let c (s : State) : Nat := (s.g.wr f.b.toNat).toNat
  s.barrierWord i f.guard f.a.toNat true true (.barrier 1 (c s) (e s)) (fun s p b =>
    match b.arrive (c s) (e s) with
    | none => overflowTrap s
    | some b1 =>
      let s1 := s.storeBarrier p b1
      .done { s1 with g := s1.g.ww f.dst.toNat (w32 b.phase) })

/-- TBARV (R169). -/
def execTbarv (f : FmtE) (s : State) : Host.Outcome State Fault Refusal :=
  s.arriveWord (.tbarv f) f (fun s => if f.mod = 1 then (s.g.wr f.c.toNat).toNat else 0)

/-- TBEXP (R169). -/
def execTbexp (f : FmtE) (s : State) : Host.Outcome State Fault Refusal :=
  let e (s : State) : Nat := (s.g.wr f.b.toNat).toNat
  s.barrierWord (.tbexp f) f.guard f.a.toNat true false (.barrier 2 0 (e s)) (fun s p b =>
    match b.expect (e s) with
    | none => overflowTrap s
    | some b1 => .done (s.storeBarrier p b1))

/-- TBWAIT (R170): the phase of a remote barrier is the one its answer carried. The operation ends as every other does,
after the quads that have arrived compared the phase (R169). -/
def execTbwait (f : FmtE) (s : State) : Host.Outcome State Fault Refusal :=
  s.barrierWord (.tbwait f) f.guard f.a.toNat true false (.barrier 3 0 0) (fun s p b =>
    match s.segEnd f.guard true { Capture.zero with val := w32 b.phase } with
    | .stop t => .stop (t.endBarrierOp s.g.core s.g.asid p b)
    | r => r)

/-- TBPHASE (R169). -/
def execTbphase (f : FmtE) (s : State) : Host.Outcome State Fault Refusal :=
  s.barrierWord (.tbphase f) f.guard f.a.toNat true false (.barrier 3 0 0) (fun s p b =>
    .done ({ s with g := s.g.ww f.dst.toNat (w32 (b.phase + b.arr * 16)) }.endBarrierOp s.g.core s.g.asid p b))

/-! ### Queues -/

/-- A queue's header (R171). -/
structure Queue where
  pushw : Nat
  popw : Nat
  allow : Nat
  cap : Nat
  tail : Nat
  head : Nat
deriving DecidableEq, Repr

def Queue.ofNat (x : Nat) : Queue :=
  { pushw := bitsOf x 104 8, popw := bitsOf x 96 8, allow := bitsOf x 64 31, cap := bitsOf x 32 9, tail := bitsOf x 16 16
    head := bitsOf x 0 16 }

def Queue.toNat (q : Queue) : Nat :=
  q.pushw % 256 * 2 ^ 104 + q.popw % 256 * 2 ^ 96 + q.allow % 2 ^ 31 * 2 ^ 64 + q.cap % 512 * 2 ^ 32
    + q.tail % 65536 * 65536 + q.head % 65536

/-- Occupancy (R171). -/
def Queue.occ (q : Queue) : Nat := (q.tail + 65536 - q.head) % 65536

/-- Location of a byte of a block's allocation. -/
def Block.at (b : Block) (off : Nat) : Nat := spadLoc b.core (b.spadBase + off)

def State.queueRead (s : State) (b : Block) (off : Nat) : Queue := Queue.ofNat (s.peek (b.at off) 16)
def State.queueWrite (s : State) (b : Block) (off : Nat) (q : Queue) : State := s.pokeN (b.at off) 16 q.toNat

/-- Location of ring entry i. -/
def ringAt (b : Block) (off i cap : Nat) : Nat := b.at (off + 16 + 4 * (i % cap))

/-- The selected block and queue number (R172). -/
def State.queueSel (s : State) (a : BitVec 8) : Except Trap (Block × Nat) :=
  let q := a.toNat % 32
  let core := s.g.core / 4 * 4 + bitsOf a.toNat 5 2
  let blk := if a.getLsbD 7 then s.thisBlock.bind (fun b => s.gangBlock b core) else s.thisBlock
  match blk with
  | none => .error (if a.getLsbD 7 then { cause := 0x07, detail := core, lane := none }
      else { cause := 0x1A, detail := a.toNat, lane := none })
  | some b => if b.queueQuota ≤ q then .error { cause := 0x1A, detail := a.toNat, lane := none } else .ok (b, q)

/-- The selected live queue with its header offset (R172, R173). -/
def State.queueLive (s : State) (a : BitVec 8) : Except Trap (Block × Nat × Nat × Queue) :=
  match s.queueSel a with
  | .error t => .error t
  | .ok (b, q) =>
    let e := b.qmap.get 0 q
    if e = 0 then .error { cause := 0x1B, detail := a.toNat, lane := none }
    else
      let h := s.queueRead b (e - 1)
      if h.cap = 0 then .error { cause := 0x1B, detail := a.toNat, lane := none } else .ok (b, q, e - 1, h)

/-- D13 of a record that waits on a queue (R264); the selector bits are those of the issue. -/
def queueKey (b : Block) (q sel seq : Nat) : Nat := b.num + q * 2 ^ 24 + sel * 2 ^ 29 + seq % 256 * 2 ^ 32

/-- Two keys name one waiter: the block, the queue and the sequence number. -/
def sameWaiter (x y : Nat) : Bool := x % 2 ^ 29 == y % 2 ^ 29 && x / 2 ^ 32 % 256 == y / 2 ^ 32 % 256

/-- A waiter has been served: the records keyed to it are made ready, and lanes still held at its word keep the value for
their record (R173, R174). -/
def State.waiterServed (s : State) (b : Block) (w : QWaiter) (v : W32) : State :=
  let key := queueKey b w.q 0 w.seq
  let s1 := s.wake (fun r => r.wkind == 3 && r.asid == b.asid && r.launch == b.launch && sameWaiter r.wkey0.toNat key) v
  s1.mapGroups (fun g =>
    if g.asid = b.asid ∧ g.launch = b.launch then
      { g with held := updWhere (fun h => h.waiter != 0 && sameWaiter h.waiter key)
                 (fun h => { h with served := true, val := v }) g.held }
    else g)

def Block.dropWaiter (b : Block) (w : QWaiter) : Block := { b with waiters := b.waiters.filter (fun x => x.seq != w.seq) }

/-- Serve the waiters of a queue, oldest first in each direction, as long as one may proceed (R174). -/
def State.serveQueue (s : State) (asid launch num q off : Nat) : Nat → State
  | 0 => s
  | fuel + 1 =>
    match s.blockOf asid launch num with
    | none => s
    | some b =>
      let h := s.queueRead b off
      let oldest (push : Bool) : Option QWaiter := b.waiters.find? (fun w => w.q == q && w.push == push)
      match (if h.occ < h.cap ∧ 0 < h.allow then oldest true else none) with
      | some w =>
        let s1 := s.pokeN (ringAt b off h.tail h.cap) 4 w.value.toNat
        let s2 := (s1.queueWrite b off { h with tail := h.tail + 1, allow := h.allow - 1, pushw := h.pushw - 1 }).setBlock
          (b.dropWaiter w)
        (s2.waiterServed b w 0).serveQueue asid launch num q off fuel
      | none =>
        match (if 0 < h.occ then oldest false else none) with
        | some w =>
          let v := w32 (s.peek (ringAt b off h.head h.cap) 4)
          let s2 := (s.queueWrite b off { h with head := h.head + 1, popw := h.popw - 1 }).setBlock (b.dropWaiter w)
          (s2.waiterServed b w v).serveQueue asid launch num q off fuel
        | none => s

def State.serve (s : State) (b : Block) (q off : Nat) : State := s.serveQueue b.asid b.launch b.num q off 130

/-- Push a value that may proceed, and serve (R173, R174). -/
def State.pushNow (s : State) (b : Block) (q off : Nat) (h : Queue) (v : W32) : State :=
  let s1 := s.pokeN (ringAt b off h.tail h.cap) 4 v.toNat
  (s1.queueWrite b off { h with tail := h.tail + 1, allow := h.allow - 1 }).serve b q off

/-- Pop a value that may proceed, and serve: the value and the state. -/
def State.popNow (s : State) (b : Block) (q off : Nat) (h : Queue) : W32 × State :=
  (w32 (s.peek (ringAt b off h.head h.cap) 4), (s.queueWrite b off { h with head := h.head + 1 }).serve b q off)

def Queue.canPush (h : Queue) : Bool := h.occ < h.cap && 0 < h.allow && h.pushw == 0
def Queue.canPop (h : Queue) : Bool := 0 < h.occ && h.popw == 0

/-- QINIT (R172). -/
def execQinit (f : FmtE) (s : State) : Host.Outcome State Fault Refusal :=
  s.word (.qinit f) f.guard (fun s =>
    let capW := (s.g.wr f.b.toNat).toNat
    let offW := (s.g.wr (f.b.toNat + 1)).toNat
    let allow := min (s.g.wr f.c.toNat).toNat (2 ^ 31 - 1)
    match s.queueSel f.a with
    | .error t => .trap s t
    | .ok (b, q) =>
      let bad (c d : Nat) : Res := .trap s { cause := c, detail := d, lane := none }
      let e := b.qmap.get 0 q
      let old := s.queueRead b (e - 1)
      if 512 ≤ capW ∨ 2 ^ 24 ≤ offW ∨ 256 < capW then bad 0x1C f.a.toNat
      else if 1 ≤ capW ∧ (offW % 16 ≠ 0 ∨ b.spadSize < offW + 16 + 4 * capW) then bad 0x08 offW
      else if e ≠ 0 ∧ (old.pushw ≠ 0 ∨ old.popw ≠ 0) then bad 0x1B f.a.toNat
      else if capW = 0 then
        let s1 := if e = 0 then s else s.queueWrite b (e - 1) { old with cap := 0 }
        .done (s1.setBlock { b with qmap := b.qmap.put 0 q 0 })
      else
        let s1 := s.queueWrite b offW { pushw := 0, popw := 0, allow := allow, cap := capW, tail := 0, head := 0 }
        .done ((s1.setBlock { b with qmap := b.qmap.put 0 q (offW + 1) }).serve b q offW))

/-- A push or pop that may not proceed becomes a waiter, and its lanes are held (R173); a 33rd waiter stalls as a token
stall. -/
def State.queueBlock (s : State) (f : FmtE) (b : Block) (q off : Nat) (h : Queue) (push : Bool) (v : W32) : Res :=
  let n := if push then h.pushw else h.popw
  if 32 ≤ n then .stall s .token
  else
    let seq := b.waiterSeq + 1
    let b1 := { b with waiterSeq := seq, waiters := b.waiters ++ [{ seq := seq, q := q, push := push, value := v }] }
    let h1 := if push then { h with pushw := h.pushw + 1 } else { h with popw := h.popw + 1 }
    let s1 := (s.setBlock b1).queueWrite b off h1
    s1.segEnd f.guard true
      { Capture.zero with waiter := queueKey b q (f.a.extractLsb' 5 3).toNat seq }

/-- The active lanes of a queue word that may proceed go on to the next clause (R173). -/
def State.queueGo (s : State) (gd : Guard) : Res :=
  match s.g.run with
  | none => .stop s
  | some r => .ended { s with g := s.g.transfer r gd (fun _ x => { x with pc := r.next }) }

/-- The scope of a queue operation: the executing block, or the gang (R172). -/
def queueScope (a : BitVec 8) : Scope := if a.getLsbD 7 then .gang else .block

/-- QPUSH (R173): a push is a release (R172). -/
def execQpush (f : FmtE) (s : State) : Host.Outcome State Fault Refusal :=
  s.word (.qpush f) f.guard (fun s =>
    let v := s.g.wr f.b.toNat
    if s.g.trap.isSome then .trap s { cause := 0x2D, detail := 0, lane := none }
    else match s.queueLive f.a with
    | .error t => .trap s t
    | .ok (b, q, off, h) =>
      if v = 0xFFFFFFFF then .trap s { cause := 0x1C, detail := f.a.toNat, lane := none }
      else s.releasing (queueScope f.a) (fun s =>
        if h.canPush then (s.pushNow b q off h v).queueGo f.guard else s.queueBlock f b q off h true v))

/-- QPOP (R173). -/
def execQpop (f : FmtE) (s : State) : Host.Outcome State Fault Refusal :=
  s.word (.qpop f) f.guard (fun s =>
    if s.g.trap.isSome then .trap s { cause := 0x2D, detail := 0, lane := none }
    else match s.queueLive f.a with
    | .error t => .trap s t
    | .ok (b, q, off, h) =>
      if h.canPop then
        let (v, s1) := s.popNow b q off h
        ({ s1 with g := s1.g.writeV (s1.g.executing f.guard) f.dst.toNat 1 (fun _ => v.toNat) }).queueGo f.guard
      else s.queueBlock f b q off h false 0)

/-- QTRY.pop (R173). -/
def execQtryPop (f : FmtE) (s : State) : Host.Outcome State Fault Refusal :=
  s.word (.qtryPop f) f.guard (fun s =>
    match s.queueLive f.a with
    | .error t => .trap s t
    | .ok (b, q, off, h) =>
      let (v, s1) := if h.canPop then s.popNow b q off h else (0xFFFFFFFF, s)
      .done { s1 with g := s1.g.writeV (s1.g.executing f.guard) f.dst.toNat 1 (fun _ => v.toNat) })

/-- QTRY.push (R173). -/
def execQtryPush (f : FmtE) (s : State) : Host.Outcome State Fault Refusal :=
  s.word (.qtryPush f) f.guard (fun s =>
    let v := s.g.wr f.b.toNat
    match s.queueLive f.a with
    | .error t => .trap s t
    | .ok (b, q, off, h) =>
      if v = 0xFFFFFFFF then .trap s { cause := 0x1C, detail := f.a.toNat, lane := none }
      else s.releasing (queueScope f.a) (fun s =>
        let s1 := if h.canPush then s.pushNow b q off h v else s
        .done { s1 with g := s1.g.writeV (s1.g.executing f.guard) f.dst.toNat 1 (fun _ => if h.canPush then 1 else 0) }))

/-- QGRANT (R174). -/
def execQgrant (f : FmtE) (s : State) : Host.Outcome State Fault Refusal :=
  s.word (.qgrant f) f.guard (fun s =>
    match s.queueLive f.a with
    | .error t => .trap s t
    | .ok (b, q, off, h) =>
      let a := min (h.allow + (s.g.wr f.b.toNat).toNat) (2 ^ 31 - 1)
      .done ((s.queueWrite b off { h with allow := a }).serve b q off))

/-- QSTAT (R174). -/
def execQstat (f : FmtE) (s : State) : Host.Outcome State Fault Refusal :=
  s.word (.qstat f) f.guard (fun s =>
    match s.queueLive f.a with
    | .error t => .trap s t
    | .ok (_, _, _, h) =>
      let v := if f.mod = 1 then h.allow else h.occ + h.popw * 2 ^ 16 + h.pushw * 2 ^ 24
      .done { s with g := s.g.ww f.dst.toNat (w32 v) })

end Sys2Proof.Machine
end

