-- ==== Sys2Proof/Machine/Math.lean ====
section
/-! DEFINITION. The functions of R118: each is evaluated to several hundred fraction bits, far more than FP32 keeps, and
rounded once. The assumption log says what this presumes of the exact values. -/

namespace Sys2Proof.Machine

/-- Fraction bits of the evaluation. DEDUCED, log 33. -/
def prec : Nat := 700

def one : Nat := 2 ^ prec

/-- Sum of the terms t_0 = t, t_{k+1} = step k t_k. -/
def series (step : Nat → Int → Int) : Nat → Nat → Int → Int → Int
  | 0, _, _, acc => acc
  | fuel + 1, k, t, acc => if t = 0 then acc else series step fuel (k + 1) (step k t) (acc + t)

/-- e^x for 0 ≤ x in units of 2^-prec. -/
def expFix (x : Nat) : Nat := (series (fun k t => t * x / (one * (k + 1) : Nat)) 400 0 one 0).toNat

/-- Σ z^(2k+1) / (2k+1), z = p / q: atanh z, or atan z with alternating signs. -/
def oddSeries (alt : Bool) (z : Int) : Int :=
  let z2 := z * z / one
  let rec go : Nat → Nat → Int → Int → Int
    | 0, _, _, acc => acc
    | fuel + 1, k, t, acc =>
      if t = 0 then acc
      else go fuel (k + 1) (if alt then -(t * z2 / one) else t * z2 / one) (acc + t / (2 * k + 1 : Nat))
  go 800 0 z 0

/-- ln 2. -/
def ln2Fix : Int := 2 * oddSeries false (one / 3 : Nat)

/-- π. -/
def piFix : Int := 16 * oddSeries true (one / 5 : Nat) - 4 * oddSeries true (one / 239 : Nat)

/-- cos and sin for 0 ≤ r in units of 2^-prec. -/
def cosFix (r : Int) : Int :=
  let r2 := r * r / one
  series (fun k t => -(t * r2 / (one * ((2 * k + 1) * (2 * k + 2)) : Nat))) 400 0 one 0

def sinFix (r : Int) : Int :=
  let r2 := r * r / one
  series (fun k t => -(t * r2 / (one * ((2 * k + 2) * (2 * k + 3)) : Nat))) 400 0 r 0

/-- A fixed-point result as a value that is not exact. -/
def FNum.ofFix (x : Int) : FNum := .fin (decide (x < 0)) x.natAbs (-(prec : Int)) true

/-- A value that rounds as a magnitude beyond every format, or below every format. -/
def FNum.huge : FNum := .fin false 1 1000 false
def FNum.tiny : FNum := .fin false 1 (-1000) false

/-- The fixed-point number of a finite value below 2^129 whose bits lie above 2^-prec. -/
def toFix (neg : Bool) (n : Nat) (e : Int) : Int :=
  let a := n * 2 ^ (e + prec).toNat
  if neg then -(a : Int) else a

/-- 2^x (R118). -/
def FNum.exp2 : FNum → FNum
  | .nan => .nan
  | .inf s => if s then .fin false 0 0 false else .inf false
  | .fin s n e _ =>
    if n = 0 then .fin false 1 0 false
    else if 12 ≤ e + n.log2 then (if s then .tiny else .huge)
    else
      let x := toFix s n e
      let k := x / one
      let f := (x % one).toNat
      if f = 0 then .fin false 1 k false
      else .fin false (expFix ((f * ln2Fix / one).toNat)) (k - prec) true

/-- log2 x (R118). -/
def FNum.log2 : FNum → FNum
  | .nan => .nan
  | .inf s => if s then .nan else .inf false
  | .fin s n e _ =>
    if n = 0 then .inf true
    else if s then .nan
    else
      let k : Int := e + n.log2
      if n = 2 ^ n.log2 then FNum.ofInt k
      else
        let m := n * 2 ^ (prec - n.log2)
        let z : Int := (m - one : Nat) * one / (m + one : Nat)
        .ofFix (k * one + 2 * oddSeries false z * one / ln2Fix)

/-- The quadrant of x > 0 and the rest below π/2 (R118: the argument is reduced exactly). -/
def quadrant (n : Nat) (e : Int) : Nat × Int :=
  let x := toFix false n e
  let h := piFix / 2
  ((x / h % 4).toNat, x % h)

/-- sin x and cos x (R118). -/
def FNum.sin : FNum → FNum
  | .fin s n e d =>
    if n = 0 then .fin s n e d
    else
      let (q, r) := quadrant n e
      let v := match q with
        | 0 => sinFix r
        | 1 => cosFix r
        | 2 => -(sinFix r)
        | _ => -(cosFix r)
      .ofFix (if s then -v else v)
  | _ => .nan

def FNum.cos : FNum → FNum
  | .fin _ n e _ =>
    if n = 0 then .fin false 1 0 false
    else
      let (q, r) := quadrant n e
      .ofFix (match q with
        | 0 => cosFix r
        | 1 => -(sinFix r)
        | 2 => -(cosFix r)
        | _ => sinFix r)
  | _ => .nan

/-- tanh x (R118). -/
def FNum.tanh : FNum → FNum
  | .nan => .nan
  | .inf s => .fin s 1 0 false
  | .fin s n e d =>
    if n = 0 then .fin s n e d
    else if 6 ≤ e + n.log2 then .fin s (2 ^ 64 - 1) (-64) true
    else
      let x := (toFix false n e) * 2
      let k := x / ln2Fix
      let er : Int := expFix (x % ln2Fix).toNat
      let ex := er * (2 ^ k.toNat : Nat)
      let v := (ex - one) * one / (ex + one)
      .ofFix (if s then -v else v)

end Sys2Proof.Machine
end

