-- ==== Sys2Proof/Machine/FloatOps.lean ====
section
/-! DEFINITION. Floating-point words: arithmetic and functions (R116 to R119), conversions (R120), packed arithmetic
(R121, R122). Every result is the exact one rounded once, with the generator steps of R93 and R94. -/

namespace Sys2Proof.Machine

/-- Draws of n roundings from a generator state, and the state they leave (R93, R94). -/
def draws : Nat → W32 → List Nat × W32
  | 0, x => ([], x)
  | n + 1, x =>
    let r := draws n (rngStep x)
    (rngDraw x :: r.1, r.2)

/-- The rounding mode of a word of the issuing group (R47, R86). -/
def Group.rm (g : Group) (code : Nat) : Rm := rmOf code (g.fmtDefault.toNat % 8)

/-- A word that rounds n times in each executing lane; under rs each rounding takes one step of the lane's generator,
whatever its operands (R93). -/
def State.rounding (s : State) (i : Instr) (gd : Guard) (code n dst k : Nat) (f : Group → Rm → List Nat → Nat → Nat) :
    Host.Outcome State Fault Refusal :=
  s.word i gd (fun s =>
    let m := s.g.rm code
    let lane (L : Nat) (x : Lane) : Lane :=
      if m = .rs then
        { x.vwN dst k (f s.g m (draws n x.rng).1 L) with rng := (draws n x.rng).2 }
      else x.vwN dst k (f s.g m [] L)
    .done { s with g := (s.g.mapLanes (s.g.executing gd) lane).touchKeep dst k })

/-- A one-result word whose value is exact before rounding (R89). -/
def State.float1 (s : State) (i : Instr) (f : FmtA) (x : Group → Rm → Nat → FNum) : Host.Outcome State Fault Refusal :=
  s.rounding i f.guard (f.mod.toNat % 8) 1 f.dst.toNat 1 (fun g m us L =>
    roundF (fmtOf f.ty) m (us.headD 0) f.sat (x g m L))

/-- FADD (R116). -/
def execFadd (f : FmtA) (s : State) : Host.Outcome State Fault Refusal :=
  s.float1 (.fadd f) f (fun g m L => FNum.add m (g.srcNum f.ty f.a L) (g.srcNum f.ty f.b L))
/-- FSUB (R116). -/
def execFsub (f : FmtA) (s : State) : Host.Outcome State Fault Refusal :=
  s.float1 (.fsub f) f (fun g m L => FNum.add m (g.srcNum f.ty f.a L) (g.srcNum f.ty f.b L).neg)
/-- FMUL (R116). -/
def execFmul (f : FmtA) (s : State) : Host.Outcome State Fault Refusal :=
  s.float1 (.fmul f) f (fun g _ L => FNum.mul (g.srcNum f.ty f.a L) (g.srcNum f.ty f.b L))
/-- FFMA (R116). -/
def execFfma (f : FmtA) (s : State) : Host.Outcome State Fault Refusal :=
  s.float1 (.ffma f) f (fun g m L =>
    FNum.add m (FNum.mul (g.srcNum f.ty f.a L) (g.srcNum f.ty f.b L)) (g.srcNum f.ty f.c L))
/-- FSCALE (R116). -/
def execFscale (f : FmtA) (s : State) : Host.Outcome State Fault Refusal :=
  s.float1 (.fscale f) f (fun g _ L => (g.srcNum f.ty f.a L).scale (g.srcVal .s32 f.b L))

/-- Rounding to an integral value keeps the sign of a zero result (R86, R116). -/
def FNum.integral (m : Rm) (u : Nat) : FNum → FNum
  | .fin s n e d =>
    let x := roundI m u s n e d
    .fin s x.natAbs 0 false
  | x => x

/-- FRND (R116). -/
def execFrnd (f : FmtA) (s : State) : Host.Outcome State Fault Refusal :=
  s.rounding (.frnd f) f.guard f.mod.toNat 1 f.dst.toNat 1 (fun g m us L =>
    roundF (fmtOf f.ty) .rz 0 false ((g.srcNum f.ty f.a L).integral m (us.headD 0)))

/-- FMIN and FMAX (R117). -/
def State.minmax (s : State) (i : Instr) (f : FmtA) (mx : Bool) : Host.Outcome State Fault Refusal :=
  s.alu i f.guard f.dst.toNat 1 (fun g L =>
    fminmax (fmtOf f.ty) mx (f.mod.getLsbD 3) (g.srcEnc f.ty f.a L) (g.srcEnc f.ty f.b L))

/-- FMIN (R117). -/
def execFmin (f : FmtA) (s : State) : Host.Outcome State Fault Refusal := s.minmax (.fmin f) f false
/-- FMAX (R117). -/
def execFmax (f : FmtA) (s : State) : Host.Outcome State Fault Refusal := s.minmax (.fmax f) f true

/-- FRCP (R118). -/
def execFrcp (f : FmtA) (s : State) : Host.Outcome State Fault Refusal :=
  s.float1 (.frcp f) f (fun g _ L => (g.srcNum f.ty f.a L).recip)
/-- FSQRT (R118). -/
def execFsqrt (f : FmtA) (s : State) : Host.Outcome State Fault Refusal :=
  s.float1 (.fsqrt f) f (fun g _ L => (g.srcNum f.ty f.a L).sqrt)

/-- A function rounded to FP32 and from there to the type (R118). -/
def State.func (s : State) (i : Instr) (f : FmtA) (fn : FNum → FNum) : Host.Outcome State Fault Refusal :=
  s.alu i f.guard f.dst.toNat 1 (fun g L =>
    let y := roundF (fmtOf .f32) .rne 0 false (fn (g.srcNum f.ty f.a L))
    if f.ty = .f32 then y else roundF (fmtOf f.ty) .rne 0 false (decodeF (fmtOf .f32) y))

/-- FRSQ (R118). -/
def execFrsq (f : FmtA) (s : State) : Host.Outcome State Fault Refusal := s.func (.frsq f) f FNum.rsqrt
/-- FEX2 (R118). -/
def execFex2 (f : FmtA) (s : State) : Host.Outcome State Fault Refusal := s.func (.fex2 f) f FNum.exp2
/-- FLG2 (R118). -/
def execFlg2 (f : FmtA) (s : State) : Host.Outcome State Fault Refusal := s.func (.flg2 f) f FNum.log2
/-- FSIN (R118). -/
def execFsin (f : FmtA) (s : State) : Host.Outcome State Fault Refusal := s.func (.fsin f) f FNum.sin
/-- FCOS (R118). -/
def execFcos (f : FmtA) (s : State) : Host.Outcome State Fault Refusal := s.func (.fcos f) f FNum.cos
/-- FTANH (R118). -/
def execFtanh (f : FmtA) (s : State) : Host.Outcome State Fault Refusal := s.func (.ftanh f) f FNum.tanh

/-- FCLASS (R119). -/
def execFclass (f : FmtA) (s : State) : Host.Outcome State Fault Refusal :=
  s.alu (.fclass f) f.guard f.dst.toNat 1 (fun g L => 2 ^ fclassBit (fmtOf f.ty) (g.srcEnc f.ty f.a L))

/-! ### Conversions (R90, R120) -/

/-- A float result in its register: narrow results have zeros above (R75). -/
def cvtFF (dst : Ty) (m : Rm) (u : Nat) (sat : Bool) (x : FNum) : Nat := roundF (fmtOf dst) m u sat x

/-- FCVT (R120). -/
def execFcvt (f : FmtA) (s : State) : Host.Outcome State Fault Refusal :=
  s.rounding (.fcvt f) f.guard f.mod.toNat 1 f.dst.toNat 1 (fun g m us L =>
    cvtFF f.ty m (us.headD 0) f.sat (g.srcNum (Enc.cTyOf f.c) f.a L))

/-- ICVT: to an integer type it takes no step (R120). -/
def execIcvt (f : FmtA) (s : State) : Host.Outcome State Fault Refusal :=
  let src := Enc.cTyOf f.c
  let val (g : Group) (L : Nat) : Int := tyVal src (g.srcInt src (tyRegs src) f.a L)
  if f.ty.isFloat then
    s.rounding (.icvt f) f.guard f.mod.toNat 1 f.dst.toNat 1 (fun g m us L =>
      cvtFF f.ty m (us.headD 0) f.sat (FNum.ofInt (val g L)))
  else
    s.alu (.icvt f) f.guard f.dst.toNat (tyRegs f.ty) (fun g L =>
      wrapTo 64 (tyVal f.ty (tyFit f.ty f.sat (tyBits f.ty) (val g L))))

/-- A float to an integer type, always within its range (R90). -/
def cvtFI (dst : Ty) (m : Rm) (u : Nat) (x : FNum) : Int :=
  match x with
  | .nan => 0
  | .inf s => if s then tyMin dst else tyMax dst
  | .fin s n e d => clampTo (tyMin dst) (tyMax dst) (roundI m u s n e d)

/-- FICVT (R120). -/
def execFicvt (f : FmtA) (s : State) : Host.Outcome State Fault Refusal :=
  s.rounding (.ficvt f) f.guard f.mod.toNat 1 f.dst.toNat (tyRegs f.ty) (fun g m us L =>
    wrapTo 64 (cvtFI f.ty m (us.headD 0) (g.srcNum (Enc.cTyOf f.c) f.a L)))

/-! ### Packed arithmetic (R121, R122) -/

/-- Element e of a packed operand; a short immediate serves both elements (R121). -/
def Group.srcPacked (g : Group) (t : Ty) (s : Src) (e L : Nat) : FNum :=
  match s with
  | .imm x => FNum.ofInt x.toInt
  | s => decodeF (fmtOf t) (bitsOf (g.src32 t s L) (16 * e) 16)

/-- A packed word: element 0 rounds first (R121). -/
def State.packed (s : State) (i : Instr) (f : FmtA) (x : Group → Rm → Nat → Nat → FNum) : Host.Outcome State Fault Refusal :=
  s.rounding i f.guard f.mod.toNat 2 f.dst.toNat 1 (fun g m us L =>
    roundF (fmtOf f.ty) m (us.getD 0 0) f.sat (x g m 0 L) + 65536 * roundF (fmtOf f.ty) m (us.getD 1 0) f.sat (x g m 1 L))

/-- PKADD (R121). -/
def execPkadd (f : FmtA) (s : State) : Host.Outcome State Fault Refusal :=
  s.packed (.pkadd f) f (fun g m e L => FNum.add m (g.srcPacked f.ty f.a e L) (g.srcPacked f.ty f.b e L))
/-- PKMUL (R121). -/
def execPkmul (f : FmtA) (s : State) : Host.Outcome State Fault Refusal :=
  s.packed (.pkmul f) f (fun g _ e L => FNum.mul (g.srcPacked f.ty f.a e L) (g.srcPacked f.ty f.b e L))
/-- PKFMA (R121). -/
def execPkfma (f : FmtA) (s : State) : Host.Outcome State Fault Refusal :=
  s.packed (.pkfma f) f (fun g m e L =>
    FNum.add m (FNum.mul (g.srcPacked f.ty f.a e L) (g.srcPacked f.ty f.b e L)) (g.srcPacked f.ty f.c e L))

/-- PKCVT: two FP32 values into a packed register; a narrow target keeps the other half (R122). -/
def execPkcvt (f : FmtA) (s : State) : Host.Outcome State Fault Refusal :=
  s.rounding (.pkcvt f) f.guard (f.mod.toNat % 8) 2 f.dst.toNat 1 (fun g m us L =>
    let x := cvtFF f.ty m (us.getD 0 0) f.sat (g.srcNum .f32 f.a L)
    let y := cvtFF f.ty m (us.getD 1 0) f.sat (g.srcNum .f32 f.b L)
    if tyBits f.ty = 16 then x + 65536 * y
    else
      let d := ((g.lane L).vr f.dst.toNat).toNat
      if f.mod.getLsbD 3 then d % 65536 + 65536 * (x + 256 * y) else d / 65536 * 65536 + (x + 256 * y))

end Sys2Proof.Machine
end

