-- ==== Sys2Proof/Machine/Lanes.lean ====
section
/-! DEFINITION. Compares and predicate words (R123, R124), quad words (R125), and group words (R126 to R128). -/

namespace Sys2Proof.Machine

/-! ### Compares and predicates -/

/-- ICMP (R123). -/
def execIcmp (f : FmtA) (s : State) : Host.Outcome State Fault Refusal :=
  s.aluP (.icmp f) f.guard f.dst.toNat (fun g L =>
    (g.lane L).combine f.c (condOrd f.mod.toNat (compare (g.srcVal f.ty f.a L) (g.srcVal f.ty f.b L))))
/-- FCMP (R123). -/
def execFcmp (f : FmtA) (s : State) : Host.Outcome State Fault Refusal :=
  s.aluP (.fcmp f) f.guard f.dst.toNat (fun g L =>
    (g.lane L).combine f.c (condFloat f.mod.toNat (g.srcNum f.ty f.a L) (g.srcNum f.ty f.b L)))
/-- PSET (R124). -/
def execPset (f : FmtA) (s : State) : Host.Outcome State Fault Refusal :=
  s.aluP (.pset f) f.guard f.dst.toNat (fun g L => g.src32 f.ty f.a L != 0)
/-- PAND (R124). -/
def execPand (f : FmtA) (s : State) : Host.Outcome State Fault Refusal :=
  s.aluP (.pand f) f.guard f.dst.toNat (fun g L => (g.lane L).predField f.a && (g.lane L).predField f.b)
/-- POR (R124). -/
def execPor (f : FmtA) (s : State) : Host.Outcome State Fault Refusal :=
  s.aluP (.por f) f.guard f.dst.toNat (fun g L => (g.lane L).predField f.a || (g.lane L).predField f.b)
/-- PXOR (R124). -/
def execPxor (f : FmtA) (s : State) : Host.Outcome State Fault Refusal :=
  s.aluP (.pxor f) f.guard f.dst.toNat (fun g L => xor ((g.lane L).predField f.a) ((g.lane L).predField f.b))
/-- PNOT (R124). -/
def execPnot (f : FmtA) (s : State) : Host.Outcome State Fault Refusal :=
  s.aluP (.pnot f) f.guard f.dst.toNat (fun g L => !(g.lane L).predField f.a)
/-- PMOV (R124). -/
def execPmov (f : FmtA) (s : State) : Host.Outcome State Fault Refusal :=
  s.aluP (.pmov f) f.guard f.dst.toNat (fun g L => (g.lane L).predField f.a)
/-- PPACK (R124). -/
def execPpack (f : FmtA) (s : State) : Host.Outcome State Fault Refusal :=
  s.alu (.ppack f) f.guard f.dst.toNat 1 (fun g L => (g.lane L).p.toNat)

/-- Write the predicates of a mask in each executing lane (R124). -/
def State.unpack (s : State) (i : Instr) (f : FmtA) (m : Group → Nat → BitVec 8) : Host.Outcome State Fault Refusal :=
  s.word i f.guard (fun s =>
    .done { s with g := s.g.mapLanes (s.g.executing f.guard) (fun L x =>
      { x with p := (x.p &&& ~~~(m s.g L)) ||| (BitVec.ofNat 8 (s.g.src32 f.ty f.a L) &&& m s.g L) }) })

/-- PUNPK (R124). -/
def execPunpk (f : FmtA) (s : State) : Host.Outcome State Fault Refusal := s.unpack (.punpk f) f (fun _ _ => 0xFF#8)
/-- PUNPK.mask (R124). -/
def execPunpkMask (f : FmtA) (s : State) : Host.Outcome State Fault Refusal :=
  s.unpack (.punpkMask f) f (fun g L => BitVec.ofNat 8 (g.src32 f.ty f.b L))

/-! ### Reductions (R125, R127) -/

/-- FP32 sum under rne. -/
def addF32 (a b : Nat) : Nat :=
  roundF (fmtOf .f32) .rne 0 false (FNum.add .rne (decodeF (fmtOf .f32) a) (decodeF (fmtOf .f32) b))

/-- One combining step of an op code under a type. -/
def redStep (op : Nat) (t : Ty) (a b : Nat) : Nat :=
  match op with
  | 0 => if t = .f32 then addF32 a b else (a + b) % 2 ^ 32
  | 1 => if t = .f32 then fminmax (fmtOf .f32) false false a b else if tyVal t b < tyVal t a then b else a
  | 2 => if t = .f32 then fminmax (fmtOf .f32) true false a b else if tyVal t a < tyVal t b then b else a
  | 3 => a &&& b
  | 4 => a ||| b
  | _ => a ^^^ b

/-- The identity of an op code under a type (R127). -/
def redIdentity (op : Nat) (t : Ty) : Nat :=
  match op with
  | 1 => if t = .f32 then 0x7F800000 else wrapTo 32 (tyMax t)
  | 2 => if t = .f32 then 0xFF800000 else wrapTo 32 (tyMin t)
  | 3 => 0xFFFFFFFF
  | _ => 0

/-- A NaN result is canonical (R79). DEDUCED, log 35. -/
def canonF (t : Ty) (x : Nat) : Nat := if t.isFloat && (decodeF (fmtOf t) x).isNan then (fmtOf t).nan else x

/-- Fold of a list, its first element the start (R127). -/
def redFold (op : Nat) (t : Ty) : List Nat → Nat
  | [] => redIdentity op t
  | x :: xs => canonF t (xs.foldl (redStep op t) x)

/-- The operand of a reduction as its type reads it. -/
def Group.srcRed (g : Group) (t : Ty) (s : Src) (L : Nat) : Nat :=
  if t = .f32 then g.srcEnc .f32 s L else g.src32 t s L

/-! ### Quad words (R125) -/

/-- The lane at a position of a lane's quad. -/
def quadAt (L j : Nat) : Nat := 4 * (L / 4) + j

/-- QSWZ (R125). -/
def execQswz (f : FmtA) (s : State) : Host.Outcome State Fault Refusal :=
  s.alu (.qswz f) f.guard f.dst.toNat 1 (fun g L =>
    g.src32 f.ty f.a (quadAt L (bitsOf f.b.field.toNat (2 * (L % 4)) 2)))
/-- QXCH (R125). -/
def execQxch (f : FmtA) (s : State) : Host.Outcome State Fault Refusal :=
  s.alu (.qxch f) f.guard f.dst.toNat 1 (fun g L => g.src32 f.ty f.a (quadAt L (L % 4 ^^^ (f.mod.toNat + 1))))
/-- QRED over the active positions of the quad (R125). -/
def execQred (f : FmtA) (s : State) : Host.Outcome State Fault Refusal :=
  s.alu (.qred f) f.guard f.dst.toNat 1 (fun g L =>
    redFold f.mod.toNat f.ty (((g.active f.guard).filter (fun M => M / 4 == L / 4)).map (g.srcRed f.ty f.a)))

/-- QDIFF (R125). -/
def execQdiff (f : FmtA) (s : State) : Host.Outcome State Fault Refusal :=
  s.rounding (.qdiff f) f.guard (f.mod.toNat % 8) 1 f.dst.toNat 1 (fun g m us L =>
    let bit := if f.mod.getLsbD 3 then 2 else 1
    let hi := quadAt L (L % 4 ||| bit)
    let lo := quadAt L (L % 4 &&& (3 - bit))
    roundF (fmtOf .f32) m (us.headD 0) false (FNum.add m (g.srcNum .f32 f.a hi) (g.srcNum .f32 f.a lo).neg))

/-- QHELP (R125). -/
def execQhelp (f : FmtA) (s : State) : Host.Outcome State Fault Refusal :=
  s.aluP (.qhelp f) f.guard f.dst.toNat (fun g L => (g.lane L).isHelper)

/-! ### Group words (R126 to R128) -/

/-- The active lanes that hold a predicate. -/
def Group.voters (g : Group) (f : FmtA) : List Nat := (g.active f.guard).filter (fun L => (g.lane L).predField f.a)

/-- GVOTE (R126). -/
def execGvote (f : FmtA) (s : State) : Host.Outcome State Fault Refusal :=
  s.aluP (.gvote f) f.guard f.dst.toNat (fun g _ =>
    let n := (g.voters f).length
    let all := (g.active f.guard).length
    match f.mod.toNat with
    | 0 => n == all
    | 1 => n != 0
    | _ => n == all || n == 0)
/-- GBALLOT (R126). -/
def execGballot (f : FmtA) (s : State) : Host.Outcome State Fault Refusal :=
  s.alu (.gballot f) f.guard f.dst.toNat 1 (fun g _ => (maskOf 32 (g.voters f)).toNat)
/-- GCOUNT (R126). -/
def execGcount (f : FmtA) (s : State) : Host.Outcome State Fault Refusal :=
  s.alu (.gcount f) f.guard f.dst.toNat 1 (fun g _ => (g.voters f).length)

/-- The lane whose per-lane result an executing lane receives: itself, or for a HELPER lane the lowest-numbered active
lane of its quad (R126). -/
def Group.resultLane (g : Group) (gd : Guard) (L : Nat) : Nat :=
  if (g.lane L).isHelper then ((g.active gd).filter (fun M => M / 4 == L / 4)).headD L else L

/-- The lane GSHFL names from a lane, as an integer (R126). -/
def shflFrom (md L b : Nat) : Int :=
  match md with
  | 0 => (b % 32 : Nat)
  | 1 => (L : Int) - b
  | 2 => (L : Int) + b
  | _ => (L ^^^ (b % 32) : Nat)

/-- GSHFL (R126). -/
def execGshfl (f : FmtA) (s : State) : Host.Outcome State Fault Refusal :=
  s.alu (.gshfl f) f.guard f.dst.toNat (tyRegs f.ty) (fun g L0 =>
    let L := g.resultLane f.guard L0
    let src := shflFrom f.mod.toNat L (g.src32 f.ty f.b L)
    let from' := if 0 ≤ src ∧ (g.active f.guard).contains src.toNat then src.toNat else L
    g.srcInt f.ty (tyRegs f.ty) f.a from')
/-- GBCST: b is uniform, from the lowest active lane (R126). -/
def execGbcst (f : FmtA) (s : State) : Host.Outcome State Fault Refusal :=
  s.alu (.gbcst f) f.guard f.dst.toNat (tyRegs f.ty) (fun g _ =>
    let low := g.lowest f.guard
    let b := g.src32 f.ty f.b low % 32
    g.srcInt f.ty (tyRegs f.ty) f.a (if (g.active f.guard).contains b then b else low))
/-- GRED (R127). -/
def execGred (f : FmtA) (s : State) : Host.Outcome State Fault Refusal :=
  s.alu (.gred f) f.guard f.dst.toNat 1 (fun g _ =>
    redFold f.mod.toNat f.ty ((g.active f.guard).map (g.srcRed f.ty f.a)))
/-- GSCAN (R127). -/
def execGscan (f : FmtA) (s : State) : Host.Outcome State Fault Refusal :=
  s.alu (.gscan f) f.guard f.dst.toNat 1 (fun g L0 =>
    let L := g.resultLane f.guard L0
    let upto := (g.active f.guard).filter (fun M => if f.mod.getLsbD 3 then M < L else M ≤ L)
    redFold (f.mod.toNat % 8) f.ty (upto.map (g.srcRed f.ty f.a)))
/-- GMATCH (R126). -/
def execGmatch (f : FmtA) (s : State) : Host.Outcome State Fault Refusal :=
  s.alu (.gmatch f) f.guard f.dst.toNat 1 (fun g L0 =>
    let L := g.resultLane f.guard L0
    let v (M : Nat) : Nat := g.srcInt f.ty (tyRegs f.ty) f.a M
    (maskOf 32 ((g.active f.guard).filter (fun M => v M == v L))).toNat)

/-- Value a is greater than value b in GTOPK's order (R128). -/
def topGreater (t : Ty) (a b : Nat) : Bool :=
  if t = .f32 then
    let x := decodeF (fmtOf .f32) a
    let y := decodeF (fmtOf .f32) b
    if x.isNan then !y.isNan else !y.isNan && x.cmp y == .gt
  else decide (tyVal t b < tyVal t a)

/-- Lanes in GTOPK's order; lanes of equal value stay in ascending order (R128). -/
def topOrder (t : Ty) (mn : Bool) (val : Nat → Nat) (ls : List Nat) : List Nat :=
  sortBy (fun x y => if mn then !topGreater t (val x) (val y) else !topGreater t (val y) (val x)) ls

/-- GTOPK (R128). -/
def execGtopk (f : FmtA) (s : State) : Host.Outcome State Fault Refusal :=
  s.alu (.gtopk f) f.guard f.dst.toNat 1 (fun g _ =>
    let k := g.src32 (if f.ty = .n32 then .n32 else .s32) f.b (g.lowest f.guard)
    let val (L : Nat) : Nat := g.srcRed f.ty f.a L
    (maskOf 32 ((topOrder f.ty (f.mod.getLsbD 0) val (g.active f.guard)).take k)).toNat)

end Sys2Proof.Machine
end

