-- ==== Sys2Proof/Machine/Memory.lean ====
section
/-! DEFINITION. Memory words: loads and stores (R148 to R150), nibble stores (R151), atomics (R152 to R154), prefetch,
zeroing and locks (R156 to R158), maintenance (R159, R160), and fences (R161). -/

namespace Sys2Proof.Machine

/-! ### Loads and stores -/

/-- The register image of loaded bytes, extended as R75 gives. -/
def loadVal (t : Ty) (bs : List Byte) : Nat :=
  let x := bytesNat bs
  if tyBits t < 32 then wrapTo 32 (tyVal t x) else x

/-- LD (R149). -/
def execLd (f : FmtM) (s : State) : Host.Outcome State Fault Refusal :=
  s.word (.ld f) f.guard (fun s =>
    s.loadLanes f (accSize f.ty) (accSize f.ty) (fun s rd =>
      .done { s with g := s.g.writeV (s.g.executing f.guard) f.dst.toNat (tyRegs f.ty) (fun L => loadVal f.ty (rd L)) }))

/-- ST (R149). -/
def execSt (f : FmtM) (s : State) : Host.Outcome State Fault Refusal :=
  s.word (.st f) f.guard (fun s =>
    s.storeLanes f (accSize f.ty) (accSize f.ty) (fun g L =>
      natBytes (accSize f.ty) ((g.lane L).vrN f.b.toNat (tyRegs f.ty))))

/-- Words of LDX and STX (R148). -/
def wideCount (md : Nat) : Nat := if md = 0 then 2 else if md = 1 then 4 else 8

/-- LDX (R149). -/
def execLdx (f : FmtM) (s : State) : Host.Outcome State Fault Refusal :=
  let n := wideCount f.mod.toNat
  s.word (.ldx f) f.guard (fun s =>
    s.loadLanes f 4 (4 * n) (fun s rd =>
      .done { s with g := s.g.writeV (s.g.executing f.guard) f.dst.toNat n (fun L => bytesNat (rd L)) }))

/-- STX (R149). -/
def execStx (f : FmtM) (s : State) : Host.Outcome State Fault Refusal :=
  let n := wideCount f.mod.toNat
  s.word (.stx f) f.guard (fun s =>
    s.storeLanes f 4 (4 * n) (fun g L => natBytes (4 * n) ((g.lane L).vrN f.b.toNat n)))

/-- A uniform access of n bytes after its checks (R139, R150). -/
def State.uniAccess (s : State) (f : FmtM) (acc : Acc) (n align : Nat) : Except Fail (List Piece) :=
  match noPriv (s.g.uniAddr f n) with
  | .error e => .error e
  | .ok a => s.checkAccess (s.g.uniThread f.guard) acc a n align

/-- The end of a uniform word that fails: its address has been translated where checks 1 to 3 pass (R322). -/
def State.failUni (s : State) (f : FmtM) (n align : Nat) (e : Fail) : Res :=
  match noPriv (s.g.uniAddr f n) with
  | .error _ => failRes s none e
  | .ok a => match s.checkEnds a n align with
    | .error _ => failRes s none e
    | .ok p => failRes (s.seenRuns s.g.asid (s.runsOf (s.g.uniThread f.guard) p n)) none e

/-- LDW (R149, R150). -/
def execLdw (f : FmtM) (s : State) : Host.Outcome State Fault Refusal :=
  s.word (.ldw f) f.guard (fun s =>
    match s.uniAccess f .read (accSize f.ty) 1 with
    | .error e => s.failUni f (accSize f.ty) 1 e
    | .ok ps =>
      if s.ownWriteWaits (s.g.threads f.guard) ps then .stall s .result
      else match s.askAll (readAsks 32 ps) (fun _ => true) with
        | .wait s1 => .stall s1 .result
        | .fail _ e => failRes s none e
        | .all =>
          let s1 := s.touchAll s.g.asid false ps
          .done { s1 with g := s1.g.wwN f.dst.toNat (tyRegs f.ty) (loadVal f.ty (s1.gather 32 ps)) })

/-- STW (R149, R150). -/
def execStw (f : FmtM) (s : State) : Host.Outcome State Fault Refusal :=
  s.word (.stw f) f.guard (fun s =>
    match s.uniAccess f .write (accSize f.ty) 1 with
    | .error e => s.failUni f (accSize f.ty) 1 e
    | .ok ps => s.withRelease f (fun s =>
      if s.storeWaits ps then .stall s .result
      else
        s.intoAperture ps (fun s =>
          let data := natBytes (accSize f.ty) (s.g.wrN f.b.toNat (tyRegs f.ty))
          .done ((s.touchAll s.g.asid true ps).writePieces s.g.core s.g.asid s.g.slotSel.toNat
            (s.g.threads f.guard) ps data))))

/-! ### Nibble stores (R151) -/

/-- A byte with one half replaced. -/
def nibbleByte (old : Byte) (high : Bool) (code : BitVec 4) : Byte :=
  if high then code ++ old.extractLsb' 0 4 else old.extractLsb' 4 4 ++ code

/-- The nibble of a lane. -/
def nibbleOp (g : Group) (f : FmtM) (L : Nat) : RemoteOp :=
  .nibble (((g.lane L).vr f.b.toNat).getLsbD 4) (((g.lane L).vr f.b.toNat).extractLsb' 0 4)

/-- Apply a lane's nibble to a local piece, at the line's home in the second level (R151). -/
def State.nibbleLocal (s : State) (g : Group) (f : FmtM) (L : Nat) (p : Piece) : State :=
  let x := (g.lane L).vr f.b.toNat
  s.writeLocal g.core g.asid true [(g.lane L).threadId] p
    [nibbleByte (s.mem.get 0 p.loc) (x.getLsbD 4) (x.extractLsb' 0 4)]

/-- NIBST (R151). On a fabric-target page each lane's nibble is a request that is answered (R229). -/
def execNibst (f : FmtM) (s : State) : Host.Outcome State Fault Refusal :=
  s.word (.nibst f) f.guard (fun s =>
    let act := s.g.active f.guard
    let chk (L : Nat) := s.laneAccess .rmw f 1 1 1 L
    match lowestFail act chk with
    | some (L, e) => s.failLane f 1 1 1 act L e
    | none => s.withRelease f (fun s =>
      let acc := passing act chk
      if acc.any (fun x => x.2.any s.moving) then .stall s .result else
      let asks := acc.flatMap (fun x => x.2.filterMap (fun p => p.ep.map (fun ep =>
        ({ tag := x.1, ep := ep, addr := p.loc, len := 1, op := nibbleOp s.g f x.1 } : Ask))))
      match s.askAll asks (fun _ => true) with
      | .wait s1 => .stall s1 .result
      | .fail L e => failRes s (some L) e
      | .all =>
        let s1 := s.touchLanes true acc
        .done (acc.foldl (fun s x => x.2.foldl (fun s p =>
          if p.ep.isSome then s else s.nibbleLocal s.g f x.1 p) s) s1)))

/-! ### Atomics (R152 to R154) -/

/-- The new value of an atomic (R152). -/
def atomNew (op : Nat) (t : Ty) (old b cmp : Nat) : Nat :=
  let w := tyBits t
  match op with
  | 0 => if t = .f32 then addF32 old b else (old + b) % 2 ^ w
  | 1 => if t = .f32 then fminmax (fmtOf .f32) false false old b else if tyVal t b < tyVal t old then b else old
  | 2 => if t = .f32 then fminmax (fmtOf .f32) true false old b else if tyVal t old < tyVal t b then b else old
  | 3 => old &&& b
  | 4 => old ||| b
  | 5 => old ^^^ b
  | 6 => b
  | _ => if old = cmp then b else old

/-- The runs of a lane's access before translation: what checks 1 to 4 leave (R153). -/
def State.atomPlace (s : State) (f : FmtM) (L : Nat) : Except Fail (Place × Nat) :=
  let n := accSize f.ty
  match s.g.laneAddr f n L with
  | .error e => .error e
  | .ok a => match s.checkEnds a n n with
    | .error e => .error e
    | .ok p =>
      let l := s.withWalk s.g.asid (s.runsOf (s.g.lane L).threadId p n)
      if !attrsAgree l then .error (.trap 0x0C 0)
      else .ok (p, match p with
        | .spad core _ => 2 ^ 80 + core
        | _ => match l with
          | r :: _ => (match r.2.2 with
            | .leaf _ lvl _ => r.1 / pageSize lvl * pageSize lvl
            | _ => r.1 / 65536 * 65536)
          | [] => 0)

/-- The lane's applied bit, with its destination written (R153, R154). -/
def Group.atomLane (g : Group) (f : FmtM) (L : Nat) (old : Nat) : Group :=
  let g1 := if f.mod.getLsbD 3 then g else g.writeV [L] f.dst.toNat (tyRegs f.ty) (fun _ => old)
  g1.mapLanes [L] (fun _ x => { x with applied := true })

/-- The request of an atomic to a remote endpoint. -/
def atomAsk (f : FmtM) (tag b cmp : Nat) (p : Piece) (ep : Nat) : Ask :=
  let n := accSize f.ty
  { tag := tag, ep := ep, addr := p.loc, len := n
    op := .atomic (f.mod.extractLsb' 0 3) f.ty (natBytes n b) (natBytes n (if f.mod.toNat % 8 = 7 then cmp else 0)) }

/-- How one lane's atomic goes. -/
inductive AtomRes where
  | ok (s : State) (old : Nat)
  | bad (s : State) (f : Fail)
  | wait (s : State)

/-- One atomic on checked pieces: locally at once, remotely by a request (R153, R305). The contention predictor's choice of
R155 is near, in the core's first-level cache. DESIGN CHOICE, log 135. -/
def State.atomOne (s0 : State) (f : FmtM) (tag : Nat) (tids : List W32) (ps : List Piece) (b cmp : Nat) : AtomRes :=
  let n := accSize f.ty
  let s := s0.touchAll s0.g.asid true ps
  match ps.find? (fun p => p.ep.isSome) with
  | some p =>
    match p.ep with
    | none => .wait s
    | some ep =>
      let a := atomAsk f tag b cmp p ep
      match s.askAll [a] (fun _ => true) with
      | .wait s1 => .wait s1
      | .fail _ e => .bad s e
      | .all =>
        .ok s (match s.answerOf a with
          | some r => bytesNat (r.bytes.take n)
          | none => 0)
  | none =>
    if ps.any s.moving then .wait s
    else
      let old := bytesNat (s.gather tag ps)
      .ok (s.writePieces s.g.core s.g.asid 0 tids ps (natBytes n (atomNew (f.mod.toNat % 8) f.ty old b cmp))) old

/-- The lanes of a page in ascending order; one that has been applied is skipped (R153, R154). DEDUCED, log 52. -/
def State.atomLanes (f : FmtM) : List (Nat × List Piece) → State → Except Res State
  | [], s => .ok s
  | (L, ps) :: rest, s =>
    if (s.g.lane L).applied then State.atomLanes f rest s
    else
      let k := tyRegs f.ty
      let n := accSize f.ty
      let b := (s.g.lane L).vrN f.b.toNat k % 2 ^ (8 * n)
      let cmp := (s.g.lane L).vrN f.dst.toNat k % 2 ^ (8 * n)
      match s.atomOne f L [(s.g.lane L).threadId] ps b cmp with
      | .wait s1 => .error (.stall s1 .result)
      | .bad s1 e => .error (failRes s1 (some L) e)
      | .ok s1 old => State.atomLanes f rest { s1 with g := s1.g.atomLane f L old }

/-- The pages in ascending order of their lowest lane: checks 5 to 7 of a page, then its lanes (R153). -/
def State.atomPages (f : FmtM) : List (List (Nat × Place)) → State → Except Res State
  | [], s => .ok s
  | pg :: rest, s =>
    let n := accSize f.ty
    let chk (L : Nat) : Except Fail (List Piece) := match pg.find? (fun x => x.1 == L) with
      | some x => s.checkPages s.g.asid (s.g.lane L).threadId .rmw x.2 n
      | none => .ok []
    match lowestFail (pg.map (·.1)) chk with
    | some (L, e) => .error (s.failLane f n n n (pg.map (·.1)) L e)
    | none =>
      match State.atomLanes f (passing (pg.map (·.1)) chk) s with
      | .error r => .error r
      | .ok s1 => State.atomPages f rest s1

/-- The lanes that an ATOM orders and checks: every active lane, but one already applied whose old value has been written
over its own address, which is then nowhere (R153, R154). -/
def Group.atomOrder (g : Group) (f : FmtM) : List Nat :=
  let lost := !f.mod.getLsbD 3 && decide (f.a.toNat < f.dst.toNat + tyRegs f.ty) && decide (f.dst.toNat < f.a.toNat + 3)
  (g.active f.guard).filter (fun L => !(lost && (g.lane L).applied))

/-- ATOM (R152 to R154): checks 1 to 4 of every lane, then page by page in the order of each page's lowest lane. -/
def execAtom (f : FmtM) (s : State) : Host.Outcome State Fault Refusal :=
  s.word (.atom f) f.guard (fun s =>
    let ls := s.g.atomOrder f
    match lowestFail ls (s.atomPlace f) with
    | some (L, e) => s.failLane f (accSize f.ty) (accSize f.ty) (accSize f.ty) ls L e
    | none => s.withRelease f (fun s =>
      let places := passing ls (s.atomPlace f)
      let keys := (places.map (fun x => x.2.2)).eraseDups
      let pages := keys.map (fun k => (places.filter (fun x => x.2.2 == k)).map (fun x => (x.1, x.2.1)))
      match State.atomPages f pages s with
      | .error r => r
      | .ok s1 => .done { s1 with g := s1.g.mapLanes (s1.g.active f.guard) (fun _ x => { x with applied := false }) }))

/-- ATOMW (R152). -/
def execAtomw (f : FmtM) (s : State) : Host.Outcome State Fault Refusal :=
  s.word (.atomw f) f.guard (fun s =>
    let n := accSize f.ty
    let k := tyRegs f.ty
    match s.uniAccess f .rmw n n with
    | .error e => s.failUni f n n e
    | .ok ps => s.withRelease f (fun s =>
      let b := s.g.wrN f.b.toNat k % 2 ^ (8 * n)
      let cmp := s.g.wrN f.dst.toNat k % 2 ^ (8 * n)
      match s.atomOne f 32 (s.g.threads f.guard) ps b cmp with
      | .wait s1 => .stall s1 .result
      | .bad s1 e => failRes s1 none e
      | .ok s1 old =>
        if f.mod.getLsbD 3 then .done s1 else .done { s1 with g := s1.g.wwN f.dst.toNat k old }))

/-! ### Prefetch and zeroing -/

/-- One line is brought into the second level with ownership for a later write (PREF.l2w). -/
def Hier.ownFill (h : Hier) (pin : PinTest) (now core : Nat) (t : Tag) : Hier :=
  let h1 := (h.own pin core t.asid t.vline t.line).fill2 pin now (dieOf core) t 0xF
  match h1.find2 (dieOf core) t.asid t.vline with
  | some x => if x.st = .shared then h1.put2 pin (dieOf core) { x with st := .exclusive } else h1
  | none => h1

/-- The lines of a piece are prefetched to a target: 0 the first level, 1 the second, 2 the second with ownership (R156);
the address is translated, and a line is filled where its page is cacheable. DEDUCED, log 136. -/
def State.prefetch (s : State) (target : Nat) (p : Piece) : State :=
  match p.pte with
  | none => s
  | some (e, lvl, addr) =>
    let s1 := s.seenPiece s.g.asid p
    if pteFt e || !pteC e then s1
    else
      { s1 with hier := (p.tags s.g.asid e lvl addr).foldl (fun h x =>
          if target = 2 then h.ownFill s.pinTest s.now s.g.core x.1
          else h.readLine s.pinTest s.now s.g.core (target == 0) x.1 0xF) s1.hier }

/-- PREF (R156): it changes no register and no memory value and raises no trap, so it looks at no operand's poison and no
backing slot; the lanes that fail a check are ignored. It reaches the line that holds its address. DEDUCED, log 53. -/
def execPref (f : FmtM) (s : State) : Host.Outcome State Fault Refusal :=
  .next (match s.g.run with
    | none => s
    | some _ =>
      let act := s.g.active f.guard
      if act.isEmpty then s.advance
      else if s.g.tokenWait (opcodeOf (.pref f)) (wordRegs (.pref f)) then s.stallOn .token
      else
        let s1 : State := { s with g := s.g.fillKeep (.pref f) act }
        ((passing act (fun L => s1.laneAccess .read f 4 1 1 L)).foldl (fun s x =>
          x.2.foldl (fun s p => s.prefetch f.mod.toNat p) s) s1).advance)

/-- Zero n bytes of a local piece (R315): zero lines on a cacheable page of HBM4E or module memory, which frees their data
ways and with them their pins (R316); zeros as data elsewhere. DEDUCED, log 137. -/
def State.zeroPiece (s : State) (tids : List W32) (p : Piece) : State :=
  match p.pte with
  | none => s.poke p.loc (List.replicate p.len 0)
  | some (e, lvl, addr) =>
    if pteC e && !pteRep e && hasZeroMap p.loc then
      let ts := p.tags s.g.asid e lvl addr
      let s1 := s.pokeData p.loc (List.replicate p.len 0)
      let c := s1.cx
      { s1 with hier := ts.foldl (fun h (x : Tag × BitVec 4) => h.zeroLine s.pinTest s.g.core x.1) s1.hier }.setCtx s.g.asid
        { c with pins := c.pins.filter (fun k => !ts.any (fun x => k % 2 ^ 73 == x.1.vline)) }
    else s.writeLocal s.g.core s.g.asid false tids p (List.replicate p.len 0)

/-- Zero-line packets of a remote range (R229, R315), behind the stores to each line that the core's buffer still holds
(R145, R157). -/
def State.zeroRemote (s : State) (ep loc len : Nat) : State :=
  (linesOf loc len).foldl (fun s l => (s.drainLines s.g.core s.g.asid ep [l]).sendCounted s.g.core
    { cls := .zeroLine, src := 0, dst := ep, dctx := s.cx.dctx, slot := s.g.slotSel.toNat, span := 0, gen := 0, stamp := 0
      addr := l * 128, bytes := [], count := 0, value := 0 }) s

/-- Checks of DCZ in a lane (R157). DEDUCED, log 54. -/
def State.dczAccess (s : State) (f : FmtM) (L : Nat) : Except Fail (List Piece) :=
  let len := ((s.g.lane L).vr f.b.toNat).toNat
  match s.g.laneAddr f 4 L with
  | .error e => .error e
  | .ok a =>
    match s.checkEnds a (max len 1) 1 with
    | .error e => .error e
    | .ok p =>
      if a % 128 ≠ 0 ∨ len % 128 ≠ 0 ∨ 65536 < len ∨ 65536 < a % 65536 + len then .error (.trap 0x0B 0)
      else if bitsOf a 72 8 = 0xFC then .error (.trap 0x06 0)
      else if len = 0 then .ok []
      else s.checkPages s.g.asid (s.g.lane L).threadId .write p len

/-- The end of a DCZ whose lane L fails: the lanes up to it, or all after a translation fault, have translated (R322). -/
def State.dczFail (s : State) (f : FmtM) (ls : List Nat) (L : Nat) (e : Fail) : Res :=
  let all := match e with
    | .page _ => true
    | _ => false
  let see (s : State) (M : Nat) : State :=
    let len := ((s.g.lane M).vr f.b.toNat).toNat
    if len = 0 ∨ 65536 < len ∨ len % 128 ≠ 0 then s else s.laneSeen f 4 len 128 M
  failRes ((ls.filter (fun M => all || decide (M ≤ L))).foldl see s) (some L) e

/-- DCZ (R157). -/
def execDcz (f : FmtM) (s : State) : Host.Outcome State Fault Refusal :=
  s.word (.dcz f) f.guard (fun s =>
    let act := s.g.active f.guard
    match lowestFail act (s.dczAccess f) with
    | some (L, e) => s.dczFail f act L e
    | none => s.withRelease f (fun s =>
      let acc := passing act (s.dczAccess f)
      if acc.any (fun x => x.2.any s.moving) then .stall s .result else
      let s1 := s.touchLanes true acc
      .done (acc.foldl (fun s x => x.2.foldl (fun s p => match p.ep with
        | some ep => s.zeroRemote ep p.loc p.len
        | none => s.zeroPiece [(s.g.lane x.1).threadId] p) s) s1)))

/-! ### Locks (R158, R316) -/

/-- Lines a context pins on a die: LOCK_USED (R158). -/
def Ctx.lockUsed (c : Ctx) (die : Nat) : Nat := (c.pins.filter (fun k => k / 2 ^ 73 == die)).length

/-- Pins of all contexts in the set of a line. -/
def State.setPins (s : State) (die asid line : Nat) : Nat :=
  ((s.ctxs.map (fun x => (x.2.pins.filter (fun k =>
    k / 2 ^ 73 == die && l2Place x.1 (k % 2 ^ 73) == l2Place asid line)).length)).foldl (· + ·) 0)

/-- A new pin of each line in turn fits its set. -/
def State.pinsFit (s : State) (die asid : Nat) : List Nat → Bool
  | [] => true
  | l :: ls =>
    s.setPins die asid l < 8 &&
      (let c := s.ctx asid
       s.setCtx asid { c with pins := pinKey die l :: c.pins }).pinsFit die asid ls

/-- A lock word: its address and count, and the translations of its lines (R158). `k` gives the status and the state.
DEDUCED, log 55. -/
def State.lockWord (s : State) (i : Instr) (f : FmtM) (k : State → Nat → List Nat → Nat × State) :
    Host.Outcome State Fault Refusal :=
  s.word i f.guard (fun s =>
    let n := (s.g.wr f.b.toNat).toNat
    let give (s : State) (st : Nat) : Res := .done { s with g := s.g.ww f.dst.toNat (w32 st) }
    match s.g.uniAddr f 4 with
    | .error e => failRes s none e
    | .ok a =>
      let l0 := a / 128
      if n = 0 ∨ 4096 < n then give s 4
      else
        let lines := (List.range n).map (fun j => l0 + j)
        if (lines.any (fun l => let w := l / 2 ^ 65
                                (0xFC ≤ w && w ≤ 0xFE) || 0x100 ≤ w)) then give s 3
        else
          let pages := (lines.map (fun l => l / 512)).eraseDups
          let l := s.withWalk s.g.asid (pages.map (fun p => (p * 65536, 1)))
          match permitAll .read l with
          | .error e => failRes (s.seenRuns s.g.asid (pages.map (fun p => (p * 65536, 1)))) none e
          | .ok ps =>
            let s1 := ps.foldl (fun s p => s.seenPiece s.g.asid p) s
            if ps.any (fun p => match p.pte with
                | some (e, _, _) => !pteC e || pteRep e
                | none => true) then give s1 3
            else
              let r := k s1 (dieOf s.g.core) lines
              give r.2 r.1)

/-- The lines that are to be pinned get data ways of the die's second level (R316). -/
def State.pinLines (s : State) (die : Nat) (vlines : List Nat) : State :=
  vlines.foldl (fun s l => match s.lookup s.g.asid (l * 128) with
    | .leaf e lvl addr =>
      { s with hier := s.hier.pinLine s.pinTest s.now die (tagFor s.g.asid l (leafPa e lvl (l * 128) / 128) e lvl addr) }
    | _ => s) s

/-- LLOCK (R158). -/
def execLlock (f : FmtM) (s : State) : Host.Outcome State Fault Refusal :=
  s.lockWord (.llock f) f (fun s die lines =>
    let c := s.cx
    let new := lines.filter (fun l => !c.pins.contains (pinKey die l))
    if c.lockQuota < c.lockUsed die + new.length then (1, s)
    else if !s.pinsFit die s.g.asid new then (2, s)
    else
      let s1 := s.setCtx s.g.asid { c with pins := c.pins ++ new.map (pinKey die) }
      (0, s1.pinLines die lines))

/-- LULOCK (R158). -/
def execLulock (f : FmtM) (s : State) : Host.Outcome State Fault Refusal :=
  s.lockWord (.lulock f) f (fun s die lines =>
    let c := s.cx
    let st := if lines.all (fun l => c.pins.contains (pinKey die l)) then 0 else 5
    (st, s.setCtx s.g.asid { c with pins := c.pins.filter (fun k => !(lines.map (pinKey die)).contains k) }))

/-! ### Maintenance (R159, R160) -/

/-- A word that makes a token waits while the group holds eight (R20). -/
def State.tokenRoom (s : State) (k : State → Res) : Res :=
  if Config.maxTokens ≤ s.g.pend.length then .stall s .token else k s

/-- A maintenance word: its token, and the operation on its range (R159). -/
def State.maintWord (s : State) (i : Instr) (f : FmtM) (opc : Nat) (all : Bool) : Host.Outcome State Fault Refusal :=
  s.word i f.guard (fun s => s.tokenRoom (fun s =>
    match s.g.uniAddr f 4 with
    | .error e => failRes s none e
    | .ok a =>
      let win := bitsOf a 72 8
      let len := (s.g.wr f.b.toNat).toNat
      let give (v : Nat) : Res := .done { s with g := s.g.ww f.dst.toNat (w32 v) }
      if win = 0xFC then failRes s none (.trap 0x06 0)
      else if opc = 0x0D6 ∧ (win = 0xFD ∨ win = 0xFE) then failRes s none (.trap 0x06 0)
      else if win = 0xFD ∨ win = 0xFE then give 0
      else if len = 0 then give (if opc = 0x0D6 then (maskOf 32 s.dies).toNat else 0)
      else
        let (ser, _, s1) := s.newToken f.dst.toNat 6
        .done { s1 with maintOps := s1.maintOps ++
          [{ id := ser, core := s.g.core, asid := s.g.asid, opc := opc, all := all, base := BitVec.ofNat 80 a, len := len
             value := 0, waits := none }] }))

/-- CWB (R159). -/
def execCwb (f : FmtM) (s : State) : Host.Outcome State Fault Refusal := s.maintWord (.cwb f) f 0x0D4 (f.mod.getLsbD 0)
/-- CINV (R159). -/
def execCinv (f : FmtM) (s : State) : Host.Outcome State Fault Refusal := s.maintWord (.cinv f) f 0x0D5 (f.mod.getLsbD 0)
/-- ICINV (R159, R160). -/
def execIcinv (f : FmtM) (s : State) : Host.Outcome State Fault Refusal := s.maintWord (.icinv f) f 0x0D6 true

/-! ### Fences (R161) -/

/-- FENCE (R161): a release waits for replicas and drains the write-combining buffer; in a machine that applies its
accesses in order nothing else is left to order. -/
def execFence (f : FmtE) (s : State) : Host.Outcome State Fault Refusal :=
  s.word (.fence f) f.guard (fun s =>
    let sc := scopeOfCode (f.imm.extractLsb' 0 3)
    if (f.imm.extractLsb' 3 2).toNat = 1 then .done s else s.releasing sc .done)

end Sys2Proof.Machine
end

