-- ==== Sys2Proof/Machine/Tiles.lean ====
section
/-! DEFINITION. Accumulator tiles (R24 to R27, R175): clearing, loading and storing (R193 to R195), conversion (R196),
quantisation (R197, R198), row results (R200, R201), bindings (R202 to R204), and tile predicates (R205). -/

namespace Sys2Proof.Machine

/-! ### Entries -/

/-- Key of entry (0, 0) of a physical tile of a core (R24). -/
def accKey (core tile : Nat) : Nat := core * 65536 + tile * 1024

/-- Key of entry (0, 0) of slot t (R25). -/
def Group.tileKey (g : Group) (t : Nat) : Nat := accKey g.core (g.tbase + t)

/-- The entries of a store from a key, listed. -/
def sliceOf {α : Type} (m : SMap α) (key n : Nat) : SMap α := m.filter (fun c => key ≤ c.1 && c.1 < key + n)

/-- The 1,024 entries of a tile, row by row. -/
def State.tileRaw (s : State) (key : Nat) : List W32 :=
  let m := sliceOf s.acc key 1024
  (List.range 1024).map (fun n => m.get 0 (key + n))

/-- Which entries of a tile are poisoned (R380). -/
def State.tilePoison (s : State) (key : Nat) : List Bool :=
  let m := sliceOf s.accPoison key 1024
  (List.range 1024).map (fun n => m.get false (key + n))

/-- Replace a run of entries by those listed. -/
def spliceOf {α : Type} (m : SMap α) (key n : Nat) (new : SMap α) : SMap α :=
  m.filter (fun c => c.1 < key) ++ new ++ m.filter (fun c => key + n ≤ c.1)

/-- Replace a run of entries by those listed in it, one after another: the form of a store stays canonical. -/
def overlayOf {α : Type} [DecidableEq α] (d : α) (m : SMap α) (key n : Nat) (new : SMap α) : SMap α :=
  (new.filter (fun c => key ≤ c.1 && c.1 < key + n)).foldl (fun m c => m.put d c.1 c.2)
    (m.filter (fun c => c.1 < key || key + n ≤ c.1))

/-- Numbered entries that are not the default. -/
def listed {α : Type} [DecidableEq α] (d : α) (key : Nat) (l : List α) : SMap α :=
  (l.mapIdx (fun i x => (key + i, x))).filter (fun c => c.2 ≠ d)

/-- Write a whole tile: its entries and which of them are poisoned. -/
def State.setTile (s : State) (key : Nat) (l : List W32) (bad : List Bool) : State :=
  { s with acc := spliceOf s.acc key 1024 (listed 0 key (l.take 1024))
           accPoison := spliceOf s.accPoison key 1024 (listed false key (bad.take 1024)) }

/-- The stand-in for a poisoned entry (R178): the canonical NaN, or the INT32 minimum. -/
def poisonWord (int : Bool) : W32 := if int then 0x80000000#32 else 0x7FC00000#32

/-- The entries as an instruction reads them, poisoned ones by their stand-in. DEDUCED, log 46. -/
def State.tileWords (s : State) (key : Nat) (int : Bool) : List W32 :=
  List.zipWith (fun x b => if b then poisonWord int else x) (s.tileRaw key) (s.tilePoison key)

/-- The imprecise matrix-poison fault (R178, R402). -/
def State.matrixPoison (s : State) (t addr : Nat) : State := s.impreciseGroup 0x43 [w64 t] addr

/-- Report poisoned entries that an instruction reads. -/
def State.reportPoison (s : State) (t : Nat) : State :=
  if (s.tilePoison (s.g.tileKey t)).any id then s.matrixPoison t 0 else s

/-! ### Tile instructions (R175) -/

/-- A tile instruction on slot t: `touches` says that it reads or writes the slot's entries. -/
def State.tileWord (s : State) (i : Instr) (gd : Guard) (t : Nat) (touches : Bool) (body : State → Res) :
    Host.Outcome State Fault Refusal :=
  s.word i gd (fun s =>
    if touches && (s.g.tilePend.get 0 t != 0 || s.g.reload.getLsbD t) then .stall s .tile
    else if s.g.tiles ≤ t then .trap s { cause := 0x10, detail := t, lane := none }
    else if !s.g.kr t then .done s
    else body s)

/-- The uniform address in a w triple from w register n, 16-byte aligned, outside the private window (R193).
DEDUCED, log 58. -/
def State.tileAddr (s : State) (n align : Nat) : Except Fail Nat :=
  match s.uniformAddr n with
  | .error e => .error e
  | .ok a => if a % align ≠ 0 then .error (.trap 0x0B 0) else .ok a

/-- A stride operand: 0 means 128; a multiple of 16 (R193). -/
def strideOf (x : W32) : Except Fail Nat :=
  let n := if x.toNat = 0 then 128 else x.toNat
  if n % 16 ≠ 0 then .error (.trap 0x0B 0) else .ok n

/-- The address at an offset, in the base's window (R18, R54). -/
def windowAdd (base off : Nat) : Except Fail Nat :=
  let a := (base + off) % 2 ^ 80
  if bitsOf a 72 8 ≠ bitsOf base 72 8 then .error (.trap 0x06 0) else .ok a

/-- Checks 2 to 7 of R140 on n bytes at base + off. -/
def State.partAccess (s : State) (gd : Guard) (acc : Acc) (base n : Nat) (off : Nat) : Except Fail (List Piece) :=
  match windowAdd base off with
  | .error e => .error e
  | .ok a => s.checkAccess (s.g.uniThread gd) acc a n 1

/-- Read parts at base + off, each n bytes, for the offsets of a list: the checks of all, the answers of remote
endpoints, then `k` with the bytes of each (R193). -/
def State.readParts (s : State) (gd : Guard) (base n : Nat) (offs : List Nat) (k : State → List (List Byte) → Res) : Res :=
  let chk (j : Nat) := s.partAccess gd .read base n (offs.getD j 0)
  let ids := List.range offs.length
  match lowestFail ids chk with
  | some (_, e) => failRes s none e
  | none =>
    let acc := passing ids chk
    if acc.any (fun x => s.ownWriteWaits (s.g.threads gd) x.2) then .stall s .result
    else
      match s.askAll (acc.flatMap (fun x => readAsks (64 + x.1) x.2)) (fun _ => true) with
      | .wait s1 => .stall s1 .result
      | .fail _ e => failRes s none e
      | .all =>
        let s1 := s.touchLanes false acc
        k s1 (acc.map (fun x => s1.gather (64 + x.1) x.2))

/-- Local location of byte `off` of an access. -/
def pieceLoc : List Piece → Nat → Option Nat
  | [], _ => none
  | p :: ps, off => if off < p.len then (if p.ep.isSome then none else some (p.loc + off)) else pieceLoc ps (off - p.len)

/-- Mark the sectors of bytes of an access as poisoned (R401). -/
def State.poisonBytes (s : State) (ps : List Piece) (offs : List Nat) : State :=
  { s with poison := offs.foldl (fun m o => match pieceLoc ps o with
      | some loc => m.put false (loc / 32) true
      | none => m) s.poison }

/-- Store parts at base + off; `bad` gives the byte offsets of a part that take poison (R193). -/
def State.storeParts (s : State) (gd : Guard) (base n : Nat) (offs : List Nat) (data : List (List Byte × List Nat)) : Res :=
  let chk (j : Nat) := s.partAccess gd .write base n (offs.getD j 0)
  let ids := List.range offs.length
  match lowestFail ids chk with
  | some (_, e) => failRes s none e
  | none =>
    let acc := passing ids chk
    if acc.any (fun x => s.storeWaits x.2) then .stall s .result
    else s.intoAperture (acc.flatMap (·.2)) (fun s =>
      .done (acc.foldl (fun s x =>
        let d := data.getD x.1 ([], [])
        (s.writePieces s.g.core s.g.asid s.g.slotSel.toNat (s.g.threads gd) x.2 d.1).poisonBytes x.2 d.2)
        (s.touchLanes true acc)))

/-- Row offsets of a tile in memory. -/
def rowOffs (stride : Nat) : List Nat := (List.range 32).map (fun i => stride * i)

/-- The rows of a tile as bytes, with the offsets of poisoned entries. DEDUCED, log 61. -/
def State.tileRows (s : State) (key : Nat) : List (List Byte × List Nat) :=
  let ws := s.tileRaw key
  let ps := s.tilePoison key
  (List.range 32).map (fun i =>
    (((ws.drop (32 * i)).take 32).flatMap (fun x => natBytes 4 x.toNat)
      , (below 32 (fun c => ps.getD (32 * i + c) false)).map (fun c => 4 * c)))

/-- The 32-bit words of bytes. -/
def wordsOf : Nat → List Byte → List W32
  | 0, _ => []
  | n + 1, bs => w32 (bytesNat (bs.take 4)) :: wordsOf n (bs.drop 4)

/-- No poisoned entry. -/
def clean : List Bool := []

/-! ### Clearing, loading and storing (R193) -/

/-- ACLR (R193, R100). -/
def execAclr (f : FmtE) (s : State) : Host.Outcome State Fault Refusal :=
  s.tileWord (.aclr f) f.guard f.dst.toNat true (fun s => .done (s.setTile (s.g.tileKey f.dst.toNat) [] clean))

/-- Load slot t from 32 rows at base, then do the rest (R193). -/
def State.loadTile (s : State) (gd : Guard) (t base stride : Nat) (k : State → State) : Res :=
  s.readParts gd base 128 (rowOffs stride) (fun s rows =>
    .done (k (s.setTile (s.g.tileKey t) (rows.flatMap (wordsOf 32)) clean)))

/-- ALD (R193). -/
def execAld (f : FmtE) (s : State) : Host.Outcome State Fault Refusal :=
  s.tileWord (.ald f) f.guard f.dst.toNat true (fun s =>
    match strideOf (s.g.wr f.b.toNat), s.tileAddr f.a.toNat 16 with
    | .error e, _ => failRes s none e
    | _, .error e => failRes s none e
    | .ok st, .ok a => s.loadTile f.guard f.dst.toNat a st id)

/-- Store slot t as 32 rows at base (R193). -/
def State.storeTile (s : State) (gd : Guard) (t base stride : Nat) : Res :=
  s.storeParts gd base 128 (rowOffs stride) (s.tileRows (s.g.tileKey t))

/-- AST (R193). -/
def execAst (f : FmtE) (s : State) : Host.Outcome State Fault Refusal :=
  s.tileWord (.ast f) f.guard f.dst.toNat true (fun s =>
    match strideOf (s.g.wr f.b.toNat), s.tileAddr f.a.toNat 16 with
    | .error e, _ => failRes s none e
    | _, .error e => failRes s none e
    | .ok st, .ok a => s.storeTile f.guard f.dst.toNat a st)

/-! ### Images (R194, R195) -/

/-- Bytes of an image region. -/
def imageBytes : Nat := 4112

/-- The bytes of a tile's image under a budget, and how many are written (R194). DEDUCED, log 146. -/
def tileImage (ws : List W32) (budget : Nat) : List Byte × Nat :=
  let nz := ws.filter (fun x => x ≠ 0)
  let size := roundUp (144 + 4 * nz.length) 16
  let row (i : Nat) : Nat := (maskOf 32 (below 32 (fun c => ws.getD (32 * i + c) 0 != 0))).toNat
  if size ≤ budget then
    (natBytes 4 nz.length ++ natBytes 4 size ++ natBytes 8 0 ++ (List.range 32).flatMap (fun i => natBytes 4 (row i))
      ++ nz.flatMap (fun x => natBytes 4 x.toNat) ++ List.replicate (size - 144 - 4 * nz.length) 0, size)
  else
    (natBytes 4 (2 ^ 31 + nz.length) ++ natBytes 4 imageBytes ++ natBytes 8 0 ++ ws.flatMap (fun x => natBytes 4 x.toNat)
      , imageBytes)

/-- Where the poisoned entries of a tile lie in its image. -/
def imagePoison (ws : List W32) (ps : List Bool) (dense : Bool) : List Nat :=
  (below 1024 (fun n => ps.getD n false)).map (fun n =>
    if dense then 16 + 4 * n else 144 + 4 * ((ws.take n).filter (fun x => x ≠ 0)).length)

/-- ASTS: the whole region is checked, and the image written (R194). -/
def execAsts (f : FmtE) (s : State) : Host.Outcome State Fault Refusal :=
  s.tileWord (.asts f) f.guard f.dst.toNat true (fun s =>
    let budget := (s.g.wr f.b.toNat).toNat
    match s.tileAddr f.a.toNat 16 with
    | .error e => failRes s none e
    | .ok a =>
      match s.partAccess f.guard .write a imageBytes 0 with
      | .error e => failRes s none e
      | .ok _ =>
        if budget % 16 ≠ 0 then .trap s { cause := 0x0B, detail := 0, lane := none }
        else
          let ws := s.tileRaw (s.g.tileKey f.dst.toNat)
          let (bs, n) := tileImage ws budget
          s.storeParts f.guard a n [0] [(bs, imagePoison ws (s.tilePoison (s.g.tileKey f.dst.toNat)) (n == imageBytes))])

/-- The set bits of an image's bitmap. -/
def bitmapOf (bs : List Byte) : List Bool :=
  (List.range 1024).map (fun n => (bs.getD (16 + 4 * (n / 32) + n % 32 / 8) 0).getLsbD (n % 8))

/-- Spread values over the set positions. -/
def spread : List Bool → List W32 → List W32
  | [], _ => []
  | false :: bs, vs => 0 :: spread bs vs
  | true :: bs, [] => 0 :: spread bs []
  | true :: bs, v :: vs => v :: spread bs vs

/-- The entries of an image; none where R195 finds it malformed. -/
def imageTile (bs : List Byte) : Option (List W32) :=
  let w0 := bytesNat (bs.take 4)
  let size := bytesNat ((bs.drop 4).take 4)
  let nnz := bitsOf w0 0 11
  let esc := bitOf w0 31
  if bitsOf w0 11 20 ≠ 0 ∨ bytesNat ((bs.drop 8).take 8) ≠ 0 ∨ 1024 < nnz then none
  else if esc then
    if size ≠ imageBytes then none else some (wordsOf 1024 (bs.drop 16))
  else if size ≠ roundUp (144 + 4 * nnz) 16 then none
  else
    let bm := bitmapOf bs
    if (bm.filter id).length ≠ nnz then none else some (spread bm (wordsOf nnz (bs.drop 144)))

/-- ALD.sparse (R195). -/
def execAldSparse (f : FmtE) (s : State) : Host.Outcome State Fault Refusal :=
  s.tileWord (.aldSparse f) f.guard f.dst.toNat true (fun s =>
    match s.tileAddr f.a.toNat 16 with
    | .error e => failRes s none e
    | .ok a => s.readParts f.guard a imageBytes [0] (fun s rows =>
        match imageTile (rows.headD []) with
        | none => .trap s { cause := 0x13, detail := 0, lane := none }
        | some ws => .done (s.setTile (s.g.tileKey f.dst.toNat) ws clean)))

/-! ### Conversion (R196) -/

/-- The 24-bit draws of a lane's 32 entries of a column, row by row, and the state they leave (R94). -/
def Group.colDraws (g : Group) (gd : Guard) (m : Rm) (c : Nat) : Option (List Nat × W32) :=
  if m = .rs ∧ (g.executing gd).contains c then some (draws 32 (g.lane c).rng) else none

/-- Mode and draw of entry (i, c): a lane that is not executing rounds under rne (R94, R196). -/
def entryMode (m : Rm) (d : List (Option (List Nat × W32))) (i c : Nat) : Rm × Nat :=
  if m = .rs then
    match d.getD c none with
    | some x => (.rs, x.1.getD i 0)
    | none => (.rne, 0)
  else (m, 0)

/-- The steps taken: each executing lane's generator after 32 of them. -/
def Group.afterDraws (g : Group) (d : List (Option (List Nat × W32))) : Group :=
  g.mapLanes (below 32 (fun c => (d.getD c none).isSome)) (fun c x => match d.getD c none with
    | some y => { x with rng := y.2 }
    | none => x)

/-- One entry converted (R196). -/
def acvtEntry (md : Nat) (sat : Bool) (scale : FNum) (m : Rm) (u : Nat) (x : W32) : W32 :=
  match md with
  | 0 => BitVec.ofInt 32 (cvtFI .s32 m u (FNum.mul (decodeF (fmtOf .f32) x.toNat) scale))
  | 1 => w32 (roundF (fmtOf .f32) m u sat (FNum.mul (FNum.ofInt x.toInt) scale))
  | _ => w32 (roundF (fmtOf .f32) m u sat (FNum.mul (decodeF (fmtOf .f32) x.toNat) scale))

/-- ACVT (R196). -/
def execAcvt (f : FmtE) (s : State) : Host.Outcome State Fault Refusal :=
  s.tileWord (.acvt f) f.guard f.dst.toNat true (fun s =>
    let m := s.g.rm (f.imm.toNat % 8)
    let d := (List.range 32).map (s.g.colDraws f.guard m)
    let scale := decodeF (fmtOf .f32) (s.g.wr f.b.toNat).toNat
    let key := s.g.tileKey f.dst.toNat
    let ps := s.tilePoison key
    let ws := (s.tileRaw key).mapIdx (fun n x =>
      if ps.getD n false then poisonWord (f.mod.toNat == 0)
      else
        let (m1, u) := entryMode m d (n / 32) (n % 32)
        acvtEntry f.mod.toNat (f.imm.getLsbD 3) scale m1 u x)
    let s1 := (s.reportPoison f.dst.toNat).setTile key ws clean
    .done { s1 with g := s1.g.afterDraws d })

/-! ### Quantisation (R197, R198) -/

/-- Round up in magnitude from `lo` with the fraction num / den (R86, R93). -/
def ratUp (m : Rm) (u : Nat) (neg : Bool) (lo num den : Nat) : Bool :=
  if num = 0 then false
  else match m with
    | .rne => decide (den < 2 * num) || (2 * num == den && lo % 2 == 1)
    | .rz => false
    | .ru => !neg
    | .rd => neg
    | .rs =>
      let fl := num * 2 ^ 24 / den
      let ceil := if num * 2 ^ 24 % den = 0 then fl else fl + 1
      if neg then decide (2 ^ 24 ≤ u + ceil) else decide (u < fl)

/-- The quotient of two magnitudes n × 2^e and k × 2^g as a fraction of naturals. -/
def ratio (n : Nat) (e : Int) (k : Nat) (g : Int) : Nat × Nat :=
  let q := min e g
  (n * 2 ^ (e - q).toNat, k * 2 ^ (g - q).toNat)

/-- n × 2^e divided by d and rounded to BF16 toward +∞; n × 2^e is not negative. -/
def quotBf16 (n : Nat) (e : Int) (d : Nat) : Nat :=
  let k := d.log2 + 64
  roundF (fmtOf .bf16) .ru 0 false (.fin false (n * 2 ^ k / d) (e - k) (decide (n * 2 ^ k % d ≠ 0)))

/-- Eight times the magnitudes of a code type (R83). -/
def mags8 (ctype : Nat) : List Nat :=
  match ctype with
  | 1 => [0, 4, 8, 12, 16, 24, 32, 48]
  | 2 => [0, 1, 2, 4, 8, 16, 32, 64]
  | _ => [0, 8, 16, 24, 32, 48, 64, 128]

/-- The magnitude index nearest num / den (R198): only ru and rd choose within the signed set. -/
def magIndex (l : List Nat) (m : Rm) (u : Nat) (neg : Bool) (num den : Nat) : Nat :=
  let v := 8 * num
  let top := l.getD 7 0 * den
  if top ≤ v then 7
  else
    let lo := ((List.range 7).filter (fun i => l.getD i 0 * den ≤ v)).length - 1
    let a := l.getD lo 0 * den
    let b := l.getD (lo + 1) 0 * den
    if ratUp m u (neg && m != .rs) lo (v - a) (b - a) then lo + 1 else lo

/-- The magnitude of a finite value. -/
def FNum.mag : FNum → Option (Bool × Nat × Int)
  | .fin s n e _ => some (s, n, e)
  | _ => none

/-- The larger of two finite values by the order of the reals, as signed (n, e) pairs. -/
def realMax (x y : FNum) : FNum := if FNum.cmp x y == .lt then y else x
def realMin (x y : FNum) : FNum := if FNum.cmp y x == .lt then y else x

/-- Scale, zero offset, and codes of a block (R198); `md` gives mode and draw of each entry. -/
def quantBlock (ctype : Nat) (md : Nat → Rm × Nat) (x : List FNum) : Nat × Int × List Nat :=
  let fin := x.filter (fun v => v.mag.isSome)
  let one : Nat := 0x3F80
  if ctype ≠ 0 then
    let qmax := if ctype = 1 then 6 else if ctype = 2 then 8 else 16
    let amax := fin.foldl (fun m v => match v with
      | .fin _ n e d => realMax m (.fin false n e d)
      | _ => m) (.fin false 0 0 false)
    let sc := match amax.mag with
      | some (_, n, e) => if n = 0 then one else quotBf16 n e qmax
      | none => one
    let codes := x.mapIdx (fun i v =>
      match v, (decodeF (fmtOf .bf16) sc).mag with
      | .inf neg, _ => (if neg then 8 else 0) + 7
      | .fin neg n e _, some (_, k, g) =>
        let (num, den) := ratio n e k g
        (if neg then 8 else 0) + magIndex (mags8 ctype) (md i).1 (md i).2 neg num den
      | _, _ => 0)
    (sc, 0, codes)
  else
    let (lo, hi) := match fin with
      | v :: vs => (vs.foldl realMin v, vs.foldl realMax v)
      | [] => (.fin false 0 0 false, .fin false 0 0 false)
    let sc := match (FNum.add .rne hi lo.neg).mag with
      | some (_, n, e) => if n = 0 then one else quotBf16 n e 15
      | none => one
    let intQ (m : Rm) (u : Nat) (v : FNum) : Int :=
      match v.mag, (decodeF (fmtOf .bf16) sc).mag with
      | some (neg, n, e), some (_, k, g) =>
        let (num, den) := ratio n e k g
        let q := num / den + (if ratUp m u neg (num / den) (num % den) den then 1 else 0)
        if neg then -(q : Int) else q
      | _, _ => 0
    let zoff := clampTo (-128) 127 (intQ .rne 0 lo.neg)
    let codes := x.mapIdx (fun i v => match v with
      | .nan => (clampTo 0 15 zoff).toNat
      | .inf neg => if neg then 0 else 15
      | v => (clampTo 0 15 (intQ (md i).1 (md i).2 v + zoff)).toNat)
    (sc, zoff, codes)

/-- The 16 code bytes of a block (R75). -/
def codeBytes (l : List Nat) : List Byte :=
  (List.range 16).map (fun i => BitVec.ofNat 8 (l.getD (2 * i) 0 + 16 * l.getD (2 * i + 1) 0))

/-- AQUANT (R197, R198). -/
def execAquant (f : FmtE) (s : State) : Host.Outcome State Fault Refusal :=
  s.tileWord (.aquant f) f.guard f.dst.toNat true (fun s =>
    let ctype := f.imm.toNat % 4
    let col := f.imm.getLsbD 2
    let m := s.g.rm (f.imm.toNat / 8 % 8)
    let strides := (s.g.wr f.b.toNat).toNat
    let bst := if strides % 65536 = 0 then 16 else 16 * (strides % 65536)
    let sst := if strides / 65536 = 0 then 4 else 4 * (strides / 65536)
    match s.tileAddr f.a.toNat 16, s.tileAddr f.c.toNat 4 with
    | .error e, _ => failRes s none e
    | _, .error e => failRes s none e
    | .ok cb, .ok sb =>
      let d := (List.range 32).map (s.g.colDraws f.guard m)
      let ws := s.tileWords (s.g.tileKey f.dst.toNat) false
      let blk (j : Nat) : Nat × Int × List Nat :=
        quantBlock ctype (fun n => if col then entryMode m d n j else entryMode m d j n)
          ((List.range 32).map (fun n => decodeF (fmtOf .f32) (ws.getD (if col then 32 * n + j else 32 * j + n) 0).toNat))
      let blocks := (List.range 32).map blk
      let word (b : Nat × Int × List Nat) : Nat := b.1 + ctype * 65536 + wrapTo 8 b.2.1 * 2 ^ 18
      let so := (List.range 32).map (fun j => sst * j)
      let chk (j : Nat) := s.partAccess f.guard .write sb 4 (so.getD j 0)
      let co := (List.range 32).map (fun j => bst * j)
      let chk0 (j : Nat) := s.partAccess f.guard .write cb 16 (co.getD j 0)
      match lowestFail (List.range 32) chk0, lowestFail (List.range 32) chk with
      | some (_, .page ps), some (_, .page qs) => .page s (ps ++ qs).eraseDups
      | some (_, e), _ => failRes s none e
      | none, some (_, e) => failRes s none e
      | none, none =>
        match s.storeParts f.guard cb 16 co (blocks.map (fun b => (codeBytes b.2.2, []))) with
        | .done s1 =>
          match s1.storeParts f.guard sb 4 so (blocks.map (fun b => (natBytes 4 (word b), []))) with
          | .done s2 =>
            let s3 := s2.reportPoison f.dst.toNat
            .done { s3 with g := s3.g.afterDraws d }
          | _ => .stall s .result
        | _ => .stall s .result)

/-! ### Row results (R200, R201) -/

/-- Column x of a row precedes column y (R200). -/
def topBefore (int : Bool) (a b : W32) (x y : Nat) : Bool :=
  if int then decide (b.toInt.natAbs < a.toInt.natAbs) || (a.toInt.natAbs == b.toInt.natAbs && decide (x < y))
  else
    let p := decodeF (fmtOf .f32) a.toNat
    let q := decodeF (fmtOf .f32) b.toNat
    match p.isNan, q.isNan with
    | true, true => decide (x < y)
    | true, false => true
    | false, true => false
    | false, false =>
      let ma := a.toNat % 2 ^ 31
      let mb := b.toNat % 2 ^ 31
      decide (mb < ma) || (ma == mb && decide (x < y))

/-- The mask of the k columns of a row that come first. -/
def topMask (int : Bool) (row : List W32) (k : Nat) : BitVec 32 :=
  let order := sortBy (fun x y => x == y || topBefore int (row.getD x 0) (row.getD y 0) x y) (List.range 32)
  maskOf 32 (order.take k)

/-- Row i of a tile's entries. -/
def rowOf (ws : List W32) (i : Nat) : List W32 := (ws.drop (32 * i)).take 32

/-- ATOPK (R200). -/
def execAtopk (f : FmtE) (s : State) : Host.Outcome State Fault Refusal :=
  s.tileWord (.atopk f) f.guard f.a.toNat true (fun s =>
    let int := f.imm.getLsbD 0
    let k := f.imm.toNat / 2 % 64
    let key := s.g.tileKey f.a.toNat
    let ws := s.tileWords key int
    let masks := (List.range 32).map (fun i => topMask int (rowOf ws i) k)
    let s1 := s.reportPoison f.a.toNat
    let s2 := if f.mod.getLsbD 0 then
        s1.setTile key ((s1.tileRaw key).mapIdx (fun n x => if (masks.getD (n / 32) 0).getLsbD (n % 32) then x else 0))
          ((s1.tilePoison key).mapIdx (fun n b => b && (masks.getD (n / 32) 0).getLsbD (n % 32)))
      else s1
    .done { s2 with g := s2.g.writeV (s2.g.executing f.guard) f.dst.toNat 1 (fun L => (masks.getD L 0).toNat) })

/-- The reduction of a row (R201). -/
def rowReduce (op : Nat) (int : Bool) (row : List Nat) : Nat :=
  let t : Ty := if int then .s32 else .f32
  match op with
  | 0 => redFold 0 t row
  | 1 => redFold 2 t row
  | 2 => redFold 1 t row
  | _ =>
    if int then (row.map (fun x => (sextN x 32).natAbs)).foldl max 0
    else
      let ok := row.filter (fun x => !(decodeF (fmtOf .f32) x).isNan)
      if ok.isEmpty then 0x7FC00000 else (ok.map (fun x => x % 2 ^ 31)).foldl max 0

/-- AREDR (R201). -/
def execAredr (f : FmtE) (s : State) : Host.Outcome State Fault Refusal :=
  s.tileWord (.aredr f) f.guard f.a.toNat true (fun s =>
    let int := f.imm.getLsbD 0
    let ws := s.tileWords (s.g.tileKey f.a.toNat) int
    let s1 := s.reportPoison f.a.toNat
    .done { s1 with g := s1.g.writeV (s1.g.executing f.guard) f.dst.toNat 1 (fun L =>
      rowReduce f.mod.toNat int ((rowOf ws L).map (·.toNat))) })

/-! ### Bindings (R27, R202 to R204) -/

/-- The address of a handle's tile image (R27). -/
def State.imageAddr (s : State) (asid : Nat) (h : W32) : Option Nat :=
  if h = noMeeting then none
  else
    match (s.ctx asid).stores[h.toNat / 2 ^ 28]? with
    | some st => if h.toNat % 2 ^ 28 < st.count then some ((st.base.toNat + 4096 * (h.toNat % 2 ^ 28)) % 2 ^ 80) else none
    | none => none

/-- Slots bound in a block (R204): those its groups hold, and the handles of its records. -/
def State.boundSlots (s : State) (b : Block) : Nat :=
  let gs := s.groups.filter (fun g => g.asid == b.asid && g.launch == b.launch && g.block == b.num && !g.empty)
  let held := gs.flatMap (fun g => g.handles.map (·.2))
  let rs := s.records.filter (fun r => r.asid == b.asid && r.launch == b.launch && r.block == b.num)
  ((held ++ rs.flatMap (fun r => r.handles.map (·.2))).eraseDups).length

/-- Some slot on the issuing group's core is bound to a handle of its context (R202). -/
def State.boundHere (s : State) (h : W32) : Bool :=
  s.groups.any (fun g => g.core == s.g.core && g.asid == s.g.asid && !g.empty && g.handles.any (fun x => x.2 == h))
    || s.kept.any (fun k => k.core == s.g.core && k.asid == s.g.asid && k.handle == h)
    || s.records.any (fun r => r.core == s.g.core && r.asid == s.g.asid && r.handles.any (fun x => x.2 == h))

/-- The first failing check of ABIND after the first (R202). DEDUCED, log 63. -/
def State.bindCheck (s : State) (t : Nat) (h : W32) : Option Nat :=
  if s.g.handles.get noMeeting t ≠ noMeeting then some 2
  else if (match s.thisBlock with
      | some b => decide (b.boundQuota ≤ s.boundSlots b)
      | none => true) then some 3
  else if s.boundHere h then some 4
  else none

/-- ABIND (R202). -/
def execAbind (f : FmtE) (s : State) : Host.Outcome State Fault Refusal :=
  s.tileWord (.abind f) f.guard f.dst.toNat (f.mod.getLsbD 0) (fun s =>
    let h := s.g.wr f.a.toNat
    let t := f.dst.toNat
    let bind (s : State) : State := { s with g := { s.g with handles := s.g.handles.put noMeeting t h } }
    match s.imageAddr s.g.asid h with
    | none => .trap s { cause := 0x11, detail := h.toNat, lane := none }
    | some a => match s.bindCheck t h with
      | some n => .trap s { cause := 0x12, detail := n, lane := none }
      | none => if f.mod.getLsbD 0 then s.loadTile f.guard t a 128 bind else .done (bind s))

/-- Remove the binding of slot t. -/
def Group.unbind (g : Group) (t : Nat) : Group := { g with handles := g.handles.put noMeeting t noMeeting }

/-- AUNBIND (R203). -/
def execAunbind (f : FmtE) (s : State) : Host.Outcome State Fault Refusal :=
  s.tileWord (.aunbind f) f.guard f.dst.toNat false (fun s =>
    if s.g.reload.getLsbD f.dst.toNat then .stall s .tile else .done { s with g := s.g.unbind f.dst.toNat })

/-- Flush the bound tile of slot t to its image (R203). -/
def State.flushSlot (s : State) (gd : Guard) (t : Nat) : Res :=
  let h := s.g.handles.get noMeeting t
  if h = noMeeting then .trap s { cause := 0x12, detail := 5, lane := none }
  else match s.imageAddr s.g.asid h with
    | some a => s.storeTile gd t a 128
    | none => .trap s { cause := 0x11, detail := h.toNat, lane := none }

/-- AUNBIND.flush (R203). -/
def execAunbindFlush (f : FmtE) (s : State) : Host.Outcome State Fault Refusal :=
  s.tileWord (.aunbindFlush f) f.guard f.dst.toNat true (fun s =>
    match s.flushSlot f.guard f.dst.toNat with
    | .done s1 => .done { s1 with g := s1.g.unbind f.dst.toNat }
    | r => r)

/-- AFLUSH (R203). -/
def execAflush (f : FmtE) (s : State) : Host.Outcome State Fault Refusal :=
  s.tileWord (.aflush f) f.guard f.dst.toNat true (fun s => s.flushSlot f.guard f.dst.toNat)

/-! ### Tile predicates (R205) -/

/-- A word that changes the tile predicates once for the group. -/
def State.kWord (s : State) (i : Instr) (gd : Guard) (f : Group → Group) : Host.Outcome State Fault Refusal :=
  s.word i gd (fun s => .done { s with g := f s.g })

/-- KSET (R205). -/
def execKset (f : FmtE) (s : State) : Host.Outcome State Fault Refusal :=
  s.kWord (.kset f) f.guard (fun g => g.kw (f.dst.toNat % 16) (f.imm.getLsbD 0))
/-- KSET.mask (R205). -/
def execKsetMask (f : FmtE) (s : State) : Host.Outcome State Fault Refusal :=
  s.kWord (.ksetMask f) f.guard (fun g => { g with k := (g.wr f.a.toNat).extractLsb' 0 16 })
/-- KAND (R205). -/
def execKand (f : FmtE) (s : State) : Host.Outcome State Fault Refusal :=
  s.kWord (.kand f) f.guard (fun g => g.kw (f.dst.toNat % 16) (g.kr (f.a.toNat % 16) && g.kr (f.b.toNat % 16)))
/-- KOR (R205). -/
def execKor (f : FmtE) (s : State) : Host.Outcome State Fault Refusal :=
  s.kWord (.kor f) f.guard (fun g => g.kw (f.dst.toNat % 16) (g.kr (f.a.toNat % 16) || g.kr (f.b.toNat % 16)))
/-- KNOT (R205). -/
def execKnot (f : FmtE) (s : State) : Host.Outcome State Fault Refusal :=
  s.kWord (.knot f) f.guard (fun g => g.kw (f.dst.toNat % 16) (!g.kr (f.a.toNat % 16)))
/-- KTEST (R205). -/
def execKtest (f : FmtE) (s : State) : Host.Outcome State Fault Refusal :=
  s.aluP (.ktest f) f.guard f.dst.toNat (fun g _ => g.kr (f.a.toNat % 16))
/-- KTEST.mask (R205). -/
def execKtestMask (f : FmtE) (s : State) : Host.Outcome State Fault Refusal :=
  s.kWord (.ktestMask f) f.guard (fun g => g.ww f.dst.toNat (g.k.zeroExtend 32))

end Sys2Proof.Machine
end

