-- ==== Sys2Proof/Machine/Engines.lean ====
section
/-! DEFINITION. The copy and stream engine (R206 to R221): templates, copies, gather and scatter, sorted streams, what
an operation may touch, and how it ends. -/

namespace Sys2Proof.Machine

/-! ### An operation's accesses (R209) -/

/-- The machine with the issuer of an operation in place of the issuing group: checks are made in its name. -/
def State.asOp (s : State) (o : EngOp) : State :=
  { s with g := { Group.off with core := o.core, asid := o.asid, launch := o.launch, block := o.block
                                 slotSel := BitVec.ofNat 6 o.slot } }

/-- A change made in the name of an operation; the groups stay as they are. -/
def State.viaOp (s : State) (o : EngOp) (f : State → State) : State := { f (s.asOp o) with g := s.g }

/-- Tag of an operation's remote requests. -/
def EngOp.tag (o : EngOp) : Nat := 4096 + o.id

/-- One access of a chunk. -/
structure OpAcc where
  acc : Acc
  addr : Nat
  len : Nat
deriving DecidableEq, Repr

/-- The page runs of an access (R209). -/
def OpAcc.runs (x : OpAcc) : List (Nat × Nat) := splitAt 65536 (x.len / 65536 + 2) x.addr x.len

/-- What the checks before a chunk find. -/
inductive OpCheck where
  | ok
  /-- pages that are not resident, and the lowest address that lies in one -/
  | missing (pages : List Nat) (addr : Nat)
  | bad (f : Fail)

/-- The checks of a chunk's accesses: residence first, then permission and poison (R209, R210). DEDUCED, log 64. -/
def State.opCheck (s : State) (l : List OpAcc) : OpCheck :=
  let res := l.flatMap (fun x => x.runs.map (fun r => (r.1, s.checkAccess 0 x.acc (r.1 % 2 ^ 80) r.2 1)))
  let pages := res.filterMap (fun r => match r.2 with
    | .error (.page ps) => some (r.1, ps)
    | _ => none)
  match pages with
  | p :: ps => .missing ((p :: ps).flatMap (·.2)).eraseDups (ps.foldl (fun m x => min m x.1) p.1)
  | [] =>
    match (res.filterMap (fun r => match r.2 with
      | .error e => some e
      | .ok _ => none)).head? with
    | some e => .bad e
    | none => .ok

/-- The pieces of an access that passed. -/
def State.opPieces (s : State) (x : OpAcc) : List Piece :=
  x.runs.flatMap (fun r => match s.checkAccess 0 x.acc (r.1 % 2 ^ 80) r.2 1 with
    | .ok ps => ps
    | .error _ => [])

/-- How a chunk goes. -/
inductive ChunkRes where
  /-- it waits for answers or replicas -/
  | wait (s : State)
  | missing (pages : List Nat) (addr : Nat)
  | stop (f : Option Fail)
  /-- its effects are taken: the operation's new cursor, the rows or sectors landed, and the completion value at the
  end -/
  | done (s : State) (o : EngOp) (landed : Nat) (fin : Option W32)

/-- Sequenced writes made before an operation was issued have still to reach the replica of its die (R207, R300). -/
def State.earlierWaits (s : State) (o : EngOp) : Bool :=
  s.seqLog.any (fun w => decide (w.num < o.seqAt) && w.asid == o.asid && w.pending.contains (dieOf o.core))

/-- Check a chunk's accesses, with that of its barrier, ask what is remote, and go on (R209). -/
def State.withChunk (s : State) (o : EngOp) (l : List OpAcc) (land : Bool) (k : State → ChunkRes) : ChunkRes :=
  let bar : List OpAcc := match o.bar with
    | some a => if land then [{ acc := .rmw, addr := a.toNat, len := 16 }] else []
    | none => []
  let all := l ++ bar
  match (s.asOp o).opCheck all with
  | .missing ps a => .missing ps a
  | .bad f => .stop (some f)
  | .ok =>
    let replicated := all.any (fun x => x.acc.writes && ((s.asOp o).opPieces x).any (fun p => match p.pte with
      | some (e, _, _) => pteRep e
      | none => false))
    let pieces := all.flatMap (fun x => if x.acc.writes then (s.asOp o).opPieces x else [])
    if (replicated && !s.seqLog.isEmpty) || s.earlierWaits o || pieces.any s.moving then .wait s
    else
      let asks := l.flatMap (fun x => if x.acc.writes then [] else readAsks o.tag ((s.asOp o).opPieces x))
      match (s.asOp o).askAll asks (fun _ => true) with
      | .wait s1 => .wait { s1 with g := s.g }
      | .fail _ f => .stop (some f)
      | .all =>
        let s1 := s.viaOp o (fun s => all.foldl (fun s x => s.touchAll o.asid x.acc.writes (s.opPieces x)) s)
        match k s1 with
        | .done s2 o2 n v => .done { s2 with seqLog := if replicated then [] else s2.seqLog } o2 n v
        | r => r

/-- The bytes of a checked read. -/
def State.opRead (s : State) (o : EngOp) (a n : Nat) : List Byte :=
  (s.asOp o).gather o.tag ((s.asOp o).opPieces { acc := .read, addr := a, len := n })

/-- The bytes of an access that lie at remote endpoints: endpoint, address, byte. -/
def remoteBytes : List Piece → List Byte → List (Nat × Nat × Byte)
  | [], _ => []
  | p :: ps, bs => (match p.ep with
      | some ep => (bs.take p.len).mapIdx (fun i b => (ep, p.loc + i, b))
      | none => []) ++ remoteBytes ps (bs.drop p.len)

/-- Store the local bytes of an access (plain stores of the operation). -/
def State.opWriteLocal (s : State) (o : EngOp) : List Piece → List Byte → State
  | [], _ => s
  | p :: ps, bs => (if p.ep.isSome then s else s.writeLocal o.core o.asid true [] p (bs.take p.len)).opWriteLocal o ps (bs.drop p.len)

/-- Send the remote bytes of a chunk, one counted packet for each destination line (R229), behind the stores to it that the
core's buffer still holds (R300). -/
def State.opSend (s : State) (o : EngOp) (l : List (Nat × Nat × Byte)) : State :=
  ((l.map (fun x => (x.1, x.2.1 / 128))).eraseDups).foldl (fun s k =>
    let bytes := (l.filter (fun x => x.1 == k.1 && x.2.1 / 128 == k.2)).foldl
      (fun (m : SMap Byte) x => m.insert (x.2.1 % 128) x.2.2) []
    (s.drainLines o.core o.asid k.1 [k.2]).sendCounted o.core
      { cls := .engineWrite, src := 0, dst := k.1, dctx := (s.ctx o.asid).dctx, slot := o.slot, span := 0, gen := 0, stamp := 0
        addr := k.2 * 128, bytes := bytes, count := 0, value := 0 }) s

/-- Store bytes: local ones at once, remote ones listed for the chunk's packets. -/
def State.opWrite (s : State) (o : EngOp) (a : Nat) (bs : List Byte) : State × List (Nat × Nat × Byte) :=
  let ps := (s.asOp o).opPieces { acc := .write, addr := a, len := bs.length }
  (s.opWriteLocal o ps bs, remoteBytes ps bs)

/-! ### The end of an operation (R207 to R211) -/

/-- The barrier of an operation as the issuer's address leads to it, whatever its page permits; none while the page does not
translate. -/
def State.barPiece (s : State) (o : EngOp) (a : Nat) : Option Piece :=
  match (s.asOp o).checkEnds a 16 16 with
  | .ok (.spad core byte) => some { loc := spadLoc core byte, len := 16, va := 0, pte := none, ep := none }
  | .ok (.glob va) => match (s.asOp o).lookup o.asid va with
    | .leaf e lvl addr =>
      some { loc := leafPa e lvl va, len := 16, va := va, pte := some (e, lvl, addr), ep := if pteFt e then some (pteEp e) else none }
    | _ => none
  | _ => none

/-- Sectors or rows land on the barrier of an operation (R166). DESIGN CHOICE, log 66. -/
def State.landBarrier (s : State) (o : EngOp) (n : Nat) : State :=
  match o.bar with
  | none => s
  | some a =>
    if n = 0 then s
    else match s.barPiece o a.toNat with
      | some p =>
        (match p.ep with
        | some ep =>
          { s with out := .request { id := s.serial, src := s.endpoint, dst := ep, dctx := (s.ctx o.asid).dctx, addr := p.loc, len := 16, op := .barrier 5 n 0 } :: s.out
                   serial := s.serial + 1 }
        | none =>
          let b := Barrier.ofNat (s.peek p.loc 16)
          let x := b.sect - n
          let low : Int := -(2 ^ 31 : Nat)
          let s1 := if x < low then s.impreciseOn o.asid o.launch o.core 0x42 [] a.toNat else s
          s1.putBarrier o.core o.asid p { b with sect := max low x })
      | none => s

/-- Operations that hold a place in the copy and stream engine of a core (R207). -/
def EngKind.onCopy : EngKind → Bool
  | .mrcv _ _ _ | .drain _ => false
  | _ => true

/-- Operations held by a unit of a core: the copy and stream engine, or the hash unit's drains; those saved with a context
that is switched out hold no place (R212). DESIGN CHOICE, log 65. -/
def State.engHeld (s : State) (core : Nat) (copy : Bool) : List EngOp :=
  s.engOps.filter (fun o => o.core == core && (s.ctx o.asid).state != .out && (match o.kind with
    | .mrcv _ _ _ => false
    | k => k.onCopy == copy))

/-- Aperture starts enter the engine's queue as places come free (R217). -/
def State.refill (s : State) (core : Nat) : State :=
  match s.apStarts.find? (fun o => o.core == core) with
  | none => s
  | some o =>
    if 64 ≤ (s.engHeld core true).length then s
    else { s with engOps := s.engOps ++ [o], apStarts := s.apStarts.filter (fun x => x.id != o.id) }

/-- An operation is over: its token completes, flags that waited for it go on, and a block that waited for its drain may end
(R207, R232, R240). -/
def State.endOp (s : State) (o : EngOp) (v : W32) : State :=
  let s1 := { s with engOps := s.engOps.filter (fun x => x.id != o.id)
                     remotes := s.remotes.filter (fun r => !(r.gid == 0 && r.tag == o.tag))
                     flagOps := s.flagOps.map (fun (f : FlagOp) => { f with after := f.after.filter (fun n => n != o.id) }) }
  ((s1.completeToken o.tok v).refill o.core).endBlocks o.asid o.launch

/-- STATUS and a count saturated to 30 bits (R208). -/
def statusWord (st n : Nat) : W32 := w32 (st * 2 ^ 30 + min n (2 ^ 30 - 1))

/-- OPKIND (R209). -/
def EngKind.code : EngKind → Nat
  | .copy _ => 1 | .gather _ => 2 | .scatter _ => 3 | .inter _ => 4 | .merge _ => 5 | .drain _ => 6 | .mrcv _ _ _ => 7
  | .tmpl _ => 0

/-- The engine detail (R209). -/
def EngOp.detail (o : EngOp) : List W64 :=
  [w64 (o.curB % 2 ^ 32 * 2 ^ 32 + o.curN % 2 ^ 32), w64 (o.kind.code * 2 ^ 56 + o.engop % 65536 * 2 ^ 32 + o.curA % 2 ^ 32)]

/-! #### Copies (R213, R214) -/

/-- Destination address of a row, its plane and row numbered together. -/
def rowAddr (base : Addr) (rows : Nat) (pst rst : Int) (q : Nat) : Nat :=
  wrapTo 80 ((base.toNat : Int) + 128 * pst * (q / rows : Nat) + rst * (q % rows : Nat))

def CopyPlan.srcRow (p : CopyPlan) (q : Nat) : Nat := rowAddr p.src p.rows p.spstride p.sstride q
def CopyPlan.dstRow (p : CopyPlan) (q : Nat) : Nat := rowAddr p.dst p.rows p.dpstride p.dstride q

def CopyPlan.total (p : CopyPlan) : Nat := p.rowb * p.rows * p.planes

/-- Sectors a row lands (R214). -/
def CopyPlan.sectors (p : CopyPlan) (q : Nat) : Nat := (p.dstRow q % 32 + p.rowb + 31) / 32

/-- Sectors of all rows. -/
def CopyPlan.allSectors (p : CopyPlan) : Nat := ((List.range (p.rows * p.planes)).map p.sectors).foldl (· + ·) 0

/-- The row parts of chunk c: row, first byte, length. -/
def CopyPlan.segs (p : CopyPlan) (c : Nat) : List (Nat × Nat × Nat) :=
  let f0 := 4096 * c
  let f1 := min p.total (f0 + 4096)
  if f1 ≤ f0 then []
  else
    (List.range ((f1 - 1) / p.rowb - f0 / p.rowb + 1)).map (fun i =>
      let q := f0 / p.rowb + i
      let j := max f0 (q * p.rowb) - q * p.rowb
      (q, j, min f1 ((q + 1) * p.rowb) - (q * p.rowb + j)))

/-- What an operation expects to land (R210). -/
def EngOp.expected (o : EngOp) : Nat :=
  match o.kind with
  | .copy p => p.allSectors
  | .gather p | .scatter p => p.count
  | _ => 0

/-- The barrier of an operation lies on a page that does not translate, and has sectors to lose. -/
def State.barMissing (s : State) (o : EngOp) : Option Nat :=
  match o.bar with
  | some a => match (s.asOp o).checkEnds a.toNat 16 16 with
    | .ok (.glob va) => if o.expected ≤ o.curN ∨ (s.barPiece o a.toNat).isSome then none else some (va / 65536)
    | _ => none
  | none => none

/-- Termination (R210): the fault record, once; the sectors that will not land are taken off the barrier, for which the
operation waits where the barrier's page is not resident; and the token completes. An XTMPL has no OPKIND and gives no
record (R209). DEDUCED, log 68. -/
def State.terminate (s : State) (o : EngOp) (f : Option Fail) : State :=
  let s0 := match f with
    | some (.format _ va e lvl addr) => s.impreciseOn o.asid o.launch o.core 0x45 [w64 lvl, w64 addr, e] (va / 65536 * 65536)
    | _ => s
  let s1 := if o.dying || o.kind.code == 0 then s0 else s0.impreciseOn o.asid o.launch o.core 0x41 o.detail 0
  match s1.barMissing o with
  | some page =>
    let (b, s2) := s1.newBatch o.asid [page]
    { s2 with engOps := updWhere (fun x => x.id == o.id) (fun x => { x with dying := true, waits := some b, running := true }) s2.engOps }
  | none =>
    let n := match o.kind with
      | .drain _ => o.count0
      | _ => o.curN
    (s1.landBarrier o (o.expected - o.curN)).endOp o (statusWord 2 n)

/-- Every group and record of a block ends (R211). -/
def State.endBlockNow (s : State) (asid launch num : Nat) : State :=
  let mine (g : Group) : Bool := g.asid == asid && g.launch == launch && g.block == num && g.gid != 0
  let s1 := { s with
    g := if mine s.g then Group.off else s.g
    others := s.others.filter (fun g => !mine g)
    records := s.records.filter (fun r => !(r.asid == asid && r.launch == launch && r.block == num)) }
  let stay (k : KeptTile) : Bool := s1.records.any (fun r => r.core == k.core && r.asid == k.asid
    && r.handles.any (fun x => x.2 == k.handle))
  { s1 with kept := s1.kept.filter stay }.endBlocks asid launch

/-- A chunk met pages that are not resident: suspension, or the end of the issuing block under ENG_COMPAT (R209,
R211). -/
def State.suspend (s : State) (o : EngOp) (pages : List Nat) (addr : Nat) : State :=
  if (s.ctx o.asid).engCompat then
    let s1 := if o.aperture || o.block == 0xFFFFFF then s else s.endBlockNow o.asid o.launch o.block
    s1.terminate o none
  else
    let (b, s1) := (s.impreciseOn o.asid o.launch o.core 0x40 o.detail addr).newBatch o.asid pages
    { s1 with engOps := updWhere (fun x => x.id == o.id) (fun x => { x with waits := some b }) s1.engOps }

/-- A chunk of a copy: all of its sources are read, then its destinations written, in flattened order. -/
def State.copyChunk (s : State) (o : EngOp) (p : CopyPlan) : ChunkRes :=
  let segs := p.segs o.curA
  let ended := segs.filter (fun x => x.2.1 + x.2.2 == p.rowb)
  let accs := segs.flatMap (fun x =>
    [({ acc := .read, addr := (p.srcRow x.1 + x.2.1) % 2 ^ 80, len := x.2.2 } : OpAcc)
      , { acc := .write, addr := (p.dstRow x.1 + x.2.1) % 2 ^ 80, len := x.2.2 }])
  s.withChunk o accs (!ended.isEmpty) (fun s =>
    let data := segs.map (fun x => ((p.dstRow x.1 + x.2.1) % 2 ^ 80, s.opRead o ((p.srcRow x.1 + x.2.1) % 2 ^ 80) x.2.2))
    let r := data.foldl (fun (a : State × List (Nat × Nat × Byte)) d =>
      let w := a.1.opWrite o d.1 d.2
      (w.1, a.2 ++ w.2)) (s, [])
    let n := (ended.map (fun x => p.sectors x.1)).foldl (· + ·) 0
    let o1 := { o with curA := o.curA + 1, curN := o.curN + n }
    .done (r.1.opSend o r.2) o1 n (if p.total ≤ 4096 * (o.curA + 1) then some (statusWord 0 o1.curN) else none))

/-! #### Gather and scatter (R218, R219) -/

def GatherPlan.pitch (p : GatherPlan) : Nat := roundUp p.rowb 16

/-- Positions of a chunk. -/
def GatherPlan.perChunk (p : GatherPlan) : Nat := max 1 (4096 / p.pitch)

/-- An offset of the issuing block's scratchpad as an address (R30). -/
def spadAddr (off : Nat) : Nat := 0xFE * 2 ^ 72 + 0xFFFF * 2 ^ 24 + off

/-- The table row of an index; none where it leaves the window of TBASE. -/
def GatherPlan.row (p : GatherPlan) (x : Nat) : Option Nat :=
  let a := p.tbase.toNat + x * p.tstride
  let last := a + p.rowb - 1
  if a / 2 ^ 72 = p.tbase.toNat / 2 ^ 72 ∧ last / 2 ^ 72 = p.tbase.toNat / 2 ^ 72 then some a else none

/-- A chunk of a gather or a scatter: the indices, the rows, then each position in turn. -/
def State.gatherChunk (s : State) (o : EngOp) (p : GatherPlan) (scatter : Bool) : ChunkRes :=
  let n := min p.perChunk (p.count - o.curA)
  let qs := (List.range n).map (fun i => o.curA + i)
  let idxAcc (q : Nat) : OpAcc := { acc := .read, addr := spadAddr (p.idxOff + 4 * q), len := 4 }
  match (s.asOp o).opCheck (qs.map idxAcc) with
  | .bad f => .stop (some f)
  | .missing ps a => .missing ps a
  | .ok =>
    let idx := qs.map (fun q => (q, bytesNat (s.opRead o (spadAddr (p.idxOff + 4 * q)) 4)))
    let null (x : Nat) : Bool := x == 0xFFFFFFFF
    if idx.any (fun x => !null x.2 && (p.row x.2).isNone) then .stop none
    else
      let sp (q : Nat) : Nat := spadAddr (p.spOff + q * p.pitch)
      let accs := idx.flatMap (fun x =>
        let t : List OpAcc := match p.row x.2 with
          | some a => if null x.2 then [] else [{ acc := if scatter then .write else .read, addr := a, len := p.rowb }]
          | none => []
        let m : List OpAcc := if scatter && null x.2 then [] else
          [{ acc := if scatter then .read else .write, addr := sp x.1, len := p.rowb }]
        t ++ m)
      s.withChunk o accs true (fun s =>
        let one (a : State × List (Nat × Nat × Byte)) (x : Nat × Nat) : State × List (Nat × Nat × Byte) :=
          match (if null x.2 then none else p.row x.2), scatter with
          | none, true => a
          | none, false => ((a.1.opWrite o (sp x.1) (List.replicate p.rowb 0)).1, a.2)
          | some t, true =>
            let w := a.1.opWrite o t (a.1.opRead o (sp x.1) p.rowb)
            (w.1, a.2 ++ w.2)
          | some t, false => ((a.1.opWrite o (sp x.1) (a.1.opRead o t p.rowb)).1, a.2)
        let r := idx.foldl one (s, [])
        let o1 := { o with curA := o.curA + n, curN := o.curN + n }
        .done (r.1.opSend o r.2) o1 n (if p.count ≤ o1.curA then some (statusWord 0 o1.curN) else none))

/-! #### Sorted streams (R220, R221) -/

def StreamPlan.aKey (p : StreamPlan) (i : Nat) : Nat := p.abase.toNat + 4 * i
def StreamPlan.bKey (p : StreamPlan) (j : Nat) : Nat := p.bbase.toNat + 4 * j

/-- Where key n is emitted, while there is room. -/
def StreamPlan.emitAt (p : StreamPlan) (n : Nat) : Option Nat :=
  match p.emit with
  | some (b, cap) => if n < cap then some (b.toNat + 4 * n) else none
  | none => none

/-- The part of a stream that the 4 KiB-aligned span of key i holds: address and length. -/
def streamSpan (base n i : Nat) : Nat × Nat :=
  let lo := max base ((base + 4 * i) / 4096 * 4096)
  (lo, min (base + 4 * n) ((base + 4 * i) / 4096 * 4096 + 4096) - lo)

/-- The spans of both streams at the cursor, with the keys before them that lie outside (R221). -/
def StreamPlan.reads (p : StreamPlan) (i j : Nat) : List (Nat × Nat) :=
  let part (base n k : Nat) : List (Nat × Nat) :=
    if n ≤ k then []
    else
      let sp := streamSpan base n k
      let prev := base + 4 * k - 4
      if 0 < k ∧ prev < sp.1 then [sp, (prev, 4)] else [sp]
  part p.abase.toNat p.na i ++ part p.bbase.toNat p.nb j

/-- A key, from memory or from the answer about its span; none where its sector is poisoned. -/
def State.streamKey (s : State) (o : EngOp) (regions : List (Nat × List Piece)) (a : Nat) : Option Nat :=
  match (s.asOp o).checkAccess 0 .read (a % 2 ^ 80) 4 1 with
  | .error _ => none
  | .ok ps =>
    if ps.any (fun p => p.ep.isSome) then
      match regions.find? (fun r => r.1 ≤ a && a < r.1 + (r.2.map (·.len)).foldl (· + ·) 0) with
      | some r => some (bytesNat ((((s.asOp o).gather o.tag r.2).drop (a - r.1)).take 4))
      | none => none
    else some (bytesNat ((s.asOp o).gather o.tag ps))

/-- How the loop of a stream operation leaves a chunk; `poisoned` stands for an address outside its window too. -/
inductive StreamEnd where
  | more | finished (st : Nat) | poisoned
deriving DecidableEq, Repr

/-- A key checked against the one before it (R221): none poisoned, some (x, in order). -/
def State.readKey (s : State) (o : EngOp) (rs : List (Nat × List Piece)) (base k : Nat) : Option (Nat × Bool) :=
  match s.streamKey o rs (base + 4 * k) with
  | none => none
  | some x =>
    if k = 0 then some (x, true)
    else match s.streamKey o rs (base + 4 * (k - 1)) with
      | none => none
      | some y => some (x, decide (y ≤ x))

/-- An address of a stream or an emission has left the window of its base (R210). -/
def offWindow (base a : Nat) : Bool := a / 2 ^ 72 != base / 2 ^ 72

/-- The next key to be read, or the place of the next emission, has left its window. -/
def StreamPlan.readsOff (p : StreamPlan) (o : EngOp) : Bool :=
  (decide (o.curA < p.na) && offWindow p.abase.toNat (p.aKey o.curA)) || (decide (o.curB < p.nb) && offWindow p.bbase.toNat (p.bKey o.curB))
def StreamPlan.emitsOff (p : StreamPlan) (n : Nat) : Bool :=
  match p.emit, p.emitAt n with
  | some (b, _), some a => offWindow b.toNat a
  | _, _ => false

/-- Emit a key, or count it (R221). DEDUCED, log 67. -/
def State.emitKey (s : State) (o : EngOp) (p : StreamPlan) (x : Nat) : State × EngOp :=
  ((match p.emitAt o.curN with
    | some a => (s.writePieces o.core o.asid o.slot [] ((s.asOp o).opPieces { acc := .write, addr := a, len := 4 }) (natBytes 4 x))
    | none => s), { o with curN := o.curN + 1 })

/-- The cursor stays in the spans the chunk began in. -/
def sameSpans (p : StreamPlan) (o c : EngOp) : Bool :=
  p.aKey o.curA / 4096 == p.aKey c.curA / 4096 && p.bKey o.curB / 4096 == p.bKey c.curB / 4096
    && (match p.emitAt o.curN, p.emitAt c.curN with
        | some a, some b => a / 4096 == b / 4096
        | _, none => true
        | none, some _ => false)

/-- The status at the end of the loop (R221). -/
def StreamPlan.finish (p : StreamPlan) (n : Nat) : Nat :=
  match p.emit with
  | some (_, cap) => if cap < n then 1 else 0
  | none => 0

/-- One turn of the loops of R221. -/
def State.streamStep (s : State) (o : EngOp) (p : StreamPlan) (merge : Bool) (rs : List (Nat × List Piece)) :
    StreamEnd × State × EngOp :=
  let aOut := p.na ≤ o.curA
  let bOut := p.nb ≤ o.curB
  let a (_ : Unit) := s.readKey o rs p.abase.toNat o.curA
  let b (_ : Unit) := s.readKey o rs p.bbase.toNat o.curB
  let put (x : Nat) (da db : Nat) : StreamEnd × State × EngOp :=
    let r := s.emitKey o p x
    if p.emitsOff o.curN then (.poisoned, s, o) else
    (.more, r.1, { r.2 with curA := o.curA + da, curB := o.curB + db })
  if merge then
    if aOut && bOut then (.finished (p.finish o.curN), s, o)
    else if bOut then
      match a () with
      | none => (.poisoned, s, o)
      | some (_, false) => (.finished 3, s, o)
      | some (x, true) => put x 1 0
    else if aOut then
      match b () with
      | none => (.poisoned, s, o)
      | some (_, false) => (.finished 3, s, o)
      | some (y, true) => put y 0 1
    else
      match a (), b () with
      | none, _ => (.poisoned, s, o)
      | some (_, false), _ => (.finished 3, s, o)
      | _, none => (.poisoned, s, o)
      | _, some (_, false) => (.finished 3, s, o)
      | some (x, true), some (y, true) => if x ≤ y then put x 1 0 else put y 0 1
  else if aOut || bOut then (.finished (p.finish o.curN), s, o)
  else
    match a (), b () with
    | none, _ => (.poisoned, s, o)
    | some (_, false), _ => (.finished 3, s, o)
    | _, none => (.poisoned, s, o)
    | _, some (_, false) => (.finished 3, s, o)
    | some (x, true), some (y, true) =>
      if x = y then put x 1 1
      else if x < y then (.more, s, { o with curA := o.curA + 1 })
      else (.more, s, { o with curB := o.curB + 1 })

/-- The loop within one chunk. -/
def State.streamLoop (p : StreamPlan) (merge : Bool) (c : EngOp) (rs : List (Nat × List Piece)) :
    Nat → State → EngOp → StreamEnd × State × EngOp
  | 0, s, o => (.more, s, o)
  | fuel + 1, s, o =>
    match s.streamStep o p merge rs with
    | (.more, s1, o1) => if sameSpans p c o1 then State.streamLoop p merge c rs fuel s1 o1 else (.more, s1, o1)
    | r => r

/-- A chunk of a stream operation. -/
def State.streamChunk (s : State) (o : EngOp) (p : StreamPlan) (merge : Bool) : ChunkRes :=
  let reads := if merge || (o.curA < p.na && o.curB < p.nb) then p.reads o.curA o.curB else []
  let accOf (r : Nat × Nat) : OpAcc := { acc := .read, addr := r.1, len := r.2 }
  let emitAcc : List OpAcc := match p.emitAt o.curN with
    | some a => if reads.isEmpty || p.emitsOff o.curN then [] else [{ acc := .write, addr := a, len := 4 }]
    | none => []
  -- only residence and permission are checked for whole spans: poison is met key by key
  let plain : List OpAcc := (reads.map accOf).map (fun x => { x with len := min x.len 4 })
  let remote := reads.filter (fun r => ((s.asOp o).opPieces { acc := .read, addr := r.1, len := min r.2 4 }).any (fun q => q.ep.isSome))
  let firsts := plain.filter (fun x => match (s.asOp o).opCheck [x] with
    | .bad (.trap 0x0F _) => false
    | _ => true)
  if !reads.isEmpty && p.readsOff o then .stop none
  else s.withChunk o (firsts ++ remote.map accOf ++ emitAcc) false (fun s =>
    let rs := remote.map (fun r => (r.1, (s.asOp o).opPieces (accOf r)))
    match State.streamLoop p merge o rs 3100 s o with
    | (.poisoned, _, _) => .stop none
    | (.finished st, s1, o1) => .done s1 o1 0 (some (statusWord st o1.curN))
    | (.more, s1, o1) => .done s1 o1 0 none)

/-! ### Issue (R207) -/

/-- An engine operation's number, and a token in w register `wd` where it has one (R207, R209). -/
def State.engNumber (s : State) (unit : Nat) (wd : Option Nat) : Nat × Nat × State :=
  match wd with
  | some n =>
    let (ser, op, s1) := s.newToken n unit
    (ser, op, s1)
  | none =>
    let key := s.g.core * 16 + unit
    let op := s.engNext.get 0 key
    (0, op, { s with engNext := s.engNext.put 0 key ((op + 1) % 65536) })

/-- Start an engine operation of the issuing group on a unit: 1 the copy and stream engine, 2 the hash unit. -/
def State.startEngine (s : State) (unit : Nat) (wd : Option Nat) (bar : Option Addr) (kind : EngKind) : State :=
  let (tok, op, s1) := s.engNumber unit wd
  let o : EngOp :=
    { id := s1.serial, engop := op, core := s.g.core, asid := s.g.asid, launch := s.g.launch, block := s.g.block
      gid := s.g.gid, kind := kind, tok := tok, bar := bar, slot := s.g.slotSel.toNat, running := false, waits := none
      curA := 0, curB := 0, curN := 0, count0 := 0, aperture := false, seqAt := s1.seqNum, dying := false, chain := none, found := [] }
  { s1 with serial := s1.serial + 1, engOps := s1.engOps ++ [o] }

/-- An engine word: room in the unit's queue, and for a token (R20, R207). -/
def State.engineWord (s : State) (i : Instr) (gd : Guard) (copy notok : Bool) (k : State → Res) :
    Host.Outcome State Fault Refusal :=
  s.word i gd (fun s =>
    if (if copy then 64 else 8) ≤ (s.engHeld s.g.core copy).length then .stall s .token
    else if notok then k s
    else s.tokenRoom k)

/-! ### Templates (R213, R215, R216) -/

/-- Word j of a template or descriptor. -/
def word32 (t j : Nat) : Nat := bitsOf t (32 * j) 32

/-- A template's fields (R213). -/
structure Template where
  plan : CopyPlan
  valid : Bool
  bar : Bool
  barAddr : Addr
  reserved : Bool
deriving DecidableEq, Repr

def Template.of (t : Nat) : Template :=
  let a (j : Nat) : Addr := BitVec.ofNat 80 (word32 t j + word32 t (j + 1) * 2 ^ 32 + word32 t (j + 2) % 65536 * 2 ^ 64)
  { plan :=
      { src := a 0, dst := a 3, rowb := word32 t 6 % 2 ^ 24, rows := word32 t 7 % 65536, planes := bitsOf (word32 t 7) 16 8
        sstride := sextN (word32 t 8) 32, dstride := sextN (word32 t 9) 32, spstride := sextN (word32 t 10) 32
        dpstride := sextN (word32 t 11) 32 }
    valid := bitOf (word32 t 2) 31, bar := bitOf (word32 t 2) 30, barAddr := a 13
    reserved := bitsOf (word32 t 2) 16 14 == 0 && word32 t 5 / 65536 == 0 && word32 t 6 / 2 ^ 24 == 0
      && word32 t 7 / 2 ^ 24 == 0 && word32 t 12 == 0 && word32 t 15 / 65536 == 0 }

/-- Window of an address. -/
def winOfAddr (a : Addr) : Nat := (a.extractLsb' 72 8).toNat

/-- A well-formed template (R213). -/
def Template.ok (t : Template) : Bool :=
  t.valid && t.reserved && t.plan.rowb != 0 && t.plan.rows != 0 && t.plan.planes != 0 && t.plan.total ≤ 2 ^ 44
    && winOfAddr t.plan.src != 0xFC && winOfAddr t.plan.dst != 0xFC
    && (!t.bar || (t.barAddr.toNat % 16 == 0 && winOfAddr t.barAddr != 0xFC))

/-- Address of template i of the issuing context. -/
def State.templateAt (s : State) (i : Nat) : Nat := (s.cx.tmplBase.toNat + 64 * i) % 2 ^ 80

def trapRes (s : State) (c d : Nat) : Res := .trap s { cause := c, detail := d, lane := none }

/-- XTMPL (R215). -/
def execXtmpl (f : FmtE) (s : State) : Host.Outcome State Fault Refusal :=
  s.engineWord (.xtmpl f) f.guard true false (fun s =>
    let i := (s.g.wr f.b.toNat).toNat
    let t := s.g.wrN f.a.toNat 16
    if s.cx.tmplCount ≤ i then trapRes s 0x1D 1
    else if !(Template.of t).ok then trapRes s 0x1D 2
    else match s.checkAccess (s.g.uniThread f.guard) .write (s.templateAt i) 64 1 with
      | .error e => failRes s none e
      | .ok ps =>
        if s.storeWaits ps then .stall s .result
        else s.intoAperture ps (fun s =>
          let s1 := (s.touchAll s.g.asid true ps).writePieces s.g.core s.g.asid s.g.slotSel.toNat (s.g.threads f.guard) ps
            (natBytes 64 t)
          .done (s1.startEngine 1 (some f.dst.toNat) none (.tmpl i))))

/-- The lowest and the highest address of a copy pattern, as integers (R216). -/
def patternEnds (base : Int) (p : CopyPlan) (pst rst : Int) : Int × Int :=
  let pl := 128 * pst * (p.planes - 1 : Nat)
  let rw := rst * (p.rows - 1 : Nat)
  (base + min 0 pl + min 0 rw, base + max 0 pl + max 0 rw + (p.rowb - 1 : Nat))

/-- Window of an integer address. -/
def winInt (x : Int) : Int := x / (2 ^ 72 : Nat)

/-- Checks 5 and 6 of XCOPY on one side (R216). -/
def State.patternFail (s : State) (win : Nat) (ends : Int × Int) : Option Fail :=
  if winInt ends.1 ≠ win ∨ winInt ends.2 ≠ win then some (.trap 0x06 0)
  else match s.decode ends.1.toNat with
    | .error e => some e
    | .ok _ => match s.decode ends.2.toNat with
      | .error e => some e
      | .ok _ => none

/-- A barrier address decodes, and a scratchpad one names a live barrier (R216). -/
def State.copyBarrier (s : State) (a : Addr) : Option Fail :=
  match s.decode a.toNat with
  | .error e => some e
  | .ok (.spad core byte) =>
    if s.liveTbar (bitsOf a.toNat 72 8) { loc := spadLoc core byte, len := 16, va := 0, pte := none, ep := none } then none else some (.trap 0x18 0)
  | .ok _ => none

/-- Failing windows come first, then decoding. -/
def firstSome {α : Type} : List (Option α) → Option α
  | [] => none
  | some x :: _ => some x
  | none :: l => firstSome l

/-- XCOPY (R216). -/
def execXcopy (f : FmtE) (s : State) : Host.Outcome State Fault Refusal :=
  let notok := f.imm.getLsbD 0
  s.engineWord (.xcopy f) f.guard true notok (fun s =>
    let i := (s.g.wr f.a.toNat).toNat
    if s.cx.tmplCount ≤ i then trapRes s 0x1D 1
    else match s.checkAccess (s.g.uniThread f.guard) .read (s.templateAt i) 64 1 with
      | .error e => failRes s none e
      | .ok ps =>
        if s.ownWriteWaits (s.g.threads f.guard) ps then .stall s .result
        else match s.askAll (readAsks 32 ps) (fun _ => true) with
        | .wait s1 => .stall s1 .result
        | .fail _ e => failRes s none e
        | .all =>
          let s1 := s.touchAll s.g.asid false ps
          let t := Template.of (bytesNat (s1.gather 32 ps))
          if !t.ok then trapRes s1 0x1D 2
          else if notok && !t.bar then trapRes s1 0x1D 3
          else
            let so := (t.plan.src.toNat : Int) + (s1.g.wr f.b.toNat).toInt
            let d := (t.plan.dst.toNat : Int) + (s1.g.wr f.c.toNat).toInt
            let se := patternEnds so t.plan t.plan.spstride t.plan.sstride
            let de := patternEnds d t.plan t.plan.dpstride t.plan.dstride
            let sw := winOfAddr t.plan.src
            let dw := winOfAddr t.plan.dst
            let badWin : Option Fail :=
              if winInt se.1 ≠ sw ∨ winInt se.2 ≠ sw ∨ winInt de.1 ≠ dw ∨ winInt de.2 ≠ dw then some (.trap 0x06 0) else none
            match firstSome [badWin, s1.patternFail sw se, s1.patternFail dw de
                , if t.bar then s1.copyBarrier t.barAddr else none] with
            | some e => failRes s1 none e
            | none =>
              .done (s1.startEngine 1 (if notok then none else some f.dst.toNat) (if t.bar then some t.barAddr else none)
                (.copy { t.plan with src := BitVec.ofInt 80 so, dst := BitVec.ofInt 80 d })))

/-! ### Gather and scatter words (R219) -/

/-- A gather descriptor (R218). -/
def GatherPlan.of (w : Nat → Nat) : GatherPlan :=
  { tbase := BitVec.ofNat 80 (w 0 + w 1 * 2 ^ 32 + w 2 % 65536 * 2 ^ 64), rowb := w 3 % 65536, tstride := w 4
    idxOff := w 5 % 2 ^ 24, spOff := w 6 % 2 ^ 24, count := w 7 % 65536 }

/-- Check 2 of R219. -/
def gatherFields (w : Nat → Nat) : Bool :=
  let p := GatherPlan.of w
  w 2 / 65536 == 0 && w 3 / 65536 == 0 && w 5 / 2 ^ 24 == 0 && w 6 / 2 ^ 24 == 0 && w 7 / 65536 == 0
    && 4 ≤ p.rowb && p.rowb ≤ 4096 && p.rowb % 4 == 0 && p.idxOff % 4 == 0 && p.spOff % 16 == 0 && 1 ≤ p.count

/-- Check 4 of R219: the index vector and the rows lie in the block's allocation. -/
def State.gatherBounds (s : State) (p : GatherPlan) : Option Fail :=
  let size := match s.thisBlock with
    | some b => b.spadSize
    | none => 0
  let iEnd := p.idxOff + 4 * p.count
  let rEnd := p.spOff + (p.count - 1) * p.pitch + p.rowb
  if size < iEnd then some (.trap 0x08 ((iEnd - 1) % 2 ^ 24))
  else if size < rEnd then some (.trap 0x08 ((rEnd - 1) % 2 ^ 24))
  else none

/-- XGATH and XSCAT (R219). -/
def State.gatherWord (s : State) (i : Instr) (f : FmtE) (kind : GatherPlan → EngKind) : Host.Outcome State Fault Refusal :=
  let notok := f.imm.getLsbD 0
  let bar := f.imm.getLsbD 1
  s.engineWord i f.guard true notok (fun s =>
    let w (j : Nat) : Nat := (s.g.wr (f.a.toNat + j)).toNat
    let p := GatherPlan.of w
    let start (s : State) (b : Option Addr) : Res :=
      .done (s.startEngine 1 (if notok then none else some f.dst.toNat) b (kind p))
    if notok && !bar then trapRes s 0x1E 1
    else if !gatherFields w then trapRes s 0x1E 2
    else if winOfAddr p.tbase = 0xFE ∨ winOfAddr p.tbase = 0xFC then trapRes s 0x06 0
    else match s.gatherBounds p with
      | some e => failRes s none e
      | none =>
        if !bar then start s none
        else match s.barrierAt f.b.toNat .rmw with
          | .error e => failRes s none e
          | .ok pc =>
            if !s.liveTbar (s.g.winOf f.b.toNat) pc then trapRes s 0x18 0
            else start (s.touch s.g.asid false pc) (some (BitVec.ofNat 80 (s.g.wrN f.b.toNat 3))))

/-- XGATH (R219). -/
def execXgath (f : FmtE) (s : State) : Host.Outcome State Fault Refusal := s.gatherWord (.xgath f) f .gather
/-- XSCAT (R219). -/
def execXscat (f : FmtE) (s : State) : Host.Outcome State Fault Refusal := s.gatherWord (.xscat f) f .scatter

/-! ### Stream words (R220) -/

/-- A stream descriptor (R220). -/
def StreamPlan.of (w : Nat → Nat) (emit : Option (Addr × Nat)) : StreamPlan :=
  { abase := BitVec.ofNat 80 (w 0 + w 1 * 2 ^ 32 + w 2 % 65536 * 2 ^ 64), na := w 3
    bbase := BitVec.ofNat 80 (w 4 + w 5 * 2 ^ 32 + w 6 % 65536 * 2 ^ 64), nb := w 7, emit := emit }

/-- Check 4 of R220: the first and last byte of an area of n keys. -/
def State.areaFail (s : State) (base n : Nat) : Option Fail :=
  if n = 0 then none
  else match s.decode base with
    | .error e => some e
    | .ok _ => match s.decode ((base + 4 * n - 1) % 2 ^ 80) with
      | .error e => some e
      | .ok _ => none

/-- SINTER and SMERGE (R220). -/
def State.streamWord (s : State) (i : Instr) (f : FmtE) (emit : Bool) (kind : StreamPlan → EngKind) :
    Host.Outcome State Fault Refusal :=
  s.engineWord i f.guard true false (fun s =>
    let w (j : Nat) : Nat := (s.g.wr (f.a.toNat + j)).toNat
    let eb := s.g.wrN f.b.toNat 3
    let p := StreamPlan.of w (if emit then some (BitVec.ofNat 80 eb, (s.g.wr f.c.toNat).toNat) else none)
    let bases := [p.abase.toNat, p.bbase.toNat] ++ (if emit then [eb % 2 ^ 80] else [])
    if w 2 / 65536 ≠ 0 ∨ w 6 / 65536 ≠ 0 then trapRes s 0x1E 2
    else if (emit && tripleBad eb) || bases.any (fun a => bitsOf a 72 8 == 0xFC) then trapRes s 0x06 0
    else if bases.any (fun a => a % 4 != 0) then trapRes s 0x0B 0
    else match firstSome [s.areaFail p.abase.toNat p.na, s.areaFail p.bbase.toNat p.nb
        , match p.emit with
          | some (b, cap) => s.areaFail b.toNat cap
          | none => none] with
      | some e => failRes s none e
      | none => .done (s.startEngine 1 (some f.dst.toNat) none (kind p)))

/-- SINTER (R220, R221). -/
def execSinter (f : FmtE) (s : State) : Host.Outcome State Fault Refusal :=
  s.streamWord (.sinter f) f (f.mod.getLsbD 0) .inter
/-- SMERGE (R220, R221). -/
def execSmerge (f : FmtE) (s : State) : Host.Outcome State Fault Refusal := s.streamWord (.smerge f) f true .merge

end Sys2Proof.Machine
end

