-- ==== Sys2Proof/Machine/Mesh.lean ====
section
/-! DEFINITION. Mesh reduction (R222 to R227): channels, contributions, the combining trees and their timers, and the
result at the root. -/

namespace Sys2Proof.Machine

/-! ### Channels -/

def chanKey (die ch : Nat) : Nat := die * 16 + ch
def State.chan (s : State) (die ch : Nat) : Channel := s.channels.get Channel.off (chanKey die ch)
def State.setChan (s : State) (die ch : Nat) (c : Channel) : State :=
  { s with channels := s.channels.put Channel.off (chanKey die ch) c }

/-- The channel a word of the issuing group names. -/
def State.wordChan (s : State) (f : FmtE) : Channel := s.chan (dieOf s.g.core) (f.imm.toNat % 16)
def State.setWordChan (s : State) (f : FmtE) (c : Channel) : State := s.setChan (dieOf s.g.core) (f.imm.toNat % 16) c

/-- Level-1 node of a core index (R223). -/
def Channel.node (c : Channel) (n : Nat) : Nat := if c.row then n % 4 else n / 4

/-- Contributors of a channel, and those under a node, ascending. -/
def Channel.cores (c : Channel) : List Nat := below 52 (fun n => c.mask.getLsbD n)
def Channel.under (c : Channel) (node : Nat) : List Nat := c.cores.filter (fun n => c.node n == node)
def Channel.nodes (c : Channel) : List Nat := below 13 (fun x => !(c.under x).isEmpty)

def meshTy (c : Channel) : Ty := if c.isInt then .s32 else .f32

/-- One element combined over inputs, absent ones skipped (R223). -/
def combineElem (op : Nat) (t : Ty) : List (Option W32) → Option W32
  | [] => none
  | none :: l => combineElem op t l
  | some x :: l => some (w32 (redFold op t (x.toNat :: (l.filterMap id).map BitVec.toNat)))

/-- Combine inputs element by element. -/
def combineInputs (op : Nat) (t : Ty) (l : List (List (Option W32))) : List (Option W32) :=
  (List.range 32).map (fun e => combineElem op t (l.map (fun p => p.getD e none)))

/-- A node that has passed on. -/
def MeshRound.hasPassed (r : MeshRound) (node : Nat) : Bool := r.passed.any (fun x => x.1 == node)

/-- The root's result from the nodes that have passed (R223, R226). -/
def Channel.rootResult (c : Channel) (r : MeshRound) : List W32 × BitVec 52 × Nat × Nat :=
  let nodes := c.nodes.filter (fun x => r.passed.any (fun p => p.1 == x && !p.2.isEmpty))
  let pkt (n : Nat) : List (Option W32) := ((r.pkts.find? (fun p => p.1 == n)).map (·.2)).getD []
  let there (x : Nat) : List Nat := (c.under x).filter (fun n => r.passed.any (fun p => p.1 == x && p.2.contains n))
  let cores := nodes.flatMap there
  let vals := combineInputs c.op (meshTy c)
    (nodes.map (fun x => combineInputs c.op (meshTy c) ((there x).map pkt)))
  (vals.map (fun v => v.getD 0), c.mask &&& ~~~(maskOf 52 cores), cores.length
    , (cores.map (fun n => (pkt n).length)).foldl max 0)

/-- Let a node pass its present inputs on (R227). -/
def Channel.passNode (c : Channel) (r : MeshRound) (x : Nat) : MeshRound :=
  if r.hasPassed x then r
  else { r with passed := r.passed ++ [(x, (c.under x).filter (fun n => r.pkts.any (fun p => p.1 == n)))] }

/-- The round is finished at the root: every node passes on what it has. -/
def Channel.finish (c : Channel) (r : MeshRound) : MeshRound :=
  if r.result.isSome then r
  else
    let r1 := c.nodes.foldl c.passNode r
    { r1 with result := some (c.rootResult r1) }

/-- Nodes whose contributors have all arrived pass on, and the root when every contributor's packet has come through; where
one is missing the root waits for its own time (R223, R227). -/
def Channel.settle (c : Channel) (r : MeshRound) : MeshRound :=
  let full (x : Nat) : Bool := (c.under x).all (fun n => r.pkts.any (fun p => p.1 == n))
  let r1 := (c.nodes.filter full).foldl c.passNode r
  let through (x : Nat) : Bool := (c.under x).all (fun n => r1.passed.any (fun p => p.1 == x && p.2.contains n))
  if c.nodes.all through then c.finish r1 else r1

/-- A node at level h of a round takes no input any more (R227). DEDUCED, log 69. -/
def State.meshOver (s : State) (die : Nat) (c : Channel) (r : MeshRound) (h : Nat) : Bool :=
  c.timeout != 0 && !r.pkts.isEmpty && r.result.isNone && decide (h * c.timeout * 256 ≤ s.coreCycles die r.start s.now)

/-- A round with what its timer has already ended (R227). -/
def State.meshTimed (s : State) (die : Nat) (c : Channel) (r : MeshRound) : MeshRound :=
  let r1 := if s.meshOver die c r 1 then c.settle (c.nodes.foldl c.passNode r) else r
  if s.meshOver die c r1 2 then c.finish r1 else r1

def Channel.updRound (c : Channel) (num : Nat) (f : MeshRound → MeshRound) : Channel :=
  { c with rounds := updWhere (fun r => r.num == num) f c.rounds }

/-- Every round in flight completes with the inputs that have arrived; packets on their way are late (R227).
DEDUCED, log 69. -/
def Channel.flush (c : Channel) : Channel :=
  { c with rounds := c.rounds.map c.finish, late := c.late + c.flight.length, flight := [] }

/-! ### MRSEL (R224) -/

/-- The configuration in four words; none where a word is out of its limits. -/
def chanConfig (w : Nat → Nat) (enabled : Nat → Bool) : Option Channel :=
  let mask : BitVec 52 := BitVec.ofNat 52 (w 0 + w 1 % 2 ^ 20 * 2 ^ 32)
  let root := w 2 % 64
  let op := bitsOf (w 2) 9 3
  if w 1 / 2 ^ 20 ≠ 0 ∨ bitsOf (w 2) 13 3 ≠ 0 ∨ bitsOf (w 2) 6 2 ≠ 0 ∨ w 3 ≠ 0 ∨ 2 < op ∨ 51 < root ∨ mask = 0
    ∨ !(enabled root) ∨ (below 52 (fun n => mask.getLsbD n && !enabled n)) ≠ [] then none
  else some { Channel.off with opened := true, mask := mask, timeout := w 2 / 65536, isInt := bitOf (w 2) 12, op := op
                               row := bitOf (w 2) 8, root := root }

/-- Details 1 to 3 of MRSEL (R224). -/
def State.mrselFail (s : State) (c : Channel) (close : Bool) : Option Nat :=
  if c.opened ∧ c.asid ≠ s.g.asid then some 1
  else if !c.rounds.isEmpty then some 2
  else if close ∧ !c.opened then some 3
  else none

/-- MRSEL.open (R224). -/
def execMrselOpen (f : FmtE) (s : State) : Host.Outcome State Fault Refusal :=
  s.word (.mrselOpen f) f.guard (fun s =>
    let c := s.wordChan f
    match s.mrselFail c false with
    | some d => trapRes s 0x1F d
    | none =>
      match chanConfig (fun j => (s.g.wr (f.a.toNat + j)).toNat)
          (fun n => s.coreLive (dieOf s.g.core * 64 + n)) with
      | none => trapRes s 0x1F 6
      | some d => .done (s.setWordChan f { d with asid := s.g.asid, late := if c.opened then c.late + c.flight.length else 0 }))

/-- MRSEL.close (R224). -/
def execMrselClose (f : FmtE) (s : State) : Host.Outcome State Fault Refusal :=
  s.word (.mrselClose f) f.guard (fun s =>
    match s.mrselFail (s.wordChan f) true with
    | some d => trapRes s 0x1F d
    | none => .done (s.setWordChan f Channel.off))

/-! ### MRED (R225) -/

/-- The root has taken this round: its MRCV has issued and is no longer pending. -/
def State.roundTaken (s : State) (die ch k : Nat) : Bool :=
  k < (s.chan die ch).recvd && !s.engOps.any (fun o => dieOf o.core == die && (match o.kind with
    | .mrcv c _ r => c == ch && r == k
    | _ => false))

/-- MRED: its token completes as the packet leaves the core (R225). -/
def execMred (f : FmtE) (s : State) : Host.Outcome State Fault Refusal :=
  s.word (.mred f) f.guard (fun s => s.tokenRoom (fun s =>
    let die := dieOf s.g.core
    let ch := f.imm.toNat % 16
    let c := s.wordChan f
    let n := s.g.core % 64
    let m := bitsOf f.imm.toNat 4 6 + 1
    if c.opened ∧ c.asid ≠ s.g.asid then trapRes s 0x1F 1
    else if !c.opened then trapRes s 0x1F 3
    else if !(n < 52 && c.mask.getLsbD n) then trapRes s 0x1F 4
    else if f.imm.getLsbD 10 ≠ c.isInt then trapRes s 0x1F 7
    else
      let k := c.sent.get 0 n
      let known := c.rounds.any (fun r => r.num == k) || s.roundTaken die ch k
      if !known && 2 ≤ c.rounds.length then .stall s .token
      else
        let act := s.g.active f.guard
        let elems := (List.range m).map (fun e => if act.contains e then some ((s.g.lane e).vr f.a.toNat) else none)
        let c1 := { c with sent := c.sent.put 0 n (k + 1), flight := c.flight ++ [(n, k, elems)]
                           rounds := if known then c.rounds else
                             c.rounds ++ [{ num := k, start := 0, pkts := [], passed := [], result := none }] }
        let (ser, _, s1) := s.newToken f.dst.toNat 4
        .done ((s1.setWordChan f c1).completeToken ser (w32 (k % 256)))))

/-- MESH_PACKET_ARRIVE (R223, R227): the packet of a core for a round reaches its node and is combined, or it is
late. -/
def execMeshPacketArrive (die ch round core : Nat) (s : State) : Host.Outcome State Fault Refusal :=
  .next (
    let c := s.chan die ch
    match c.flight.find? (fun p => p.1 == core && p.2.1 == round) with
    | none => s
    | some p =>
      let c1 := { c.updRound round (s.meshTimed die c) with flight := c.flight.filter (fun x => !(x.1 == core && x.2.1 == round)) }
      match c1.rounds.find? (fun r => r.num == round) with
      | none => s.setChan die ch { c1 with late := c1.late + 1 }
      | some r =>
        if r.hasPassed (c1.node core) || r.result.isSome then s.setChan die ch { c1 with late := c1.late + 1 }
        else
          let begun := !(r.pkts.isEmpty && r.passed.isEmpty)
          s.setChan die ch (c1.updRound round (fun r =>
            c1.settle { r with pkts := r.pkts ++ [(core, p.2.2)], start := if begun then r.start else s.now })))

/-- MESH_NODE_TIMEOUT (R227): a level-1 node, or the root, takes no further input. -/
def execMeshNodeTimeout (die ch round : Nat) (node : Option Nat) (s : State) : Host.Outcome State Fault Refusal :=
  .next (
    let c := s.chan die ch
    match c.rounds.find? (fun r => r.num == round) with
    | none => s
    | some r =>
      let h := if node.isSome then 1 else 2
      if !s.meshOver die c r h then s
      else
        s.setChan die ch (c.updRound round (fun r => match node with
          | some x => c.settle (if c.nodes.contains x then c.passNode r x else r)
          | none => c.finish r)))

/-! ### MRCV (R226) -/

/-- MRCV (R226). -/
def execMrcv (f : FmtE) (s : State) : Host.Outcome State Fault Refusal :=
  s.word (.mrcv f) f.guard (fun s => s.tokenRoom (fun s =>
    let ch := f.imm.toNat % 16
    let c := s.wordChan f
    let off := (s.g.wr f.b.toNat).toNat
    let size := match s.thisBlock with
      | some b => b.spadSize
      | none => 0
    if c.opened ∧ c.asid ≠ s.g.asid then trapRes s 0x1F 1
    else if !c.opened then trapRes s 0x1F 3
    else if s.g.core % 64 ≠ c.root then trapRes s 0x1F 5
    else if off % 16 ≠ 0 then trapRes s 0x0B 0
    else if size < off + 144 then trapRes s 0x08 (off % 2 ^ 24)
    else
      let s1 := s.setWordChan f { c with recvd := c.recvd + 1 }
      .done (s1.startEngine 4 (some f.dst.toNat) none (.mrcv ch off c.recvd))))

/-- The 144 bytes of a result area (R226). DEDUCED, log 71. -/
def resultArea (vals : List W32) (miss : BitVec 52) (n m : Nat) : List Byte :=
  (List.range 32).flatMap (fun e => natBytes 4 (vals.getD e 0).toNat) ++ natBytes 8 miss.toNat ++ natBytes 4 n ++ natBytes 4 m

/-- MRCV_RESULT_WRITE (R226): a finished round goes to the root's scratchpad, and the token completes. -/
def execMrcvResultWrite (op : Nat) (s : State) : Host.Outcome State Fault Refusal :=
  .next (match s.engOps.find? (fun o => o.id == op) with
    | none => s
    | some o => match o.kind with
      | .mrcv ch off k =>
        let die := dieOf o.core
        let c := s.chan die ch
        (match (c.rounds.find? (fun r => r.num == k)).bind (fun r => r.result) with
        | none => s
        | some (vals, miss, n, m) =>
          let s1 := match s.blockOf o.asid o.launch o.block with
            | some b => s.poke (b.at off) (resultArea vals miss n m)
            | none => s
          if !s.ctxRuns o.asid then s else
          let s2 := s1.setChan die ch { c with rounds := c.rounds.filter (fun r => r.num != k) }
          s2.endOp o (w32 ((if miss = 0 then 0 else 2 ^ 31) + k % 256)))
      | _ => s)

end Sys2Proof.Machine
end

