-- ==== Sys2Proof/Machine/Spans.lean ====
section
/-! DEFINITION. The sender's words of counted spans (R228 to R232): slot selection, the send state, and the counted
flag that closes a span. -/

namespace Sys2Proof.Machine

/-- XSLOT (R228). -/
def execXslot (f : FmtE) (s : State) : Host.Outcome State Fault Refusal :=
  s.word (.xslot f) f.guard (fun s =>
    let x := s.g.wr f.a.toNat
    if 64 ≤ x.toNat then trapRes s 0x20 0 else .done { s with g := { s.g with slotSel := x.extractLsb' 0 6 } })

/-- XSTC (R231). -/
def execXstc (f : FmtE) (s : State) : Host.Outcome State Fault Refusal :=
  s.word (.xstc f) f.guard (fun s =>
    let x := (s.g.wr f.a.toNat).toNat
    if 65536 ≤ x then trapRes s 0x20 0
    else
      let st := s.send (x % 1024) (x / 1024)
      .done { s with g := s.g.ww f.dst.toNat (w32 (st.span.toNat * 2 ^ 24 + st.count)) })

/-- Checks 3 and 4 of XFLAG: the leaf of the flag address and its endpoint (R232). -/
def State.flagPage (s : State) (a dst : Nat) : Except Fail Piece :=
  let win := bitsOf a 72 8
  if 0xFC ≤ win ∧ win ≤ 0xFE then .error (.trap 0x21 0)
  else match s.translate s.g.asid a with
    | .notValid => .error (.page [a / 65536])
    | .notPresent _ _ _ => .error (.page [a / 65536])
    | .format e lvl addr => .error (.format 2 a e lvl addr)
    | .leaf e lvl addr =>
      if !pteFt e || pteEp e != dst || pteEp e == s.endpoint then .error (.trap 0x21 0)
      else if !pteW e then .error (.trap 0x0D 2)
      else .ok { loc := leafPa e lvl a, len := 4, va := a, pte := some (e, lvl, addr), ep := some (pteEp e) }

/-- XFLAG (R232): as a release at domain scope it waits for every replica (R304, R306) and drains the buffer, and the flag
waits for the copies issued before it. -/
def execXflag (f : FmtE) (s : State) : Host.Outcome State Fault Refusal :=
  s.word (.xflag f) f.guard (fun s => s.tokenRoom (fun s =>
    let x := (s.g.wr f.a.toNat).toNat
    let a := s.g.wrN f.b.toNat 3
    if tripleBad a then trapRes s 0x06 0
    else if 65536 ≤ x then trapRes s 0x20 0
    else if a % 4 ≠ 0 then trapRes s 0x0B 0
    else match s.flagPage a (x % 1024) with
      | .error e => failRes s none e
      | .ok p =>
        if s.releaseWaits .domain then .stall s .result else
        let s1 := ((s.releaseDrain .domain).touch s.g.asid true p).drainWcb (fun e => e.core == s.g.core && e.dst == x % 1024)
        let (ser, _, s2) := s1.newToken f.dst.toNat 5
        let copies := s.engOps.filter (fun o => o.core == s.g.core && o.asid == s.g.asid && (match o.kind with
          | .copy _ | .scatter _ => true
          | _ => false))
        .done { s2 with flagOps := s2.flagOps ++
          [{ id := ser, core := s.g.core, asid := s.g.asid, dst := x % 1024, slot := x / 1024, dctx := s.cx.dctx
             addr := p.loc, value := s.g.wr f.c.toNat, after := copies.map (·.id) }] }))

/-- XFLAG_SEND (R232): the span closes and the flag leaves, behind the packets that wait for their path; the token
completes. -/
def execXflagSend (op : Nat) (s : State) : Host.Outcome State Fault Refusal :=
  .next (match s.flagOps.find? (fun o => o.id == op) with
    | none => s
    | some o =>
      if !o.after.isEmpty || s.pathWait.any (fun p => p.1 == some o.core || (p.1.isSome && p.2.dst == o.dst && p.2.slot == o.slot)) then s
      else
        let s1 := { s with flagOps := s.flagOps.filter (fun x => x.id != op) }
        let (v, s2) := s1.closeSpan o.dst o.slot o.dctx o.addr o.value
        (s2.trace (dieOf o.core) o.core o.asid 3 v (o.dst + o.slot * 1024)).completeToken op (w32 v))

end Sys2Proof.Machine
end

