-- ==== Sys2Proof/Machine/Hash.lean ====
section
/-! DEFINITION. The hash unit (R234 to R248): claiming and freeing tables, the operations by key, and draining. -/

namespace Sys2Proof.Machine

/-! ### Tables as they lie in the scratchpad (R235, R236) -/

/-- A table: the block that holds it and its entry in the block's map. -/
structure Table where
  b : Block
  t : HashTable
deriving DecidableEq, Repr

/-- Slot size (R235). -/
def HashTable.slot (t : HashTable) : Nat := if t.kw || t.vw then 16 else 8

/-- Bytes of a table's bucket storage, and of its region (R235). -/
def claimBytes (slot bexp : Nat) : Nat := 8 * slot * 2 ^ bexp
def regionBytes (slot bexp : Nat) : Nat := 64 + 16 * 2 ^ bexp + claimBytes slot bexp

/-- Bytes of the block's allocation; zero outside it. -/
def State.allocPeek (s : State) (b : Block) (off n : Nat) : Nat :=
  if off + n ≤ b.spadSize then s.peek (b.at off) n else 0

/-- Store in the block's allocation; nothing outside it. -/
def State.allocPoke (s : State) (b : Block) (off n x : Nat) : State :=
  if off + n ≤ b.spadSize then s.pokeN (b.at off) n x else s

/-- Header fields (R236). -/
def State.htBexp (s : State) (T : Table) : Nat := s.allocPeek T.b T.t.off 4 % 16
def State.htCount (s : State) (T : Table) : Nat := s.allocPeek T.b (T.t.off + 4) 4
def State.htOcap (s : State) (T : Table) : Nat := s.allocPeek T.b (T.t.off + 8) 4
def State.htOnext (s : State) (T : Table) : Nat := s.allocPeek T.b (T.t.off + 12) 4
def State.htSpills (s : State) (T : Table) : Nat := s.allocPeek T.b (T.t.off + 16) 4
/-- The overflow base: bits 239:176 and 255:240 of the header. -/
def State.htObase (s : State) (T : Table) : Nat :=
  let x := s.allocPeek T.b T.t.off 32
  bitsOf x 176 64 + bitsOf x 240 16 * 2 ^ 64

/-- Offset of a bucket's control word, and of a slot (R235). -/
def ctlOff (T : Table) (j : Nat) : Nat := T.t.off + 64 + 16 * j
def slotOff (T : Table) (bexp j sl : Nat) : Nat := T.t.off + 64 + 16 * 2 ^ bexp + 8 * T.t.slot * j + T.t.slot * sl

/-- Control-word fields (R236). -/
def State.htOcc (s : State) (T : Table) (j : Nat) : Nat := s.allocPeek T.b (ctlOff T j) 1
def State.htNchain (s : State) (T : Table) (j : Nat) : Nat := s.allocPeek T.b (ctlOff T j + 4) 4
def State.htHead (s : State) (T : Table) (j : Nat) : Nat := s.allocPeek T.b (ctlOff T j + 8) 4
def State.htTail (s : State) (T : Table) (j : Nat) : Nat := s.allocPeek T.b (ctlOff T j + 12) 4

/-- Key and value of a slot (R236). -/
def State.slotKey (s : State) (T : Table) (j sl : Nat) : Nat :=
  s.allocPeek T.b (slotOff T (s.htBexp T) j sl) (if T.t.kw then 8 else 4)
def State.slotVal (s : State) (T : Table) (j sl : Nat) : Nat :=
  s.allocPeek T.b (slotOff T (s.htBexp T) j sl + T.t.slot / 2) (if T.t.vw then 8 else 4)
def State.setSlotVal (s : State) (T : Table) (j sl v : Nat) : State :=
  s.allocPoke T.b (slotOff T (s.htBexp T) j sl + T.t.slot / 2) (T.t.slot / 2) v
def State.setSlot (s : State) (T : Table) (j sl k v : Nat) : State :=
  (s.allocPoke T.b (slotOff T (s.htBexp T) j sl) (T.t.slot / 2) k).setSlotVal T j sl v

/-- The null index of a chain (R236). -/
def endOfChain : Nat := 0xFFFFFFFF

/-- The bucket of a key (R238). -/
def bucketOf (bexp k : Nat) : Nat := k * 0x9E3779B97F4A7C15 % 2 ^ 64 / 2 ^ (64 - bexp)

/-! ### Overflow entries (R237, R246) -/

/-- Why a key's step stops. -/
inductive HStop where
  | fail (f : Fail)
  | wait (s : State)

/-- An overflow entry as a number of 32 bytes. -/
structure OvEntry where
  key : Nat
  val : Nat
  next : Nat
  bucket : Nat
  live : Bool
deriving DecidableEq, Repr

def OvEntry.of (x : Nat) : OvEntry :=
  { key := bitsOf x 0 64, val := bitsOf x 64 64, next := bitsOf x 128 32, bucket := bitsOf x 160 16, live := bitOf x 176 }
def OvEntry.toNat (e : OvEntry) : Nat :=
  e.key + e.val * 2 ^ 64 + e.next * 2 ^ 128 + e.bucket * 2 ^ 160 + (if e.live then 2 ^ 176 else 0)

def State.ovAddr (s : State) (T : Table) (n : Nat) : Nat := (s.htObase T + 32 * n) % 2 ^ 80

/-- A write to these bytes has still to reach the local replica: the hash unit reads what every earlier step and every
earlier store of the group left (R245, R302). -/
def State.bytesWait (s : State) (ps : List Piece) : Bool :=
  s.seqLog.any (fun w => w.pending.contains (dieOf s.g.core)
    && ps.any (fun p => p.ep.isNone && w.bytes.any (fun b => p.loc ≤ b.1 && b.1 < p.loc + p.len)))

/-- Read an overflow entry in the name of the issuing group, with the checks of R140. DEDUCED, log 73. -/
def State.ovRead (s : State) (T : Table) (tid : W32) (tag n : Nat) : Except HStop (OvEntry × State) :=
  match s.checkAccess tid .read (s.ovAddr T n) 32 1 with
  | .error f => .error (.fail f)
  | .ok ps =>
    if s.bytesWait ps then .error (.wait s)
    else match s.askAll (readAsks tag ps) (fun _ => true) with
      | .wait s1 => .error (.wait s1)
      | .fail _ f => .error (.fail f)
      | .all => .ok (OvEntry.of (bytesNat (s.gather tag ps)), s.touchAll s.g.asid false ps)

/-- The pieces of a write to an overflow entry, checked; it waits where the store would. -/
def State.ovCheck (s : State) (T : Table) (tid : W32) (n : Nat) : Except HStop (List Piece) :=
  match s.checkAccess tid .write (s.ovAddr T n) 32 1 with
  | .error f => .error (.fail f)
  | .ok ps => if s.storeWaits ps then .error (.wait s) else .ok ps

/-- Write a checked overflow entry. -/
def State.ovWrite (s : State) (tid : W32) (ps : List Piece) (e : OvEntry) : State :=
  (s.touchAll s.g.asid true ps).writePieces s.g.core s.g.asid s.g.slotSel.toNat [tid] ps (natBytes 32 e.toNat)

/-- Where a key was found (R238). -/
inductive Found where
  | slot (j sl : Nat)
  | inChain (n : Nat) (e : OvEntry)
  | none
deriving DecidableEq, Repr

/-- Follow a chain to a live entry of a key. DEDUCED, log 72. -/
def State.chainFind (T : Table) (tid : W32) (tag k : Nat) : Nat → State → Nat → Except HStop (Found × State)
  | 0, s, _ => .ok (.none, s)
  | fuel + 1, s, n =>
    if n = endOfChain then .ok (.none, s)
    else match s.ovRead T tid tag n with
      | .error e => .error e
      | .ok (e, s1) =>
        if e.live ∧ e.key = k then .ok (.inChain n e, s1) else State.chainFind T tid tag k fuel s1 e.next

/-- find (R238). -/
def State.hfind (s : State) (T : Table) (tid : W32) (tag k : Nat) : Except HStop (Found × State) :=
  let j := bucketOf (s.htBexp T) k
  match (List.range 8).find? (fun sl => bitOf (s.htOcc T j) sl && s.slotKey T j sl == k) with
  | some sl => .ok (.slot j sl, s)
  | none => State.chainFind T tid tag k (s.htOcap T + 1) s (s.htHead T j)

/-- How place ends (R238). -/
inductive Placed where
  | full | inSlot | spilled
deriving DecidableEq, Repr

/-- place (R238); the checks of its overflow accesses come before any change (R246). -/
def State.hplace (s : State) (T : Table) (tid : W32) (tag k v : Nat) : Except HStop (Placed × State) :=
  let j := bucketOf (s.htBexp T) k
  let bump (s : State) : State := s.allocPoke T.b (T.t.off + 4) 4 (s.htCount T + 1)
  match (List.range 8).find? (fun sl => !bitOf (s.htOcc T j) sl) with
  | some sl => .ok (.inSlot, bump ((s.setSlot T j sl k v).allocPoke T.b (ctlOff T j) 1 (s.htOcc T j + 2 ^ sl)))
  | none =>
    let n := s.htOnext T
    if n = s.htOcap T then .ok (.full, s)
    else match s.ovCheck T tid n with
      | .error e => .error e
      | .ok ps =>
        let new : OvEntry := { key := k, val := v, next := endOfChain, bucket := j, live := true }
        let fin (s : State) : State :=
          let s1 := s.allocPoke T.b (ctlOff T j + 12) 4 n
          let s2 := s1.allocPoke T.b (ctlOff T j + 4) 4 (s1.htNchain T j + 1)
          let s3 := s2.allocPoke T.b (T.t.off + 12) 4 (n + 1)
          bump (s3.allocPoke T.b (T.t.off + 16) 4 (s3.htSpills T + 1))
        let tail := s.htTail T j
        if tail = endOfChain then
          .ok (.spilled, fin ((s.ovWrite tid ps new).allocPoke T.b (ctlOff T j + 8) 4 n))
        else match s.ovRead T tid tag tail with
          | .error e => .error e
          | .ok (e, s1) => match s1.ovCheck T tid tail with
            | .error e => .error e
            | .ok qs => .ok (.spilled, fin ((s1.ovWrite tid ps new).ovWrite tid qs { e with next := n }))

/-! ### The words (R239 to R246) -/

/-- Table h of the issuing block; none where it is not claimed. -/
def State.table (s : State) (h : Nat) : Option Table :=
  match s.thisBlock with
  | none => none
  | some b =>
    let t := b.htabs.get HashTable.off0 h
    if t.claimed then some { b := b, t := t } else none

/-- A drain of table h of the issuing block runs (R241). -/
def State.draining (s : State) (h : Nat) : Bool :=
  s.engOps.any (fun o => o.asid == s.g.asid && o.launch == s.g.launch && o.block == s.g.block && (match o.kind with
    | .drain p => p.h == h
    | _ => false))

/-- Opcode of the word a group is at. -/
def Group.atOpcode (g : Group) : Nat :=
  match g.run with
  | some r => ((r.words.getD r.wix 0).extractLsb' 54 10).toNat
  | none => 0

/-- Another group of the core is in the middle of a hash instruction by key: it has asked for overflow entries, or done some
of its keys; the hash unit takes the next instruction when it is through (R245). -/
def State.hashBusy (s : State) : Bool :=
  s.others.any (fun g => g.core == s.g.core && 0x1C2 ≤ g.atOpcode && g.atOpcode ≤ 0x1C5
    && (s.remotes.any (fun r => r.gid == g.gid) || allLanes.any (fun L => (g.lane L).applied)))

/-- A hash word runs in its turn. -/
def State.hashTurn (s : State) (k : Res) : Res := if s.hashBusy then .stall s .result else k

/-- The table number of a word. -/
def hnum (f : FmtE) : Nat := f.imm.toNat % 8

/-- Bytes claimed on a core (R235). -/
def State.claims (s : State) (core : Nat) : Nat :=
  ((s.blocks.filter (fun b => b.core == core && !b.saved)).flatMap (fun b => b.htabs.map (fun x =>
    if x.2.claimed then claimBytes x.2.slot x.2.bexp else 0))).foldl (· + ·) 0

/-- HTCLAIM's status (R239). -/
def State.claimStatus (s : State) (b : Block) (h cfg off ocap obase : Nat) : Nat :=
  let t : HashTable := { off := off, bexp := cfg % 16, kw := bitOf cfg 4, vw := bitOf cfg 5, claimed := true }
  let size := regionBytes t.slot t.bexp
  let clash (x : Nat × HashTable) : Bool := x.2.claimed && off < x.2.off + regionBytes x.2.slot x.2.bexp && x.2.off < off + size
  if (b.htabs.get HashTable.off0 h).claimed then 1
  else if t.bexp < 6 ∨ 13 < t.bexp ∨ cfg / 64 ≠ 0 then 4
  else if off % 128 ≠ 0 ∨ b.spadSize < off + size ∨ b.htabs.any clash then 3
  else if Config.hashClaimBytes < s.claims b.core + claimBytes t.slot t.bexp then 2
  else if 2 ^ 24 < ocap ∨ (0 < ocap ∧ ((0xFC ≤ bitsOf obase 72 8 ∧ bitsOf obase 72 8 ≤ 0xFE) ∨ obase % 32 ≠ 0)) then 5
  else 0

/-- The control words of an empty table (R239). -/
def emptyCtl (n : Nat) : List Byte := (List.range n).flatMap (fun _ => natBytes 8 0 ++ natBytes 8 (2 ^ 64 - 1))

/-- The header of a fresh table (R236, R239). -/
def freshHeader (cfg ocap obase : Nat) : Nat :=
  cfg % 64 + 64 + ocap * 2 ^ 64 + obase % 2 ^ 64 * 2 ^ 176 + obase / 2 ^ 64 * 2 ^ 240

/-- HTCLAIM (R239); a group without a block has no table and an allocation of 0 bytes (R271). -/
def execHtclaim (f : FmtE) (s : State) : Host.Outcome State Fault Refusal :=
  s.word (.htclaim f) f.guard (fun s =>
    let obase := s.g.wrN f.a.toNat 3
    let cfg := (s.g.wr f.b.toNat).toNat
    let off := (s.g.wr (f.b.toNat + 1)).toNat
    let ocap := (s.g.wr f.c.toNat).toNat
    let give (s : State) (st : Nat) : Res := .done { s with g := s.g.ww f.dst.toNat (w32 st) }
    if tripleBad obase then trapRes s 0x06 0
    else s.hashTurn (match s.thisBlock with
      | none => give s (if cfg % 16 < 6 ∨ 13 < cfg % 16 ∨ cfg / 64 ≠ 0 then 4 else 3)
      | some b =>
        let st := s.claimStatus b (hnum f) cfg off ocap obase
        if st ≠ 0 then give s st
        else
          let t : HashTable := { off := off, bexp := cfg % 16, kw := bitOf cfg 4, vw := bitOf cfg 5, claimed := true }
          let s1 := (s.poke (b.at off) (natBytes 64 (freshHeader cfg ocap obase))).poke (b.at (off + 64)) (emptyCtl (2 ^ t.bexp))
          give (s1.setBlock { b with htabs := b.htabs.put HashTable.off0 (hnum f) t }) 0))

/-- HTFREE (R240). -/
def execHtfree (f : FmtE) (s : State) : Host.Outcome State Fault Refusal :=
  s.word (.htfree f) f.guard (fun s =>
    match s.table (hnum f) with
    | none => trapRes s 0x25 (hnum f)
    | some T =>
      if s.draining (hnum f) then .stall s .token
      else s.hashTurn <|
        let s1 := s.allocPoke T.b T.t.off 1 (s.allocPeek T.b T.t.off 1 &&& 0xBF)
        .done (s1.setBlock { T.b with htabs := T.b.htabs.put HashTable.off0 (hnum f) HashTable.off0 }))

/-- The group checks of a word by key (R241). -/
def State.withTable (s : State) (f : FmtE) (vwChecked : Bool) (k : Table → Res) : Res :=
  match s.table (hnum f) with
  | none => trapRes s 0x25 (hnum f)
  | some T =>
    if f.imm.getLsbD 3 ≠ T.t.kw ∨ (vwChecked ∧ f.imm.getLsbD 4 ≠ T.t.vw) then trapRes s 0x26 (hnum f)
    else if s.draining (hnum f) then .stall s .token
    else s.hashTurn (k T)

/-- Key and value operands of a lane (R241). -/
def Group.hkey (g : Group) (f : FmtE) (L : Nat) : Nat := (g.lane L).vrN f.a.toNat (if f.imm.getLsbD 3 then 2 else 1)
def Group.hval (g : Group) (f : FmtE) (L : Nat) : Nat := (g.lane L).vrN f.b.toNat (if f.imm.getLsbD 4 then 2 else 1)

/-- Distinct keys in ascending order of their lowest lane, with the lanes that hold each (R243). -/
def keyGroups (key : Nat → Nat) : List Nat → List (Nat × List Nat)
  | [] => []
  | L :: ls =>
    let r := keyGroups key ls
    let same := match r.find? (fun x => x.1 == key L) with
      | some x => x.2
      | none => []
    (key L, L :: same) :: r.filter (fun x => x.1 != key L)

/-- Write a lane's status and set its applied bit (R242, R246). -/
def Group.hstatus (g : Group) (f : FmtE) (L st : Nat) : Group :=
  (g.writeV [L] f.dst.toNat 1 (fun _ => st)).mapLanes [L] (fun _ x => { x with applied := true })

/-- The keys one at a time: each step gives the status of each lane (R243, R246). -/
def State.hashKeys (f : FmtE) (step : State → W32 → Nat → Nat → List Nat → Except HStop (List (Nat × Nat) × State)) :
    List (Nat × List Nat) → State → Except Res State
  | [], s => .ok s
  | (k, ls) :: rest, s =>
    let low := ls.headD 0
    match step s (s.g.lane low).threadId (64 + low) k ls with
    | .error (.fail e) => .error (failRes s (some low) e)
    | .error (.wait s1) => .error (.stall s1 .result)
    | .ok (sts, s1) =>
      let g1 := sts.foldl (fun g x => g.hstatus f x.1 x.2) s1.g
      State.hashKeys f step rest { s1 with g := g1 }

/-- A word that changes a table by key: lanes whose applied bit is set are skipped, and the bits are cleared at the end
(R246). -/
def State.hashWord (s : State) (i : Instr) (f : FmtE) (vw : Bool)
    (step : Table → Group → State → W32 → Nat → Nat → List Nat → Except HStop (List (Nat × Nat) × State)) :
    Host.Outcome State Fault Refusal :=
  s.word i f.guard (fun s => s.withTable f vw (fun T =>
    let act := s.g.active f.guard
    let g0 := s.g
    match State.hashKeys f (step T g0) (keyGroups (g0.hkey f) (act.filter (fun L => !(g0.lane L).applied))) s with
    | .error r => r
    | .ok s1 => .done { s1 with g := s1.g.mapLanes act (fun _ x => { x with applied := false }) }))

/-- OVF of a status (R242). -/
def ovf (b : Bool) : Nat := if b then 256 else 0

def Found.isOver : Found → Bool
  | .inChain _ _ => true
  | _ => false

/-- HTINS (R243). -/
def execHtins (f : FmtE) (s : State) : Host.Outcome State Fault Refusal :=
  s.hashWord (.htins f) f true (fun T g0 s tid tag k ls =>
    match s.hfind T tid tag k with
    | .error e => .error e
    | .ok (.none, s1) =>
      match s1.hplace T tid tag k (g0.hval f (ls.headD 0)) with
      | .error e => .error e
      | .ok (.full, s2) => .ok (ls.map (fun L => (L, 4)), s2)
      | .ok (p, s2) =>
        let o := ovf (p == .spilled)
        .ok (ls.map (fun L => (L, (if L = ls.headD 0 then 2 else 1) + o)), s2)
    | .ok (e, s1) => .ok (ls.map (fun L => (L, 1 + ovf e.isOver)), s1))

/-- HTDEL (R243). -/
def execHtdel (f : FmtE) (s : State) : Host.Outcome State Fault Refusal :=
  s.hashWord (.htdel f) f false (fun T _ s tid tag k ls =>
    let give (s : State) (st : Nat) : Except HStop (List (Nat × Nat) × State) := .ok (ls.map (fun L => (L, st)), s)
    let drop (s : State) : State := s.allocPoke T.b (T.t.off + 4) 4 (s.htCount T + 2 ^ 32 - 1)
    match s.hfind T tid tag k with
    | .error e => .error e
    | .ok (.none, s1) => give s1 3
    | .ok (.slot j sl, s1) => give (drop (s1.allocPoke T.b (ctlOff T j) 1 (s1.htOcc T j - 2 ^ sl))) 0
    | .ok (.inChain n e, s1) => match s1.ovCheck T tid n with
      | .error x => .error x
      | .ok ps => give (drop (s1.ovWrite tid ps { e with live := false })) 256)

/-- comb (R244): kind 0 signed, 1 unsigned, 2 FP32; op 0 add, 1 min, 2 max, 3 or; w bits. -/
def hcomb (op kind w a b : Nat) : Nat :=
  if kind = 2 then redStep op .f32 a b
  else
    let val (x : Nat) : Int := if kind = 0 then sextN x w else zextN x w
    match op with
    | 0 => (a + b) % 2 ^ w
    | 1 => if val b < val a then b else a
    | 2 => if val a < val b then b else a
    | _ => a ||| b

/-- HTACC (R243, R244). -/
def execHtacc (f : FmtE) (s : State) : Host.Outcome State Fault Refusal :=
  s.hashWord (.htacc f) f true (fun T g0 s tid tag k ls =>
    let w := if f.imm.getLsbD 4 then 64 else 32
    let op := f.mod.toNat % 4
    let kind := f.mod.toNat / 4
    let canon (x : Nat) : Nat := if kind = 2 then canonF .f32 x else x
    let v := match ls.map (g0.hval f) with
      | [] => 0
      | [x] => canon x
      | x :: xs => canon (xs.foldl (hcomb op kind w) x)
    let give (s : State) (st : Nat) : Except HStop (List (Nat × Nat) × State) := .ok (ls.map (fun L => (L, st)), s)
    match s.hfind T tid tag k with
    | .error e => .error e
    | .ok (.none, s1) => match s1.hplace T tid tag k v with
      | .error e => .error e
      | .ok (.full, s2) => give s2 4
      | .ok (p, s2) => give s2 (2 + ovf (p == .spilled))
    | .ok (.slot j sl, s1) => give (s1.setSlotVal T j sl (canon (hcomb op kind w (s1.slotVal T j sl) v))) 0
    | .ok (.inChain n e, s1) => match s1.ovCheck T tid n with
      | .error x => .error x
      | .ok ps => give (s1.ovWrite tid ps { e with val := canon (hcomb op kind w (e.val % 2 ^ w) v) }) 256)

/-- The value of a found entry. -/
def State.foundVal (s : State) (T : Table) : Found → Option Nat
  | .slot j sl => some (s.slotVal T j sl)
  | .inChain _ e => some (e.val % (if T.t.vw then 2 ^ 64 else 2 ^ 32))
  | .none => none

/-- Look the keys of the active lanes up: the value of each key, before any destination is written (R246). -/
def State.probeKeys (T : Table) : List (Nat × List Nat) → State → Except Res (List (Nat × Option Nat) × State)
  | [], s => .ok ([], s)
  | (k, ls) :: rest, s =>
    let low := ls.headD 0
    match s.hfind T (s.g.lane low).threadId (64 + low) k with
    | .error (.fail e) => .error (failRes s (some low) e)
    | .error (.wait s1) => .error (.stall s1 .result)
    | .ok (e, s1) => match State.probeKeys T rest s1 with
      | .error r => .error r
      | .ok (l, s2) => .ok (ls.map (fun L => (L, s1.foundVal T e)) ++ l, s2)

/-- Look the keys of HELPER lanes up: none where an overflow read fails a check (R245). -/
def State.helperKeys (f : FmtE) (T : Table) : List Nat → State → Except Res (List (Nat × Option Nat) × State)
  | [], s => .ok ([], s)
  | L :: ls, s =>
    match s.hfind T (s.g.lane L).threadId (64 + L) (s.g.hkey f L) with
    | .error (.wait s1) => .error (.stall s1 .result)
    | .error (.fail _) => (match State.helperKeys f T ls s with
      | .error r => .error r
      | .ok (l, s2) => .ok ((L, none) :: l, s2))
    | .ok (e, s1) => match State.helperKeys f T ls s1 with
      | .error r => .error r
      | .ok (l, s2) => .ok ((L, s1.foundVal T e) :: l, s2)

/-- HTPROBE (R243, R245, R246). -/
def execHtprobe (f : FmtE) (s : State) : Host.Outcome State Fault Refusal :=
  s.word (.htprobe f) f.guard (fun s => s.withTable f true (fun T =>
    let act := s.g.active f.guard
    match State.probeKeys T (keyGroups (s.g.hkey f) act) s with
    | .error r => r
    | .ok (l, s0) => match State.helperKeys f T ((s.g.executing f.guard).filter (fun L => !act.contains L)) s0 with
    | .error r => r
    | .ok (l2, s1) =>
      let look (L : Nat) : Option Nat := match (l ++ l2).find? (fun x => x.1 == L) with
        | some x => x.2
        | none => none
      let ex := s1.g.executing f.guard
      let g1 := s1.g.writeV ex f.dst.toNat (if f.imm.getLsbD 4 then 2 else 1) (fun L => (look L).getD (s1.g.hval f L))
      .done { s1 with g := g1.writeP ex (f.c.toNat % 8) (fun L => (look L).isSome) }))

/-- HTSTAT (R248). -/
def execHtstat (f : FmtE) (s : State) : Host.Outcome State Fault Refusal :=
  s.word (.htstat f) f.guard (fun s =>
    let v := match s.table (hnum f) with
      | none => 0
      | some T => match f.mod.toNat with
        | 0 => s.htCount T
        | 1 => s.htOnext T
        | _ => s.allocPeek T.b T.t.off 4
    .done { s with g := s.g.ww f.dst.toNat (w32 v) })

/-! ### Draining (R247) -/

/-- HTDRAIN (R247). -/
def execHtdrain (f : FmtE) (s : State) : Host.Outcome State Fault Refusal :=
  s.engineWord (.htdrain f) f.guard false false (fun s =>
    let a := s.g.wrN f.a.toNat 3
    let cap := (s.g.wr f.b.toNat).toNat
    match s.table (hnum f) with
    | none => trapRes s 0x25 (hnum f)
    | some T =>
      if tripleBad a ∨ bitsOf a 72 8 = 0xFC then trapRes s 0x06 0
      else if a % T.t.slot ≠ 0 then trapRes s 0x0B 0
      else
        let bytes := cap * T.t.slot
        let fails (x : Nat) : Option Fail := match s.decode x with
          | .error e => some e
          | .ok _ => none
        match (if bytes = 0 then none else firstSome [fails a, fails ((a + bytes - 1) % 2 ^ 80)]) with
        | some e => failRes s none e
        | none =>
          if s.draining (hnum f) then .stall s .token
          else .done (s.startEngine 2 (some f.dst.toNat) none
            (.drain { h := hnum f, dst := BitVec.ofNat 80 a, cap := cap, key := f.imm.getLsbD 3, clear := f.imm.getLsbD 4 })))

/-- The bytes of an output entry (R236, R247). -/
def entryBytes (t : HashTable) (e : Nat × Nat) : List Byte := natBytes (t.slot / 2) e.1 ++ natBytes (t.slot / 2) e.2

/-- The table of a drain. -/
def State.drainTable (s : State) (o : EngOp) (p : DrainPlan) : Option Table := (s.asOp o).table p.h

/-- The table emptied as HTCLAIM empties it, SPILLS kept (R247). -/
def State.emptyTable (s : State) (T : Table) : State :=
  let s1 := (s.allocPoke T.b (T.t.off + 4) 4 0).allocPoke T.b (T.t.off + 12) 4 0
  s1.poke (T.b.at (T.t.off + 64)) (emptyCtl (2 ^ s.htBexp T))

/-- The end of a drain: its status, and the table cleared where CLEAR asks (R247). -/
def State.drainEnd (s : State) (o : EngOp) (p : DrainPlan) (T : Table) : ChunkRes :=
  let st := if p.key ∧ 16384 < o.count0 then 3 else if p.cap < o.count0 then 1 else 0
  let s1 := if p.clear ∧ st = 0 then s.emptyTable T else s
  .done s1 o 0 (some (statusWord st o.count0))

/-- Where a drain stands: a bucket, the index of the next entry in its sequence, and in its chain the overflow entry that
comes next. -/
structure DrainPos where
  j : Nat
  r : Nat
  n : Option Nat
deriving DecidableEq, Repr

/-- What a drain meets at a position. -/
inductive Meets where
  /-- an entry in a slot -/
  | entry (k v : Nat) (next : DrainPos)
  /-- an overflow entry that has to be read -/
  | over (n : Nat) (pos : DrainPos)
  | poisoned
  /-- the end of the table -/
  | through
deriving DecidableEq, Repr

/-- The next entry in fixed order, over buckets that have none left (R247); `fuel` bounds the buckets passed. -/
def State.drainMeets (s : State) (T : Table) (nb : Nat) : Nat → DrainPos → Meets
  | 0, _ => .through
  | fuel + 1, p =>
    if nb ≤ p.j then .through
    else match p.n with
      | some n => if n = endOfChain then s.drainMeets T nb fuel { j := p.j + 1, r := 0, n := none } else .over n p
      | none =>
        if s.poisoned (T.b.at (ctlOff T p.j)) 16 then .poisoned
        else match (below 8 (fun sl => bitOf (s.htOcc T p.j) sl))[p.r]? with
          | some sl =>
            if s.poisoned (T.b.at (slotOff T (s.htBexp T) p.j sl)) T.t.slot then .poisoned
            else .entry (s.slotKey T p.j sl) (s.slotVal T p.j sl) { p with r := p.r + 1 }
          | none =>
            let h := s.htHead T p.j
            if h = endOfChain then s.drainMeets T nb fuel { j := p.j + 1, r := 0, n := none } else .over h { p with n := some h }

/-- An overflow entry as a chunk that reads one span of the overflow area finds it. -/
inductive SpanRead where
  | outside | poisoned
  | entry (e : OvEntry)
deriving DecidableEq, Repr

/-- Read an overflow entry within the span (first address and length) of a chunk. -/
def State.drainRead (s : State) (o : EngOp) (T : Table) (span : Option (Nat × Nat)) (n : Nat) : SpanRead :=
  let a := s.ovAddr T n
  match span with
  | none => .outside
  | some (b, len) =>
    if a < b ∨ b + len < a + 32 then .outside
    else match (s.asOp o).checkAccess 0 .read a 32 1 with
      | .error _ => .poisoned
      | .ok ps =>
        .entry (OvEntry.of (bytesNat (if ps.any (fun p => p.ep.isSome) then ((s.opRead o b len).drop (a - b)).take 32
          else (s.asOp o).gather o.tag ps)))

/-- How a run over entries ends. -/
inductive RunEnd where
  | more | poisoned | through
deriving DecidableEq, Repr

/-- The entries from a position on, at most `room`, and where the run over them ends: before an overflow entry outside the
chunk's span, before poison, or at the end of the table (R247). -/
def State.drainRun (s : State) (o : EngOp) (T : Table) (nb : Nat) (span : Option (Nat × Nat)) :
    Nat → Nat → DrainPos → List (Nat × Nat) × DrainPos × RunEnd
  | 0, _, p => ([], p, .more)
  | fuel + 1, room, p =>
    match s.drainMeets T nb (nb + 1) p with
    | .through => ([], { j := nb, r := 0, n := none }, .through)
    | .poisoned => ([], p, .poisoned)
    | .entry k v q =>
      if room = 0 then ([], p, .more)
      else
        let x := s.drainRun o T nb span fuel (room - 1) q
        ((k, v) :: x.1, x.2)
    | .over n q =>
      if room = 0 then ([], p, .more)
      else match s.drainRead o T span n with
        | .outside => ([], q, .more)
        | .poisoned => ([], q, .poisoned)
        | .entry e =>
          if e.live then
            let x := s.drainRun o T nb span fuel (room - 1) { q with r := q.r + 1, n := some e.next }
            ((e.key, e.val) :: x.1, x.2)
          else s.drainRun o T nb span fuel room { q with n := some e.next }

/-- The 4 KiB-aligned span of the overflow area that holds entry n. -/
def State.ovSpan (s : State) (T : Table) (n : Nat) : Nat × Nat :=
  let a := s.ovAddr T n
  let lo := max (s.htObase T) (a / 4096 * 4096)
  let hi := max (a + 32) (min (s.htObase T + 32 * s.htOcap T) (a / 4096 * 4096 + 4096))
  (lo, hi - lo)

/-- The span a chunk from a position has to read before it can give `room` entries; none where slots give them. -/
def State.chunkSpan (s : State) (o : EngOp) (T : Table) (nb fuel room : Nat) (p : DrainPos) : Option (Nat × Nat) :=
  let x := s.drainRun o T nb none fuel room p
  if x.1.length = room then none
  else match s.drainMeets T nb (nb + 1) x.2.1 with
    | .over n _ => some (s.ovSpan T n)
    | _ => none

/-- The read of a chunk's span, checked before it: an entry of it where the area is local, all of it where it is remote. -/
def State.spanAcc (s : State) (o : EngOp) (span : Option (Nat × Nat)) : List OpAcc :=
  match span with
  | none => []
  | some (b, len) =>
    let one : OpAcc := { acc := .read, addr := b, len := min 32 len }
    if ((s.asOp o).opPieces one).any (fun p => p.ep.isSome) then [{ one with len := len }] else [one]

/-- Output entries, as plain stores from number n on. -/
def State.drainPut (s : State) (o : EngOp) (p : DrainPlan) (T : Table) (n : Nat) (es : List (Nat × Nat)) : State × List (Nat × Nat × Byte) :=
  s.opWrite o ((p.dst.toNat + n * T.t.slot) % 2 ^ 80) (es.flatMap (entryBytes T.t))

/-- Entries that fit from number n on: up to CAP, within one 4 KiB-aligned span of the destination (R247). -/
def drainRoom (p : DrainPlan) (T : Table) (n : Nat) : Nat :=
  let a := p.dst.toNat + n * T.t.slot
  min (p.cap - n) ((a / 4096 * 4096 + 4096 - a) / T.t.slot)

/-- A chunk that writes sorted entries (R247). -/
def State.drainSorted (s : State) (o : EngOp) (p : DrainPlan) (T : Table) : ChunkRes :=
  let es := ((sortBy (fun x y => x.1 ≤ y.1) o.found).drop o.curN).take (drainRoom p T o.curN)
  if es.isEmpty then s.drainEnd o p T
  else s.withChunk o [{ acc := .write, addr := (p.dst.toNat + o.curN * T.t.slot) % 2 ^ 80, len := es.length * T.t.slot }] false
    (fun s =>
      let r := s.drainPut o p T o.curN es
      .done (r.1.opSend o r.2) { o with curN := o.curN + es.length } 0 none)

/-- A chunk of a drain (R247): in key order it first gathers, one span of the overflow area at a time, and then writes. -/
def State.drainChunk (s : State) (o : EngOp) (p : DrainPlan) : ChunkRes :=
  match s.drainTable o p with
  | none => .stop none
  | some T =>
    let nb := 2 ^ s.htBexp T
    let fuel := 9 * nb + s.htOcap T + 2
    let pos : DrainPos := { j := o.curA, r := o.curB, n := o.chain }
    if s.poisoned (T.b.at T.t.off) 64 then .stop none
    else if p.key ∧ 16384 < o.count0 then s.drainEnd o p T
    else if p.key ∧ o.curA = 0xFFFFFFFF then s.drainSorted o p T
    else if !p.key ∧ p.cap ≤ o.curN then s.drainEnd o p T
    else
      let room := if p.key then fuel else drainRoom p T o.curN
      let span := s.chunkSpan o T nb fuel room pos
      let x0 := s.drainRun o T nb none fuel room pos
      let out : List OpAcc := if p.key || (span.isNone && x0.1.isEmpty) then []
        else [{ acc := .write, addr := (p.dst.toNat + o.curN * T.t.slot) % 2 ^ 80, len := room * T.t.slot }]
      s.withChunk o (s.spanAcc o span ++ out) false (fun s =>
        let x := s.drainRun o T nb span fuel room pos
        let o1 := { o with curA := x.2.1.j, curB := x.2.1.r, chain := x.2.1.n }
        if x.1.isEmpty ∧ x.2.2 = .poisoned ∧ x.2.1 = pos then .stop none
        else if p.key then
          let o2 := { o1 with found := o.found ++ x.1 }
          .done s (if x.2.2 = .through then { o2 with curA := 0xFFFFFFFF, curB := 0, chain := none } else o2) 0 none
        else if x.1.isEmpty ∧ x.2.2 = .through then s.drainEnd o p T
        else
          let r := s.drainPut o p T o.curN x.1
          .done (r.1.opSend o r.2) { o1 with curN := o.curN + x.1.length } 0 none)

end Sys2Proof.Machine
end

