-- ==== Sys2Proof/Machine/Launch.lean ====
section
/-! DEFINITION. Launch records (R335 to R339): doorbells, the fetch of a record, its numbering and checks, acceptance
with the constant copy, and refusal. Task records are taken by the same operations (R341). -/

namespace Sys2Proof.Machine

/-! ### Device reads in a context's name -/

/-- How a device read of a context's memory goes. -/
inductive CtxRead where
  /-- a remote endpoint has not answered yet -/
  | wait (s : State)
  /-- pages that are not resident -/
  | pages (ps : List Nat)
  | bad (f : Fail)
  | ok (s : State) (bs : List Byte)

/-- Read n bytes at a global address of a context. -/
def State.ctxRead (s : State) (asid tag va n : Nat) : CtxRead :=
  let v := { s with g := { Group.off with asid := asid } }
  match v.checkAccess 0 .read va n 1 with
  | .error (.page ps) => .pages ps
  | .error f => .bad f
  | .ok ps =>
    match v.askAll (readAsks tag ps) (fun _ => true) with
    | .wait s1 => .wait { s1 with g := s.g }
    | .fail _ f => .bad f
    | .all =>
      let v1 := v.touchAll asid false ps
      .ok { v1 with g := s.g, remotes := v1.remotes.filter (fun r => !(r.gid == 0 && r.tag == tag)) } (v1.gather tag ps)

/-- A window whose addresses are translated (R29). -/
def globalWindow (a : Nat) : Bool := !(0xFC ≤ bitsOf a 72 8 && bitsOf a 72 8 ≤ 0xFE)

/-! ### Doorbells (R335) -/

def WorkQueue.cap (x : WorkQueue) : Nat := 2 ^ x.log2n

/-- A queue stops with a queue-stop fault: reason 0 a doorbell beyond N, 1 a ring page without read permission. -/
def State.stopQueue (s : State) (q reason : Nat) : State :=
  let x := s.queue q
  (s.setQueue q { x with state := .stopped }).devFault 0x81 [w64 (q + reason * 2 ^ 17)] (some (s.ctx x.asid).part)

/-- The effect of a doorbell value on a launch queue. DEDUCED, log 82. -/
def State.doorbell (s : State) (q : Nat) (t : W32) : State :=
  let x := s.queue q
  if x.task ∨ x.state = .off ∨ x.state = .stopped then s
  else if 2 ^ 31 ≤ (t - x.tail).toNat then s
  else if x.cap < (t - x.head).toNat then s.stopQueue q 0
  else (s.setQueue q { x with tail := t }).settleQueue q

/-- DOORBELL_WRITE (R335). -/
def execDoorbellWrite (q : Nat) (t : W32) (s : State) : Host.Outcome State Fault Refusal := .next (s.doorbell q t)

/-! ### The checks of a record (R337) -/

def Launch.kind (l : Launch) : Nat := bitsOf (l.word 0) 0 4
def Launch.seed (l : Launch) : W32 := w32 (l.word 1)
def Launch.constAddr (l : Launch) : Nat := l.word 2 + bitsOf (l.word 3) 0 16 * 2 ^ 64
def Launch.spad (l : Launch) : Nat := bitsOf (l.word 3) 16 14
def Launch.tbarQ (l : Launch) : Nat := bitsOf (l.word 3) 30 7
def Launch.queueQ (l : Launch) : Nat := bitsOf (l.word 3) 37 6
def Launch.boundQ (l : Launch) : Nat := bitsOf (l.word 3) 43 5
def Launch.roles (l : Launch) : List Nat := List.range (min 5 l.nroles)

def sumOf (l : List Nat) : Nat := l.foldl (· + ·) 0

/-- Register rows and tiles of one block. -/
def Launch.rows (l : Launch) : Nat := sumOf (l.roles.map (fun r => l.roleRegs r * l.roleGroups r))
def Launch.tiles (l : Launch) : Nat := sumOf (l.roles.map (fun r => l.roleTiles r * l.roleGroups r))

/-- A bit that must be zero is set (check 0x02). -/
def Launch.reservedSet (l : Launch) : Bool :=
  bitsOf (l.word 0) 10 6 != 0 || bitsOf (l.word 0) 40 24 != 0 || bitsOf (l.word 3) 52 12 != 0
    || bitsOf (l.word 5) 16 48 != 0
    || (List.range 5).any (fun r =>
      l.word (7 + 2 * r) != 0 || (if r < l.nroles then bitsOf (l.word (6 + 2 * r)) 52 12 != 0 else l.word (6 + 2 * r) != 0))

/-- A field outside its limits (check 0x03). -/
def Launch.limitsBad (l : Launch) : Bool :=
  l.nroles == 0 || 5 < l.nroles || 8192 < l.spad || 64 < l.tbarQ || 32 < l.queueQ || 16 < l.boundQ || 32 < l.gpb
    || l.roles.any (fun r =>
      let regs := bitsOf (l.word (6 + 2 * r)) 32 9
      regs == 0 || 256 < regs || l.roleGroups r == 0 || 32 < l.roleGroups r || 16 < l.roleTiles r)

/-- A launch of a record, not numbered yet. -/
def Launch.ofWords (words : List W64) : Launch :=
  { asid := 0, num := 0, queue := 0, words := words, const := [], prio := 0, since := 0, nextBlock := 0, blocksEnded := 0
    accepted := false, code := 0, completed := false, slot := none }

/-- A block above the resource floor (R72). -/
def Launch.aboveFloor (l : Launch) : Bool :=
  l.roles.any (fun r => 128 < bitsOf (l.word (6 + 2 * r)) 32 9) || 262144 < l.spad * 128
    || 16 < l.tbarQ || 8 < l.queueQ || 4 < l.boundQ

/-- Checks 0x01 to 0x07. -/
def Launch.check (l : Launch) (c : Ctx) : Option Nat :=
  if !((l.kind == 1 && l.gang == 0) || (l.kind == 2 && l.gang != 0)) then some 0x01
  else if l.reservedSet then some 0x02
  else if l.limitsBad then some 0x03
  else if 3072 < l.rows ∨ 64 < l.tiles ∨ 2 ^ 20 < l.spad * 128 then some 0x04
  else if l.roles.any (fun r => !c.segs.any (fun x => x.start.toNat == l.rolePc r)) then some 0x05
  else if l.nblocks = 0 ∨ l.nblocks % (l.gang + 1) ≠ 0 then some 0x06
  else if 2 ^ 32 < l.threadBase + 32 * l.nblocks * l.gpb then some 0x07
  else none

/-- Effective priority of a launch (R336). -/
def Launch.effPrio (l : Launch) (c : Ctx) : Nat := if bitOf (l.word 3) 51 then min (bitsOf (l.word 3) 48 3) c.prio else c.prio

/-- What check 0x08 finds of a page. -/
inductive PageCheck where
  | good | absent | bad | format (e : W64) (lvl addr : Nat)
deriving DecidableEq, Repr

def State.pageCheck (s : State) (asid va : Nat) (wr : Bool) : PageCheck :=
  match s.translate asid va with
  | .leaf e _ _ => if (if wr then pteW e else pteR e) then .good else .bad
  | .notPresent _ _ _ => .absent
  | .notValid => .bad
  | .format e lvl addr => .format e lvl addr

/-- The pages that check 0x08 looks at: page address, and whether it is written. -/
def Launch.pages (l : Launch) : List (Nat × Bool) :=
  (((splitAt 65536 2 l.constAddr 256).map (fun r => (r.1 / 65536 * 65536 % 2 ^ 80, false)))
    ++ (if l.doneAddr = 0 then [] else [(l.doneAddr / 65536 * 65536, true)]))

/-- DONE_ADDR outside the global window, or unaligned. -/
def Launch.doneBad (l : Launch) : Bool := l.doneAddr != 0 && (!globalWindow l.doneAddr || l.doneAddr % 8 != 0)

/-- CONST or DONE_ADDR outside the global window, or unaligned. -/
def Launch.addrBad (l : Launch) : Bool :=
  !globalWindow l.constAddr || !globalWindow ((l.constAddr + 255) % 2 ^ 80) || l.constAddr % 128 != 0 || l.doneBad

/-! ### Taking a record (R338, R341) -/

/-- A refused launch writes its completion word with the code; a refused task frees its slot (R339, R341).
DEDUCED, log 80. -/
def State.refuseLaunch (s : State) (l : Launch) (code : Nat) : State :=
  let s1 := match l.slot with
    | none => s
    | some i =>
      let x := s.queue l.queue
      let t := { x.slots.get TaskSlot.free i with reserved := false, pub := false, dispatched := true }
      s.setQueue l.queue { x with slots := x.slots.put TaskSlot.free i t }
  -- the word goes only where DONE_ADDR permits
  let silent := l.doneAddr == 0 || l.doneBad || s.pageCheck l.asid l.doneAddr true == .bad
  s1.complete { l with words := if silent then (l.words.set 4 0).set 5 0 else l.words, code := code }

def Launch.same (l x : Launch) : Bool := x.asid == l.asid && x.num == l.num

/-- Checks 0x08 and 0x09 of a launch whose earlier checks passed, and acceptance with the constant copy; the launch
stays held while a page is not resident or a remote constant block has not arrived. -/
def State.acceptLaunch (s : State) (l : Launch) : State :=
  let found := l.pages.map (fun p => (p.1, s.pageCheck l.asid p.1 p.2))
  if l.addrBad || found.any (fun p => p.2 == .bad) then s.refuseLaunch l 0x08
  else
    match found.find? (fun p => match p.2 with | .format _ _ _ => true | _ => false) with
    | some (va, .format e lvl addr) => (s.imprecise l.asid 0x45 [w64 lvl, w64 addr, e] va).refuseLaunch l 0x08
    | _ =>
      let gone := (found.filter (fun p => p.2 == .absent)).map (fun p => p.1 / 65536)
      if !gone.isEmpty then s.wantPages l.asid gone
      else if !(s.ctx l.asid).classOne && l.aboveFloor then s.refuseLaunch l 0x09
      else match s.ctxRead l.asid (2 ^ 40 + l.num) l.constAddr 256 with
        | .wait s1 => s1
        | .pages ps => s.wantPages l.asid ps
        | .bad _ => s.refuseLaunch l 0x08
        | .ok s1 bs =>
          let take (x : Launch) : Launch :=
            { x with accepted := true, const := wordsOf 64 bs, prio := l.effPrio (s1.ctx l.asid) }
          { s1 with launches := updWhere l.same take s1.launches }

/-- A context takes the lowest virtual time of its partition's other active contexts (R344): those with launches that are
not complete. -/
def State.joinVt (s : State) (asid : Nat) : State :=
  let c := s.ctx asid
  let others := s.ctxs.filter (fun x => x.1 != asid && x.2.part == c.part && x.2.state == .running
    && s.launches.any (fun l => l.asid == x.1))
  match others with
  | [] => s
  | x :: xs => s.setCtx asid { c with vt := xs.foldl (fun m y => min m y.2.vt) x.2.vt }

/-- A context that becomes active does so with its first launch (R344). -/
def State.activate (s : State) (asid : Nat) : State :=
  if s.launches.any (fun l => l.asid == asid) then s else s.joinVt asid

/-- Number a record (R338) and check it (R337); a task's age is from when it became ready (R343). -/
def State.takeRecord (s : State) (q asid : Nat) (words : List W64) (slot : Option Nat) : State :=
  let s := s.activate asid
  let c := s.ctx asid
  let since := match slot with
    | some i =>
      let t := (s.queue q).slots.get TaskSlot.free i
      if t.dep = 0 then t.readyAt else s.now
    | none => s.now
  let l : Launch := { Launch.ofWords words with asid := asid, num := c.launchNum, queue := q, since := since, slot := slot }
  let s1 := s.setCtx asid { c with launchNum := (c.launchNum + 1) % 2 ^ 32 }
  let s2 := { s1 with launches := s1.launches ++ [l] }
  match l.check c with
  | some code => s2.refuseLaunch l code
  | none => s2.acceptLaunch l

/-- Doublewords of bytes. -/
def dwordsOf (n : Nat) (bs : List Byte) : List W64 := (List.range n).map (fun i => w64 (bytesNat ((bs.drop (8 * i)).take 8)))

/-- LAUNCH_FETCH (R335, R337): the launches of the queue that its checks hold are looked at again, whether the queue still
fetches or not; where there are none an ACTIVE queue fetches its next record. -/
def execLaunchFetch (q : Nat) (s : State) : Host.Outcome State Fault Refusal :=
  .next (
    let x := s.queue q
    let c := s.ctx x.asid
    if x.state = .off ∨ c.state ≠ .running then s
    else match (s.launchesOf q).filter (fun l => !l.accepted && !l.completed) with
      | l :: ls => ((l :: ls).foldl State.acceptLaunch s).settleQueue q
      | [] =>
        if x.task ∨ x.state ≠ .active ∨ x.head = x.tail ∨ (s.launchesOf q).any Launch.unstarted then s.settleQueue q
        else match s.ctxRead x.asid (2 ^ 41 + q) (x.ring.toNat + 128 * (x.head.toNat % x.cap)) 128 with
          | .wait s1 => s1
          | .pages ps => s.wantPages x.asid ps
          | .bad (.format _ va e lvl addr) =>
            (s.imprecise x.asid 0x45 [w64 lvl, w64 addr, e] (va / 65536 * 65536)).stopQueue q 1
          | .bad _ => s.stopQueue q 1
          | .ok s1 bs =>
            ((s1.setQueue q { x with head := x.head + 1 }).takeRecord q x.asid (dwordsOf 16 bs) none).settleQueue q)

end Sys2Proof.Machine
end

