-- ==== Sys2Proof/Machine/Tasks.lean ====
section
/-! DEFINITION. Task queues (R249 to R251, R340, R341) and the LAUNCH word (R252). -/

namespace Sys2Proof.Machine

/-! ### Slots -/

def WorkQueue.slot (x : WorkQueue) (i : Nat) : TaskSlot := x.slots.get TaskSlot.free i
def WorkQueue.setSlot (x : WorkQueue) (i : Nat) (t : TaskSlot) : WorkQueue := { x with slots := x.slots.put TaskSlot.free i t }

/-- A task-slot handle (R249). -/
def taskHandle (q i : Nat) : Nat := q * 2 ^ 14 + i

/-- The slot at the reservation tail is free: never reserved since enabling, or its task has been dispatched and the
next slot decoded (R340). -/
def WorkQueue.tailFree (x : WorkQueue) : Bool :=
  decide (x.rsv < x.cap)
    || ((x.slot (x.rsv % x.cap)).dispatched && (x.slot ((x.rsv + 1) % x.cap)).decoded)

/-- The task of a slot becomes ready now, and its age starts (R343): that of the launch decoded from it, or of the one that
its decoding will give. -/
def State.taskReady (s : State) (q i : Nat) : State :=
  let x := s.queue q
  let s1 := s.setQueue q (x.setSlot i { x.slot i with readyAt := s.now })
  match (if (x.slot i).decoded then (s.launches.filter (fun l => l.queue == q && l.slot == some i)).getLast? else none) with
  | some l => { s1 with launches := updWhere (fun k => k.asid == l.asid && k.num == l.num) (fun k => { k with since := s.now }) s1.launches }
  | none => s1

/-- A record from its delta and the record before it (R340). -/
def decodeDelta (prev : List W64) (mask : Nat) (delta : List W64) : List W64 :=
  (List.range 16).map (fun i =>
    if bitOf mask i then delta.getD ((below i (bitOf mask)).length) 0 else prev.getD i 0)

/-- Decode the slot with reservation number n where it is published and the one before it is decoded, and then the slots
after it (R341). -/
def State.decodeTasks (q : Nat) : Nat → Nat → State → State
  | 0, _, s => s
  | fuel + 1, n, s =>
    let x := s.queue q
    let i := n % x.cap
    let t := x.slot i
    let before := x.slot ((n + x.cap - 1) % x.cap)
    if x.rsv ≤ n ∨ !t.pub ∨ t.decoded ∨ (n ≠ 0 ∧ !before.decoded) then s
    else
      let words := decodeDelta (if n = 0 then [] else before.words) (t.delta.headD 0).toNat (t.delta.drop 1)
      let s1 := s.setQueue q (x.setSlot i { t with decoded := true, words := words })
      State.decodeTasks q fuel (n + 1) (s1.takeRecord q x.asid words (some i))

/-- The reservation number of the record a slot holds. -/
def WorkQueue.numberOf (x : WorkQueue) (i : Nat) : Nat :=
  x.rsv - 1 - (x.rsv + x.cap - 1 - i) % x.cap

/-- The imprecise task-counter fault (R250, R402). -/
def State.taskCounter (s : State) (handle excess case : Nat) : State :=
  s.impreciseGroup 0x46 [w64 (handle + excess * 2 ^ 32 + case * 2 ^ 56)] 0

/-! ### The words -/

/-- A task word: a release at package scope (R249), and the queue of its operand. -/
def State.taskWord (s : State) (i : Instr) (gd : Guard) (k : State → Res) : Host.Outcome State Fault Refusal :=
  s.word i gd (fun s => if s.releaseWaits .package then .stall s .result else k s)

/-- The queue is a task queue of the executing context. -/
def State.ownTaskQueue (s : State) (q : Nat) : Bool :=
  let x := s.queue q
  x.task && x.state != .off && x.asid == s.g.asid

/-- TKRSV (R250). -/
def execTkrsv (f : FmtE) (s : State) : Host.Outcome State Fault Refusal :=
  s.taskWord (.tkrsv f) f.guard (fun s =>
    let q := (s.g.wr f.a.toNat).toNat
    if 2 ^ 17 ≤ q ∨ !s.ownTaskQueue q then trapRes s 0x27 0
    else
      let x := s.queue q
      let i := x.rsv % x.cap
      if x.tailFree then
        let s1 := s.setQueue q { x.setSlot i { TaskSlot.free with reserved := true } with rsv := x.rsv + 1 }
        .done { s1 with g := s1.g.ww f.dst.toNat (w32 (taskHandle q i)) }
      else .done { s with g := s.g.ww f.dst.toNat noMeeting })

/-- Queue and slot of a handle, its index modulo N (R340); none where it names no task queue of the context. -/
def State.handleSlot (s : State) (h : W32) : Option (Nat × Nat) :=
  let q := bitsOf h.toNat 14 17
  if h.getLsbD 31 || !s.ownTaskQueue q then none else some (q, h.toNat % 2 ^ 14 % (s.queue q).cap)

/-- Publish a slot with its delta record and dependence count (R250). -/
def State.publish (s : State) (h : W32) (q i cnt : Nat) (delta : List W64) : State :=
  let x := s.queue q
  let t := x.slot i
  let s1 := s.setQueue q (x.setSlot i { t with pub := true, dep := cnt - t.early, early := 0, delta := delta })
  let s2 := if cnt < t.early then s1.taskCounter h.toNat (t.early - cnt) 0 else s1
  State.decodeTasks q x.cap (x.numberOf i) (if cnt ≤ t.early then s2.taskReady q i else s2)

/-- TKPUB (R250, R340, R341). -/
def execTkpub (f : FmtE) (s : State) : Host.Outcome State Fault Refusal :=
  s.taskWord (.tkpub f) f.guard (fun s =>
    let h := s.g.wr f.a.toNat
    match s.handleSlot h with
    | none => trapRes s 0x27 0
    | some (q, i) =>
      let t := (s.queue q).slot i
      if !t.reserved || t.pub then trapRes s 0x28 0
      else match s.uniformAddr f.b.toNat with
        | .error e => failRes s none e
        | .ok a => s.readParts f.guard a 8 [0] (fun s l =>
            let head := bytesNat (l.headD [])
            let n := (below 16 (bitOf head)).length
            if 2 ^ 16 ≤ head then trapRes s 0x28 0
            else s.readParts f.guard a (8 + 8 * n) [0] (fun s l =>
              let cnt := (s.g.wr f.c.toNat).toNat
              if 2 ^ 24 ≤ cnt then trapRes s 0x28 0
              else .done (s.publish h q i cnt (dwordsOf (n + 1) (l.headD []))))))

/-- TKSIG (R250, R251). -/
def execTksig (f : FmtE) (s : State) : Host.Outcome State Fault Refusal :=
  s.taskWord (.tksig f) f.guard (fun s =>
    let h := s.g.wr f.a.toNat
    let n := (s.g.wr f.b.toNat).toNat
    match s.handleSlot h with
    | none => trapRes s 0x27 0
    | some (q, i) =>
      let x := s.queue q
      let t := x.slot i
      let lim := 2 ^ 24 - 1
      if 2 ^ 24 ≤ n then trapRes s 0x28 0
      else if n = 0 then .done s
      else if t.pub then
        let s1 := s.setQueue q (x.setSlot i { t with dep := t.dep - n })
        let s2 := if t.dep < n then s1.taskCounter h.toNat (n - t.dep) 1 else s1
        .done (if t.dep ≠ 0 ∧ t.dep ≤ n then s2.taskReady q i else s2)
      else if t.reserved then
        let s1 := s.setQueue q (x.setSlot i { t with early := min lim (t.early + n) })
        .done (if lim < t.early + n then s1.taskCounter h.toNat (t.early + n - lim) 2 else s1)
      else .done (s.taskCounter h.toNat n 3))

/-- LAUNCH (R252): the record goes into the ring at TAIL, the doorbell is rung, and the token completes. -/
def execLaunch (f : FmtE) (s : State) : Host.Outcome State Fault Refusal :=
  s.word (.launch f) f.guard (fun s =>
    s.tokenRoom (fun s =>
      let q := (s.g.wr f.a.toNat).toNat
      let x := s.queue q
      if 2 ^ 17 ≤ q ∨ x.task ∨ x.state = .off ∨ x.asid ≠ s.g.asid then trapRes s 0x27 0
      else match s.uniformAddr f.b.toNat with
        | .error e => failRes s none e
        | .ok a => s.readParts f.guard a 128 [0] (fun s l => s.releasing .system (fun s =>
            if (x.tail - x.head).toNat = x.cap then
              let (ser, _, s2) := s.newToken f.dst.toNat 8
              .done (s2.completeToken ser (w32 (2 ^ 30)))
            else
              let at_ := x.ring.toNat + 128 * (x.tail.toNat % x.cap)
              match s.ctxStore s.g.asid at_ (l.headD []) with
              | (false, _) => .page s [at_ / 65536]
              | (true, s2) =>
                let (ser, _, s3) := (s2.doorbell q (x.tail + 1)).newToken f.dst.toNat 8
                .done (s3.completeToken ser (w32 (x.tail.toNat % 2 ^ 30)))))))

end Sys2Proof.Machine
end

