-- ==== Sys2Proof/Machine/System.lean ====
section
/-! DEFINITION. System registers (R253 to R255), TSTAMP (R256), TRAP and BKPT (R257), TRET (R258), and ECALL
(R259). -/

namespace Sys2Proof.Machine

/-! ### System registers (R254) -/

/-- The scope of a system register. -/
inductive SysScope where
  | lane | group | context
deriving DecidableEq, Repr

/-- Scope and whether it is RW; none for an unassigned number. -/
def sysReg (n : Nat) : Option (SysScope × Bool) :=
  if n < 3 then some (.lane, false)
  else if n = 3 then some (.lane, true)
  else if 0x010 ≤ n ∧ n ≤ 0x013 then some (.group, false)
  else if 0x020 ≤ n ∧ n ≤ 0x022 then some (.context, false)
  else if n = 0x023 then some (.group, false)
  else if 0x030 ≤ n ∧ n ≤ 0x035 then some (.context, false)
  else if n = 0x040 then some (.group, true)
  else if n = 0x041 then some (.context, true)
  else if 0x042 ≤ n ∧ n ≤ 0x046 then some (.context, false)
  else if 0x050 ≤ n ∧ n ≤ 0x05F then some (.context, false)
  else if 0x080 ≤ n ∧ n ≤ 0x084 then some (.group, false)
  else none

/-- GANG_MAP (R254, R271, R338). -/
def State.gangMap (s : State) : Nat :=
  match s.thisBlock with
  | some b =>
    sumOf ((List.range (b.gang + 1)).map (fun i => b.gangCores.getD i 0 % 4 * 4 ^ i)) + b.gang % 4 * 2 ^ 8 + b.gangIndex % 4 * 2 ^ 10
  | none =>
    s.g.core % 4 + (match s.launchOf s.g.asid s.g.launch with
      | some l => l.gang * 2 ^ 8
      | none => 0)

/-- A TRAP_ register: zero outside a user-level trap handler (R254). -/
def Group.trapReg (g : Group) (f : TrapRegs → W32) : Nat :=
  match g.trap with
  | some t => (f t).toNat
  | none => 0

/-- The value of a system register in a lane (R254). DEDUCED, log 70. -/
def State.sysVal (s : State) (n L : Nat) : Nat :=
  let c := s.cx
  if n = 0x000 then L
  else if n = 0x001 then L / 4
  else if n = 0x002 then (s.g.lane L).threadId.toNat
  else if n = 0x003 then (s.g.lane L).rng.toNat
  else if n = 0x010 then s.g.core
  else if n = 0x011 then clusterOf s.g.core
  else if n = 0x012 then s.g.bound
  else if n = 0x013 then s.gangMap
  else if n = 0x020 then s.g.asid
  else if n = 0x021 then c.part
  else if n = 0x022 then s.endpoint
  else if n = 0x023 then s.g.rngSeed.toNat
  else if n = 0x030 then c.codeBase.toNat
  else if n = 0x031 then c.privBase.toNat
  else if n = 0x032 then c.privSize
  else if n = 0x033 then c.stkLimit
  else if n = 0x034 then c.tmplBase.toNat
  else if n = 0x035 then c.tmplCount
  else if n = 0x040 then s.g.fmtDefault.toNat
  else if n = 0x041 then c.parkThresh.toNat
  else if n = 0x042 then (if c.engCompat then 1 else 0)
  else if n = 0x043 then c.lockQuota
  else if n = 0x044 then c.lockUsed (dieOf s.g.core)
  else if n = 0x045 then min (2 ^ 32 - 1) c.aperDrop
  else if n = 0x046 then (if c.bkptSup then 1 else 0)
  else if 0x050 ≤ n ∧ n ≤ 0x05F then
    let ch := s.chan (dieOf s.g.core) (n - 0x050)
    if ch.opened ∧ ch.asid = s.g.asid then min (2 ^ 32 - 1) ch.late else 0
  else if n = 0x080 then s.g.trapReg (·.cause)
  else if n = 0x081 then s.g.trapReg (·.detail)
  else if n = 0x082 then s.g.trapReg (·.pc)
  else if n = 0x083 then s.g.trapReg (·.wix)
  else if n = 0x084 then s.g.trapReg (·.lane)
  else 0

/-- Registers of a system register's operand (R253). -/
def sysRegs (n : Nat) : Nat := if n = 0x030 ∨ n = 0x031 ∨ n = 0x034 then 3 else 1

/-- The system-register trap (R253). -/
def sysTrap (s : State) (detail : Nat) : Res := trapRes s 0x29 detail

/-- SREAD (R253). -/
def execSread (f : FmtE) (s : State) : Host.Outcome State Fault Refusal :=
  s.word (.sread f) f.guard (fun s =>
    let n := f.imm.toNat
    match sysReg n with
    | none => sysTrap s 1
    | some _ =>
      if f.mod = 0 then
        .done { s with g := s.g.writeV (s.g.executing f.guard) f.dst.toNat (sysRegs n) (s.sysVal n) }
      else
        .done { s with g := s.g.wwN f.dst.toNat (sysRegs n) (s.sysVal n ((s.g.active f.guard).headD 0)) })

/-- Write a group or context register that is RW: FMT_DEFAULT and PARK_THRESH (R254, R255). -/
def State.sysWrite (s : State) (n : Nat) (x : W32) : State :=
  if n = 0x040 then { s with g := { s.g with fmtDefault := w32 (x.toNat % 8) } }
  else s.setCtx s.g.asid { s.cx with parkThresh := x }

/-- SWRITE (R253). -/
def execSwrite (f : FmtE) (s : State) : Host.Outcome State Fault Refusal :=
  s.word (.swrite f) f.guard (fun s =>
    let n := f.imm.toNat
    let val (L : Nat) : W32 := if f.mod = 0 then (s.g.lane L).vr f.a.toNat else s.g.wr f.a.toNat
    match sysReg n with
    | none => sysTrap s 1
    | some (_, false) => sysTrap s 2
    | some (.lane, true) =>
      .done { s with g := s.g.mapLanes (s.g.executing f.guard) (fun L x => { x with rng := rngFix (val L) }) }
    | some (_, true) => .done (s.sysWrite n (val ((s.g.active f.guard).headD 0))))

/-- TSTAMP (R256). -/
def execTstamp (f : FmtE) (s : State) : Host.Outcome State Fault Refusal :=
  s.word (.tstamp f) f.guard (fun s =>
    let t := s.now % 2 ^ 64
    if f.mod = 0 then .done { s with g := s.g.wwN f.dst.toNat 2 t }
    else .done { s with g := s.g.writeV (s.g.executing f.guard) f.dst.toNat 2 (fun _ => t) })

/-! ### Traps and their return -/

/-- TRAP (R257). -/
def execTrap (f : FmtE) (s : State) : Host.Outcome State Fault Refusal :=
  s.word (.trap f) f.guard (fun s => trapRes s 0x2B f.imm.toNat)

/-- BKPT (R257). -/
def execBkpt (f : FmtE) (s : State) : Host.Outcome State Fault Refusal :=
  s.word (.bkpt f) f.guard (fun s => trapRes s 0x2C f.imm.toNat)

/-- Return from the user-level trap handler, or the handler-state trap outside one (R258). -/
def trapReturnRes (s : State) (skip : Bool) : Res :=
  if s.g.trap.isNone then trapRes s 0x2D 0 else .stop (s.retire.trapReturn skip)

/-- TRET (R258). -/
def execTret (f : FmtE) (s : State) : Host.Outcome State Fault Refusal :=
  s.word (.tret f) f.guard (fun s => trapReturnRes s false)

/-- TRET.skip (R258). -/
def execTretSkip (f : FmtE) (s : State) : Host.Outcome State Fault Refusal :=
  s.word (.tretSkip f) f.guard (fun s => trapReturnRes s true)

/-! ### Service requests -/

/-- ECALL (R259). -/
def execEcall (f : FmtE) (s : State) : Host.Outcome State Fault Refusal :=
  s.word (.ecall f) f.guard (fun s =>
    s.tokenRoom (fun s => s.releasing .system (fun s =>
      let (ser, _, s1) := s.newToken f.dst.toNat 7
      let op : EcallOp := { id := ser, service := f.imm.toNat, a := s.g.wr f.a.toNat, b := s.g.wr f.b.toNat
                            asid := s.g.asid, core := s.g.core }
      .done ({ s1 with ecalls := s1.ecalls ++ [op] }.emit (.ecall op)))))

/-- ECALL_REPLY (R259): the supervisor's answer completes the token. -/
def execEcallReply (op : Nat) (reply : W32) (s : State) : Host.Outcome State Fault Refusal :=
  .next (if s.ecalls.any (fun e => e.id == op) then
      { s with ecalls := s.ecalls.filter (fun e => e.id != op) }.completeToken op reply
    else s)

end Sys2Proof.Machine
end

