-- ==== Sys2Proof/Machine/EngineRun.lean ====
section
/-! DEFINITION. Engine operations as they run (R207, R209, R210): the start of a queued operation, and its chunks. -/

namespace Sys2Proof.Machine

def EngKind.isMrcv : EngKind → Bool
  | .mrcv _ _ _ => true
  | _ => false

/-- A queued operation may start: earlier operations of its unit have started, and the copy and stream engine runs
fewer than four (R207). DESIGN CHOICE, log 75. -/
def State.mayStart (s : State) (o : EngOp) : Bool :=
  let unit := s.engHeld o.core o.kind.onCopy
  !o.running && !o.kind.isMrcv && s.ctxRuns o.asid && s.coreLive o.core
    && (unit.takeWhile (fun x => x.id != o.id)).all (·.running)
    && (!o.kind.onCopy || decide ((unit.filter (·.running)).length < 4))

/-- ENGINE_OP_START (R207): a drain counts its live entries as it starts (R247). -/
def execEngineOpStart (op : Nat) (s : State) : Host.Outcome State Fault Refusal :=
  .next (match s.engOps.find? (fun o => o.id == op) with
    | none => s
    | some o =>
      if s.mayStart o then
        let n := match o.kind with
          | .drain p => (match s.drainTable o p with
            | some T => s.htCount T
            | none => 0)
          | _ => 0
        { s with engOps := updWhere (fun x => x.id == op) (fun x => { x with running := true, count0 := n }) s.engOps }
      else s)

/-- The chunk at an operation's cursor (R209). -/
def State.runChunk (s : State) (o : EngOp) : ChunkRes :=
  match o.kind with
  | .copy p => s.copyChunk o p
  | .gather p => s.gatherChunk o p false
  | .scatter p => s.gatherChunk o p true
  | .inter p => s.streamChunk o p false
  | .merge p => s.streamChunk o p true
  | .drain p => s.drainChunk o p
  | .tmpl i => if s.releaseWaits .package then .wait s else .done s o 0 (some (w32 i))
  | .mrcv _ _ _ => .wait s

/-- What a chunk's result makes of the operation (R208 to R211). -/
def State.afterChunk (s : State) (o : EngOp) : ChunkRes → State
  | .wait s1 => s1
  | .missing ps a => s.suspend o ps a
  | .stop f => s.terminate o f
  | .done s1 o1 landed fin =>
    let s2 := (({ s1 with engOps := updWhere (fun x => x.id == o.id) (fun _ => o1) s1.engOps }).landBarrier o1 landed).progress
      o.asid
    match fin with
    | some v => s2.endOp o1 v
    | none => s2

/-- ENGINE_CHUNK (R209). -/
def execEngineChunk (op : Nat) (s : State) : Host.Outcome State Fault Refusal :=
  .next (match s.engOps.find? (fun o => o.id == op) with
    | none => s
    | some o =>
      if o.dying && o.waits.isNone then s.terminate o none
      else if o.running && o.waits.isNone && s.ctxRuns o.asid && s.coreLive o.core then s.afterChunk o (s.runChunk o) else s)

end Sys2Proof.Machine
end

