-- ==== Sys2Proof/Machine/Execution.lean ====
section
/-! DEFINITION. A group at a clause boundary: the release of meetings (R130), yield handlers (R277 to R279), the choice
and the fetch of a clause with its checks (R12, R41, R43, R129, R322), and the convergence trap (R136). Then what a
stall turns into: the implicit park (R164), the retry and the end of a parking stall (R266), the full spill (R281), and
the timer and yield events (R264, R277). -/

namespace Sys2Proof.Machine

/-! ### Which lanes -/

/-- The lanes that can issue: LIVE, and inside a user-level trap handler only its lanes (R374). -/
def Group.issuers (g : Group) : List Nat := g.live.filter (fun L => g.trap.isNone || (g.lane L).saved.isSome)

/-- Those of them that are not held. -/
def Group.unheld (g : Group) : List Nat := g.issuers.filter (fun L => (g.lane L).hold = .none)

/-- Release every meeting at which all LIVE lanes with its MR are held (R130, R272). -/
def Group.releaseMeetings (g : Group) : Group :=
  let due (L : Nat) : Bool := decide ((g.lane L).hold = .meeting)
    && g.live.all (fun M => (g.lane M).mr != (g.lane L).mr || decide ((g.lane M).hold = .meeting))
  g.mapLanes (g.live.filter due) (fun _ x => { x with hold := .none, mr := noMeeting })

/-- The lowest PC among some lanes. -/
def Group.minPc (g : Group) (ls : List Nat) : W32 :=
  ls.foldl (fun m L => if (g.lane L).pc.toNat < m.toNat then (g.lane L).pc else m) noMeeting

/-- The lanes of quads whose LIVE lanes are all held at one segment-ending word whose decision is still to be made: they
were resumed so (R262), or a trap came between (R266, R374). At a PARK.Y in a yield handler a lane that was held when the
handler was entered counts as arrived (R280). -/
def Group.undecided (g : Group) (parkY : W32 → Bool) : List Nat :=
  g.issuers.filter (fun L =>
    let x := g.lane L
    decide (x.hold = .segEnd)
      && (g.quadLive (L / 4)).all (fun M => decide ((g.lane M).hold = .segEnd ∧ (g.lane M).pc = x.pc)
        || (x.ypc.isSome && decide ((g.lane M).hold ≠ .none) && (g.lane M).ypc.isNone && parkY x.pc)))

/-- The last instruction word of the clause at a PC, as memory holds it, is a PARK.Y. -/
def State.endsParkY (s : State) (pc : W32) : Bool :=
  match decodeWord [] (w64 (bytesNat (s.codePeek s.g.core s.g.asid (s.cx.codeBase.toNat + pc.toNat + 8 * (s.clauseShape pc).1) 8))) with
  | .ok (.park f) => f.mod.toNat == 2
  | _ => false

/-! ### The fetch of a clause -/

/-- A fetch that fails raises its trap for the group at a resume point, or parks it there for the page (R12, R322). -/
def State.fetchFail (s : State) (pc : W32) (wix : Nat) (f : Fail) : State :=
  match f with
  | .trap c d => s.takeTrapAt { cause := c, detail := d, lane := none } pc wix
  | .page ps => s.pageFault ps
  | .format d va e lvl addr =>
    (s.impreciseGroup 0x45 [w64 lvl, w64 addr, e] (va / 65536 * 65536)).takeTrapAt
      { cause := 0x0D, detail := d, lane := none } pc wix

/-- The bytes of a piece of code as the issuing group's core reads them (R160). -/
def State.codeBytes (s : State) (p : Piece) : List Byte :=
  match p.ep with
  | some _ => (s.pieceBytes 32 p).getD []
  | none => (List.range p.len).map (fun i => match s.hier.codeHeld s.g.core s.g.asid ((p.va + i) / 128) with
    | some l => l.getD ((p.va + i) % 128) 0
    | none => s.byteAt (dieOf s.g.core) (p.loc + i))

/-- The core's instruction cache holds the lines of a local piece of code from its fetch on (R160).
DESIGN CHOICE, log 93. -/
def State.codeKeep (s : State) (p : Piece) : State :=
  if p.ep.isSome then s
  else
    let keep (h : Hier) (l : Nat) : Hier :=
      let v := p.va / 128 + (l - p.loc / 128)
      if (h.codeHeld s.g.core s.g.asid v).isSome then h
      else h.codeHold s.g.core { asid := s.g.asid, vline := v, bytes := s.bytesAt (dieOf s.g.core) (l * 128) 128 }
    { s with hier := (linesOf p.loc p.len).foldl keep s.hier }

/-- Read n bytes of code at an offset from a clause header; the other answer is the state of a fetch that failed or
waits. A fetch fills no data cache (R309). -/
def State.codeRead (s : State) (pc : W32) (wix off n : Nat) : Except State (State × Nat) :=
  if s.cx.codeSize < pc.toNat + off + n then .error (s.takeTrapAt { cause := 0x03, detail := 0, lane := none } pc wix)
  else match s.checkAccess 0 .fetch ((s.cx.codeBase.toNat + pc.toNat + off) % 2 ^ 80) n 1 with
    | .error f => .error (s.fetchFail pc wix f)
    | .ok ps => match s.askAll (readAsks 32 ps) (fun _ => true) with
      | .wait s1 => .error (s1.stallOn .result)
      | .fail _ f => .error (s.fetchFail pc wix f)
      | .all =>
        let s1 := ps.foldl (fun s p => s.seenPiece s.g.asid p) s
        .ok (ps.foldl State.codeKeep s1, bytesNat (ps.flatMap s1.codeBytes))

/-- Fields of a clause header (R40). -/
def headerCount (h : Nat) : Nat := bitsOf h 0 4 + 1
def headerLits (h : Nat) : Nat := bitsOf h 10 3
def headerMeet (h : Nat) : Bool := bitOf h 9
/-- Instruction words of a clause (R39). -/
def headerWords (h : Nat) : Nat := headerCount h - headerLits h

/-- The first check of R41 that a header and the opcodes of its instruction words fail. -/
def clauseCheck (h : Nat) (opcs : List Nat) : Option Nat :=
  let last := opcs.getLastD 0
  if bitsOf h 56 8 ≠ 0xCE then some 1
  else if 5 ≤ bitsOf h 4 4 then some 2
  else if bitsOf h 13 43 ≠ 0 then some 3
  else if headerCount h ≤ headerLits h then some 4
  else if opcs.any (fun o => Enc.assigned o && Enc.classOf o != 0 && Enc.classOf o != bitsOf h 4 4) then some 5
  else if opcs.dropLast.any Enc.isTransfer then some 6
  else if opcs.dropLast.any Enc.isSegEnd then some 7
  else if bitOf h 8 != Enc.isSegEnd last then some 8
  else none

/-- Lanes start, or start again, the clause at a PC: the fetch, the checks, and the meeting hold of lanes that enter it
at its first word (R41, R43, R130). `wix` none names the clause's last instruction word. DEDUCED, log 8. -/
def State.enterClause (s : State) (ls : List Nat) (pc : W32) (wix : Option Nat) (entering : Bool) : State :=
  let at_ := wix.getD ((s.clauseShape pc).1 - 1)
  match s.codeRead pc at_ 0 8 with
  | .error st => st
  | .ok (s1, h) =>
    let n := headerCount h
    match s1.codeRead pc at_ 8 (8 * n) with
    | .error st => st
    | .ok (s2, x) =>
      let all := (List.range n).map (fun i => w64 (bitsOf x (64 * i) 64))
      let ws := all.take (headerWords h)
      match clauseCheck h (ws.map opcOf) with
      | some c => s2.takeTrapAt { cause := 0x01, detail := c, lane := none } pc at_
      | none =>
        let meets (L : Nat) : Bool := entering && headerMeet h && (s2.g.lane L).mr == pc
        let g1 := s2.g.mapLanes ls (fun L y => { y with mid := false, hold := if meets L then .meeting else .none })
        let go := ls.filter (fun L => !meets L)
        let r : Run :=
          { pc := pc, wix := wix.getD (headerWords h - 1), words := ws, lits := all.drop (headerWords h)
            next := pc + BitVec.ofNat 32 (8 * (n + 1)), mask := maskOf 32 go }
        let s3 := { s2 with remotes := s2.remotes.filter (fun (y : RemoteWait) => y.gid != s2.g.gid || y.req.op != RemoteOp.read) }
        if go.isEmpty then { s3 with g := { g1 with stall := none, resumeWix := 0 } }
        else
          let g2 := { g1 with run := some r, keep := none, stall := none, resumeWix := 0, lastClauseStart := s2.now }
          { s3 with g := if r.wix < ws.length then g2 else g2.endClause r }

/-! ### The clause boundary -/

/-- Every lane that could issue is held and nothing lets one go: the convergence trap at the lowest held PC (R136). Inside
a user-level trap handler these are the handler's lanes; where lanes are held both at the meeting and at the last word of
the clause there, the trap names the last word. DEDUCED, log 131. -/
def State.convergence (s : State) : State :=
  let pc := s.g.minPc s.g.issuers
  let seg := s.g.issuers.filter (fun L => (s.g.lane L).pc == pc && decide ((s.g.lane L).hold = .segEnd))
  let wix := if seg.isEmpty then 0
    else match s.g.held.find? (fun h => h.pc == pc) with
      | some h => h.wix
      | none => (s.clauseShape pc).1 - 1
  s.takeTrapAt { cause := 0x05, detail := 0, lane := none } pc wix

/-- Choose the clause that runs next (R129, R262). DEDUCED, log 131. -/
def State.chooseClause (s : State) : State :=
  let again := s.g.undecided s.endsParkY
  if again.isEmpty then
    if s.g.unheld.isEmpty then (if s.g.issuers.isEmpty then s else s.convergence)
    else
      let pc := s.g.minPc s.g.unheld
      s.enterClause (s.g.unheld.filter (fun L => (s.g.lane L).pc == pc)) pc (some 0) true
  else
    let pc := s.g.minPc again
    s.enterClause (again.filter (fun L => (s.g.lane L).pc == pc)) pc none false

/-- The yield handler of the running segment (R278); none where it names none, or where every LIVE lane is held
(R279). -/
def State.yieldHandler (s : State) : Option W32 :=
  if s.g.unheld.isEmpty then none
  else match s.cx.segOf (s.g.minPc s.g.unheld) with
    | some x => if x.handler = 0xFFFFFFFF then none else some x.handler
    | none => none

/-- A full spill of the group (R281). -/
def State.spill (s : State) : State := s.parkAll (ParkPlan.now 4 256 none) true

/-- The backing slots of restored registers are written before the first issue; one that cannot be written is a page fault
or a trap there (R17, R263). -/
def State.restoreSlots (s : State) : Except State State :=
  match s.checkBacking (s.g.slotDue.map (fun x => (x.1, s.slotAddr x.1 x.2, true))) with
  | .error (_, f) => .error (s.fetchFail s.g.lowestPc s.g.resumeWix f)
  | .ok s1 =>
    let s2 := s.g.slotDue.foldl (fun s x => s.saveSlot x.1 x.2) s1
    .ok { s2 with g := { s2.g with slotDue := [] } }

/-- A clause boundary of the issuing group, its backing slots written. -/
def State.boundaryOf (s : State) : State :=
  let s1 := { s with g := s.g.releaseMeetings }
  let mids := s1.g.unheld.filter (fun L => (s1.g.lane L).mid)
  match mids with
  | L :: _ => s1.enterClause mids (s1.g.lane L).pc (some s1.g.resumeWix) (s1.g.resumeWix == 0)
  | [] =>
    if s1.g.yieldReq || s1.g.yieldAt.isSome then
      let s2 := { s1 with g := { s1.g with yieldReq := false, yieldAt := some (s1.g.yieldAt.getD s1.now) } }
      if s2.g.trap.isSome || s2.g.inYield then s2.chooseClause
      else match s2.yieldHandler with
        | none => s2.spill
        | some h =>
          let g3 := s2.g.mapLanes s2.g.unheld (fun _ x => { x with ypc := some x.pc, pc := h })
          { s2 with g := { g3 with keep := none } }.chooseClause
    else s1.chooseClause

/-- A clause boundary of the issuing group (R17, R129). DEDUCED, log 41. -/
def State.boundary (s : State) : State :=
  if s.g.slotDue.isEmpty then s.boundaryOf
  else match s.restoreSlots with
    | .error t => t
    | .ok s1 => s1.boundaryOf

/-- A context's resident groups issue: it runs, or is being switched out (R382). -/
def State.ctxIssues (s : State) (asid : Nat) : Bool :=
  let c := s.ctx asid
  c.state == .running || c.state == .switching

/-- A group may issue as far as its context, its partition and its core go; a frozen partition stops it at its next clause
boundary (R348). -/
def State.mayIssue (s : State) (g : Group) : Bool :=
  g.gid != 0 && !g.empty && s.ctxIssues g.asid && s.coreLive g.core
    && (g.run.isSome || !(s.part (s.ctx g.asid).part).frozen)

/-- A group waits and cannot issue. -/
def Group.waits (g : Group) : Bool :=
  g.parkStall.isSome || g.waitBatch.isSome || (match g.stall with
    | some st => (st.kind == .token && !g.pend.isEmpty) || (st.kind == .tile && (!g.tilePend.isEmpty || g.reload != 0))
    | none => false)

/-- A group waits for what has not come: room in the pool, pages, a token or tile of its own, or an answer. -/
def State.waitsFor (s : State) (g : Group) : Bool :=
  g.waits || (match g.stall with
    | some st => st.kind == .result && s.remotes.any (fun r => r.gid == g.gid && r.status.isNone)
    | none => false)

/-- A group that issues at once. -/
def State.runnable (s : State) (g : Group) : Bool := s.mayIssue g && !s.waitsFor g && g.stall.isNone

/-- Another group of the same issue slot of the core. -/
def Group.sharesSlot (g h : Group) : Bool := h.gid != 0 && h.gid != g.gid && h.core == g.core && h.issueSlot == g.issueSlot

/-- Another group is in the middle of a clause in a group's issue slot, and keeps the slot to the clause's end (R42). -/
def State.slotTaken (s : State) (g : Group) : Bool :=
  s.groups.any (fun h => g.sharesSlot h && h.run.isSome && h.parkStall.isNone && h.waitBatch.isNone && s.mayIssue h)

/-- At a clause boundary a group is the choice of its issue slot: of the groups there that can issue, its last clause start
is the oldest, and then it is the one resident longest (R346). -/
def State.slotFirst (s : State) (g : Group) : Bool :=
  let before (h : Group) : Bool :=
    decide (h.lastClauseStart < g.lastClauseStart) || (h.lastClauseStart == g.lastClauseStart
      && (decide (h.residentSince < g.residentSince) || (h.residentSince == g.residentSince && decide (h.gid < g.gid))))
  !s.groups.any (fun h => g.sharesSlot h && h.run.isNone && s.runnable h && before h)

/-- The issuing group can start a clause: its issue slot chooses it (R42, R346). -/
def State.atBoundary (s : State) : Bool :=
  s.g.gid != 0 && s.g.run.isNone && s.g.parkStall.isNone && s.g.waitBatch.isNone && s.coreLive s.g.core
    && s.ctxIssues s.g.asid && !(s.part s.cx.part).frozen && !s.slotTaken s.g && s.slotFirst s.g

/-- CLAUSE_START (R129). -/
def execClauseStart (s : State) : Host.Outcome State Fault Refusal := .next (if s.atBoundary then s.boundary else s)

/-! ### What a stall turns into -/

/-- A token or tile stall of the issuing group has lasted PARK_THRESH core cycles (R163). DEDUCED, log 42. -/
def State.parkDue (s : State) : Bool :=
  match s.g.stall with
  | some st => (st.kind == .token || st.kind == .tile) && s.g.trap.isNone && s.g.run.isSome && s.cx.parkThresh != 0
      && decide (s.cx.parkThresh.toNat ≤ s.coreCycles (dieOf s.g.core) st.since s.now)
  | none => false

/-- IMPLICIT_PARK (R164). -/
def execImplicitPark (s : State) : Host.Outcome State Fault Refusal :=
  .next (if s.parkDue then s.parkAll (ParkPlan.now 1 256 none) false else s)

/-- PARKING_STALL_RETRY (R266, R267): the records that found no room are written now, as far as there is room. -/
def execParkingStallRetry (s : State) : Host.Outcome State Fault Refusal :=
  .next (match s.g.parkStall with
    | none => s
    | some p => s.park p.recs (p.recs.any (fun x => x.2.kind == 4)) p.pc p.wix)

/-- RECORD_POOL_EXHAUSTED (R266): a group that is parking-stalled for POOL_TMO takes the trap at the resume point of the
word that was parking. -/
def execRecordPoolExhausted (s : State) : Host.Outcome State Fault Refusal :=
  .next (match s.g.parkStall with
    | none => s
    | some p =>
      if p.recs.any (fun x => x.2.kind == 4) || decide (s.now < p.since + s.cx.poolTmo) then s
      else s.takeTrapAt { cause := 0x2A, detail := 0, lane := none } p.pc p.wix)

/-- The yield limit of R277, in core cycles. -/
def yieldLimit : Nat := 4096

/-- A full spill of the issuing group is due: its yield limit has run out (R281), or a request has reached it while it
was parking-stalled (R266). -/
def State.spillDue (s : State) : Bool :=
  match s.g.yieldAt with
  | none => false
  | some t =>
    let stalled := match s.g.parkStall with
      | some p => p.asked && p.recs.all (fun x => x.2.kind != 4)
      | none => false
    let spilling := match s.g.parkStall with
      | some p => p.recs.any (fun x => x.2.kind == 4)
      | none => false
    !spilling && (stalled || decide (yieldLimit ≤ s.coreCycles (dieOf s.g.core) t s.now))

/-- FULL_SPILL (R266, R281). -/
def execFullSpill (s : State) : Host.Outcome State Fault Refusal :=
  .next (if s.g.gid != 0 && s.spillDue then s.spill else s)

/-- YIELD_REQUEST (R277): for the groups of a context, or for one of them. -/
def execYieldRequest (asid : Nat) (gid : Option Nat) (s : State) : Host.Outcome State Fault Refusal :=
  .next (s.mapGroups (fun g =>
    if g.gid ≠ 0 ∧ g.asid = asid ∧ (gid.all (· == g.gid)) then g.askYield s.now else g))

/-! ### Records and time -/

/-- TIMER_WAKE (R264): the records whose deadline the global timestamp has reached. -/
def execTimerWake (s : State) : Host.Outcome State Fault Refusal :=
  .next (s.wake (fun r => r.wkind == 6 && decide (r.wkey0.toNat ≤ s.now)) 0)

/-- EMERGENCY_RECORD_COPY (R267): a spilled record moves into the pool as units are free. -/
def execEmergencyRecordCopy (rid : Nat) (s : State) : Host.Outcome State Fault Refusal :=
  .next (match s.records.find? (fun r => r.rid == rid) with
    | none => s
    | some r => match r.place, s.poolFind r.asid r.units with
      | .emergency _, some u =>
        { s with records := updWhere (fun x => x.rid == rid) (fun x => { x with place := .pool u }) s.records }
      | _, _ => s)

/-- BIN_AGE_EXPIRY (R269): a bin as old as BIN_AGE is DUE. -/
def execBinAgeExpiry (rid : Nat) (s : State) : Host.Outcome State Fault Refusal :=
  .next (match s.records.find? (fun r => r.rid == rid) with
    | none => s
    | some r =>
      match s.binOf r with
      | o :: _ =>
        if (o.readyAt.getD 0) + (s.ctx r.asid).binAge ≤ s.now then
          { s with records := updWhere (fun x => x.readyAt.isSome && x.sameBin r) (fun x => { x with due := true }) s.records }
        else s
      | [] => s)

end Sys2Proof.Machine
end

