-- ==== Sys2Proof/Machine/Bins.lean ====
section
/-! DEFINITION. Room on cores (R16, R25, R269), the order in which candidates start (R343 to R345), the flush and the
reload of bound tiles (R26, R204, R401), and the drain of a bin into a new group (R92, R263, R271). -/

namespace Sys2Proof.Machine

/-! ### Room -/

/-- The groups resident on a core. -/
def State.groupsOn (s : State) (core : Nat) : List Group := s.groups.filter (fun g => g.gid != 0 && g.core == core)

def State.rowsOn (s : State) (core : Nat) : Nat := sumOf ((s.groupsOn core).map (·.bound))

/-- A tile of a core is free (R25); kept tiles of the handles `own` of a context are counted free for their bin. -/
def State.tileFree (s : State) (core asid : Nat) (own : List W32) (j : Nat) : Bool :=
  (s.groupsOn core).all (fun g => !(g.tbase ≤ j && j < g.tbase + g.tiles))
    && s.kept.all (fun k => !(k.core == core && k.tile == j) || (k.asid == asid && own.contains k.handle))

/-- The lowest run of n tiles that satisfy p. DESIGN CHOICE, log 143. -/
def tileRun (p : Nat → Bool) (n : Nat) : Option Nat :=
  if n = 0 then some 0
  else (List.range (Config.tilesPerCore + 1 - n)).find? (fun b => (List.range n).all (fun i => p (b + i)))

/-- The least occupied issue slot of a core, the lowest first (R346). -/
def State.issueSlotOf (s : State) (core : Nat) : Nat :=
  let n (i : Nat) : Nat := ((s.groupsOn core).filter (fun g => g.issueSlot == i)).length
  [1, 2, 3].foldl (fun m i => if n i < n m then i else m) 0

/-- A new group takes its place among the resident ones. DESIGN CHOICE, log 27. -/
def State.place (s : State) (g : Group) : State :=
  if s.g.gid = 0 then { s with g := g } else { s with others := s.others ++ [g] }

/-- The state of the generator of a lane at a segment start (R92). -/
def seedRng (seed tid pc : W32) : W32 :=
  let x := seed ^^^ (tid * 0x9E3779B9#32) ^^^ (pc * 0x85EBCA6B#32)
  if x = 0 then 0x6D2B79F5#32 else x

/-- Entries of n tiles from a base hold values the spec leaves undefined (R26), but for those of the slots in `keep`. -/
def State.freeTiles (s : State) (core base n : Nat) (keep : List Nat) : State :=
  (below n (fun t => !keep.contains t)).foldl (fun s t =>
    let vals := (List.range 1024).map (fun i => (Config.freeValue (s.freeCtr + i)).truncate 32)
    { s.setTile (core * 2 ^ 16 + (base + t) * 1024) vals clean with freeCtr := s.freeCtr + 1024 }) s

/-! ### Candidates (R343, R345) -/

/-- The role that a resume PC belongs to: the one with the greatest entry PC at or below it. DEDUCED, log 44. -/
def Launch.roleOf (l : Launch) (pc : W32) : Nat :=
  let rs := l.roles.filter (fun r => l.rolePc r ≤ pc.toNat)
  rs.foldl (fun m r => if l.rolePc m < l.rolePc r ∨ pc.toNat < l.rolePc m then r else m) (rs.headD 0)

/-- A candidate (R343): a bin by the oldest of its records, or the next block of a launch. -/
structure Cand where
  isBlock : Bool
  asid : Nat
  launch : Nat
  base : Nat
  since : Nat
  rid : Nat
  queue : Nat
  num : Nat
deriving DecidableEq, Repr

/-- Handles of a record. -/
def Rec.handleList (r : Rec) : List W32 := r.handles.map (·.2)

/-- A core has room for a bin (R269): a group slot, register rows, tiles, and its block. -/
def State.binRoom (s : State) (core : Nat) (r : Rec) : Bool :=
  match s.launchOf r.asid r.launch with
  | none => false
  | some l =>
    let role := l.roleOf r.rpc
    (s.groupsOn core).length < Config.groupSlots && s.rowsOn core + l.roleRegs role ≤ Config.regRows
      && (tileRun (s.tileFree core r.asid r.handleList) (l.roleTiles role)).isSome

/-- A core may take a bin (R269, R270, R382): its context runs there, the core lives, and the records may lie there. -/
def State.mayTake (s : State) (core : Nat) (r : Rec) : Bool :=
  s.ctxRuns r.asid && s.coreLive core && (s.part (s.ctx r.asid).part).mask.getLsbD core
    && (if r.block = 0xFFFFFF then dieOf core == dieOf r.core else core == r.core) && s.binRoom core r

/-- The oldest records of the bins there are. -/
def State.binHeads (s : State) : List Rec :=
  s.records.filter (fun r => r.readyAt.isSome && r.xfer.isNone && (s.binOf r).head? == some r)

/-- A core would issue nothing. DEDUCED, log 76. -/
def State.coreIdle (s : State) (core : Nat) : Bool :=
  (s.groupsOn core).all (fun g => s.waitsFor g || !s.mayIssue g)

/-- A bin is DUE for a core: it is, or the core would otherwise issue nothing and this is the oldest bin it may take
(R269). -/
def State.dueFor (s : State) (core : Nat) (r : Rec) : Bool :=
  r.due || (s.coreIdle core && (s.binHeads.filter (s.mayTake core)).all (fun x =>
    r.readyAt.getD 0 < x.readyAt.getD 0 || (x.readyAt == r.readyAt && r.rid ≤ x.rid)))

def State.binCand (s : State) (r : Rec) : Cand :=
  { isBlock := false, asid := r.asid, launch := r.launch
    base := (match s.launchOf r.asid r.launch with
      | some l => l.prio
      | none => 0)
    since := r.readyAt.getD 0, rid := r.rid, queue := 0, num := 0 }

def Launch.cand (l : Launch) : Cand :=
  { isBlock := true, asid := l.asid, launch := l.num, base := l.prio, since := l.since, rid := 0, queue := l.queue
    num := l.nextBlock }

/-- A launch's next block may start as far as its queue and its task go (R335, R341, R382). -/
def State.launchReady (s : State) (l : Launch) : Bool :=
  l.accepted && !l.completed && decide (l.nextBlock < l.nblocks) && !s.waitsPrev l && s.ctxRuns l.asid
    && (match l.slot with
      | none => true
      | some i =>
        let t := (s.queue l.queue).slot i
        l.nextBlock != 0 || (t.pub && t.dep == 0))

/-- The lowest free run of scratchpad bytes of a core (R308). DESIGN CHOICE, log 143. -/
def State.spadFind (s : State) (core n : Nat) : Option Nat :=
  let used := (s.blocks.filter (fun b => b.core == core && !b.saved && b.spadSize != 0)).map (fun b => (b.spadBase, b.spadSize))
  let ok (a : Nat) : Bool := a + n ≤ Config.spadBytes && used.all (fun x => a + n ≤ x.1 || x.1 + x.2 ≤ a)
  ((0 :: used.map (fun x => x.1 + x.2)).filter ok).foldl (fun m a => match m with
    | none => some a
    | some v => some (min a v)) none

/-- Where the tiles of a block's groups go, group by group. -/
def tilePlan (free : Nat → Bool) : List Nat → Option (List Nat)
  | [] => some []
  | n :: ns => match tileRun free n with
    | none => none
    | some b => (tilePlan (fun j => free j && !(b ≤ j && j < b + n)) ns).map (fun l => b :: l)

/-- Roles of a block's groups in order (R338). -/
def Launch.groupRoles (l : Launch) : List Nat := l.roles.flatMap (fun r => List.replicate (l.roleGroups r) r)

/-- A core has room for all groups of a block at once, and for its scratchpad (R338). -/
def State.blockRoom (s : State) (core : Nat) (l : Launch) : Bool :=
  s.coreLive core && (s.part (s.ctx l.asid).part).mask.getLsbD core
    && (s.groupsOn core).length + l.gpb ≤ Config.groupSlots && s.rowsOn core + l.rows ≤ Config.regRows
    && (tilePlan (s.tileFree core l.asid []) (l.groupRoles.map l.roleTiles)).isSome && (s.spadFind core (l.spad * 128)).isSome

/-- Pool units of a block's image (R383). -/
def Launch.imageUnits (l : Launch) : Nat := (l.spad * 128 + 4096) / 256

/-- Runs of pool units for the images of the blocks of a gang. -/
def State.imageRuns (s : State) (l : Launch) : Nat → Option (List Nat)
  | 0 => some []
  | n + 1 => match s.imageRuns l n with
    | none => none
    | some us =>
      let b : Block :=
        { asid := l.asid, launch := l.num, num := 0, core := 0, spadBase := 0, spadSize := 0, tbarQuota := 0, queueQuota := 0
          boundQuota := 0, tbars := [], qmap := [], waiters := [], waiterSeq := 0, htabs := [], gang := 0, gangIndex := 0
          gangCores := [], imageUnit := 0, imageUnits := l.imageUnits, saved := true, image := [], imagePoison := [] }
      match { s with blocks := s.blocks ++ us.map (fun u => { b with imageUnit := u }) }.poolFind l.asid l.imageUnits with
      | some u => some (us ++ [u])
      | none => none

/-- The cores of the cluster of a core. -/
def clusterCores (core : Nat) : List Nat := (List.range 4).map (fun i => core / 4 * 4 + i)

/-- A core may take the next block of a launch: it has room, with as many cores of its cluster as the gang needs. -/
def State.mayStartOn (s : State) (core : Nat) (l : Launch) : Bool :=
  s.blockRoom core l && decide (l.gang + 1 ≤ ((clusterCores core).filter (fun c => s.blockRoom c l)).length)
    && (s.imageRuns l (l.gang + 1)).isSome

/-- Effective priority of a candidate (R343). -/
def State.effOf (s : State) (c : Cand) : Nat :=
  let x := s.ctx c.asid
  let age := s.now - c.since
  let steps := age / (max 1 (s.part x.part).ageStep * 1000)
  min 7 (c.base + (if c.isBlock || x.binAge ≤ age then steps else 0))

/-- Lists of numbers in order. -/
def lexLe : List Nat → List Nat → Bool
  | [], _ => true
  | _ :: _, [] => false
  | x :: xs, y :: ys => x < y || (x == y && lexLe xs ys)

/-- The candidates a core may take. -/
def State.candsFor (s : State) (core : Nat) : List Cand :=
  ((s.binHeads.filter (fun r => s.mayTake core r && s.dueFor core r)).map s.binCand)
    ++ ((s.launches.filter (fun l => s.launchReady l && s.mayStartOn core l)).map Launch.cand)

/-- Every candidate of a partition, with room or without. -/
def State.candsOf (s : State) (part : Nat) : List Cand :=
  (((s.binHeads.filter (fun r => r.due)).map s.binCand) ++ ((s.launches.filter s.launchReady).map Launch.cand)).filter
    (fun c => (s.ctx c.asid).part == part)

/-- The key a core orders its candidates by, lowest first (R343): `skip` leaves out virtual time at priority 7. -/
def State.candKey (s : State) (skip : Bool) (c : Cand) : List Nat :=
  let e := s.effOf c
  [7 - e, if skip && e == 7 then 0 else (s.ctx c.asid).vt, c.since, if c.isBlock then 1 else 0, if c.isBlock then c.queue else c.rid
    , c.num]

/-- A context without a share waits for every other context of its partition at the same priority (R343).
DEDUCED, log 77. -/
def State.shareOk (s : State) (c : Cand) : Bool :=
  (s.ctx c.asid).share != 0
    || !((s.candsOf (s.ctx c.asid).part).any (fun x => x.asid != c.asid && s.effOf x == s.effOf c))

/-- A reservation is of a candidate that still waits here: a launch with a block to start, or a bin's record. -/
def State.standing (s : State) (r : Reserve) : Bool :=
  if r.isBlock then s.launches.any (fun l => l.asid == r.asid && l.num == r.num && l.unstarted)
  else s.records.any (fun x => x.asid == r.asid && x.rid == r.num && x.readyAt.isSome && x.xfer.isNone)

/-- A reservation is a candidate's own. -/
def Reserve.isFor (r : Reserve) (c : Cand) : Bool :=
  r.isBlock == c.isBlock && r.asid == c.asid && r.num == (if c.isBlock then c.launch else c.rid)

/-- A candidate is kept off a core that room was reclaimed on for another one that still waits (R345). -/
def State.reservedFor (s : State) (core : Nat) (c : Cand) : Bool :=
  s.reserved.all (fun r => r.core != core || r.isFor c || !s.standing r)

/-- The candidate a core chooses (R343, R345). -/
def State.chosen (s : State) (core : Nat) : Option Cand :=
  let cs := (s.candsFor core).filter (s.reservedFor core)
  let skip := cs.any (fun c => s.effOf c == 7 && decide (c.base < 7))
  (sortBy (fun a b => lexLe (s.candKey skip a) (s.candKey skip b)) (cs.filter s.shareOk)).head?

/-! ### Images of bound tiles (R401) -/

/-- The imprecise tile-image-access fault (R402). -/
def State.tileFault (s : State) (asid : Nat) (h : W32) (slot addr : Nat) (reload poison : Bool) : State :=
  s.imprecise asid 0x4D
    [w64 (h.toNat + slot * 2 ^ 32 + (if reload then 2 ^ 36 else 0) + (if poison then 2 ^ 37 else 0))] addr

/-- How an access to a tile image went. -/
inductive ImageRes where
  | done | waits | violation
deriving DecidableEq, Repr

/-- Flush a kept tile to its handle's image. -/
def State.flushKept (s : State) (k : KeptTile) (slot : Nat) : ImageRes × State :=
  match s.imageAddr k.asid k.handle with
  | none => (.violation, s.tileFault k.asid k.handle slot 0 false false)
  | some a =>
    let v := { s with g := { Group.off with asid := k.asid, core := k.core } }
    match v.checkAccess 0 .write a 4096 128 with
    | .error (.page ps) => (.waits, s.wantPages k.asid ps)
    | .error _ => (.violation, s.tileFault k.asid k.handle slot a false false)
    | .ok ps =>
      let key := k.core * 2 ^ 16 + k.tile * 1024
      let bad := below 1024 (fun n => (s.tilePoison key).getD n false)
      let v1 := ((v.touchAll k.asid true ps).writePieces k.core k.asid 0 [] ps ((s.tileRaw key).flatMap (fun x => natBytes 4 x.toNat))).poisonBytes
        ps (bad.map (fun n => 4 * n))
      let s1 := { v1 with g := s.g }
      (.done, if bad.isEmpty then s1 else s1.tileFault k.asid k.handle slot a false true)

/-- Reload slot t of a resident group from its handle's image; a page that is missing or an answer that is not there
leaves the slot to be reloaded. -/
def State.reloadSlot (s : State) (g : Group) (t : Nat) : State :=
  let h := g.handles.get noMeeting t
  let settled (s : State) (keep : Bool) : State :=
    s.onGroup g.gid (fun x =>
      let y := { x with reload := x.reload &&& ~~~(1#16 <<< t) }
      if keep then y else y.kw t false)
  match s.imageAddr g.asid h with
  | none => settled (s.tileFault g.asid h t 0 true false) false
  | some a =>
    let v := { s with g := { Group.off with asid := g.asid, core := g.core } }
    match { v with poison := [], cxlDown := 0 }.checkAccess 0 .read a 4096 128 with
    | .error (.page ps) => s.wantPages g.asid ps
    | .error _ => settled (s.tileFault g.asid h t a true false) false
    | .ok ps =>
      match v.askAll (readAsks (2 ^ 42 + 16 * g.gid + t) ps) (fun _ => true) with
      | .wait v1 => { v1 with g := s.g }
      | .fail _ _ => settled (s.tileFault g.asid h t a true false) false
      | .all =>
        let v1 := v.touchAll g.asid false ps
        let ws := wordsOf 1024 (v1.gather (2 ^ 42 + 16 * g.gid + t) ps)
        let bad := (List.range 1024).map (fun n => match pieceLoc ps (4 * n) with
          | some loc => s.poisoned loc 4
          | none => false)
        let s1 := { v1 with g := s.g, remotes := v1.remotes.filter (fun r => !(r.gid == 0 && r.tag == 2 ^ 42 + 16 * g.gid + t)) }
        let s2 := settled (s1.setTile (g.core * 2 ^ 16 + (g.tbase + t) * 1024) ws bad) true
        if bad.any id then s2.tileFault g.asid h t a true true else s2

/-- Reload every slot that waits for it. -/
def State.reloadAll (s : State) : State :=
  (s.groups.filter (fun g => g.reload != 0)).foldl (fun s g =>
    (below 16 (fun t => g.reload.getLsbD t)).foldl (fun s t => s.reloadSlot g t) s) s

/-- The kept tiles of a record's live slots on its core. -/
def State.keptOf (s : State) (r : Rec) : List (Nat × KeptTile) :=
  r.handles.filterMap (fun x =>
    (s.kept.find? (fun k => k.core == r.core && k.asid == r.asid && k.handle == x.2)).map (fun k => (x.1, k)))

/-- Flush the live bound tiles of a record before it leaves its core (R273): whether all of them went, and the state. A
tile with an operation pending waits. -/
def State.flushRec (s : State) (r : Rec) : Bool × State :=
  (s.keptOf r).foldl (fun x tk =>
    if !x.1 then x
    else if !r.klive.getLsbD tk.1 then x
    else if x.2.records.any (fun y => y.core == r.core && y.asid == r.asid && !y.tileSerials.isEmpty
        && y.handles.any (fun z => z.2 == tk.2.handle)) then (false, x.2)
    else match x.2.flushKept tk.2 tk.1 with
      | (.done, s1) => (true, { s1 with kept := s1.kept.filter (fun k => k != tk.2) })
      | (_, s1) => (false, s1)) (true, s)

/-- Kept tiles that no record on their core names any more are released (R204). -/
def State.trimKept (s : State) : State :=
  { s with kept := s.kept.filter (fun k => s.records.any (fun r => r.core == k.core && r.asid == k.asid
      && r.handles.any (fun x => x.2 == k.handle))) }

/-! ### A new group from records (R263, R271) -/

/-- A lane of a resumed group from position j of a record. -/
def Rec.lane (r : Rec) (seed : W32) (j : Nat) : Lane :=
  if !(r.live.getLsbD j || r.helper.getLsbD j) then Lane.off
  else
    let live := r.live.getLsbD j
    let st := r.lstate.getD j 0
    let low := (below 4 (fun i => r.live.getLsbD i)).headD 0
    let i := if live then j else low
    let pos := r.lpcs.getD i 0 + (if r.lstate.getD i 0 = 1 then BitVec.ofNat 32 (8 * r.wix) else 0)
    let part {α : Type} (m : SMap α) : SMap α := m.filterMap (fun x => if x.1 % 4 = j then some (x.1 / 4, x.2) else none)
    let x : Lane :=
      { Lane.off with
        status := if live then .live else .helper, pc := r.lpcs.getD j 0, mr := r.mrs.getD j 0, threadId := r.tids.getD j 0
        v := part r.regs, vPoison := part r.regPoison, p := r.pred.extractLsb' (8 * j) 8
        rng := seedRng seed (r.tids.getD j 0) pos
        hold := if live then (if st = 2 then .meeting else if st = 3 then .segEnd else .none) else .none
        mid := live && st == 1, applied := r.applied.getLsbD j }
    if r.dv then x.vw r.dreg r.dval else x

/-- w registers at a segment start: the constant copy, then the tokens of the records (R263). -/
def startW (const : List W32) (toks : List TokenEntry) : SMap W32 :=
  toks.foldl (fun m t => if t.valid then m.put 0 t.wreg t.value else m) ((List.range 64).foldl (fun m n => m.put 0 n (const.getD n 0)) [])

/-- Drain records of one bin into a new group on a core that has room (R263, R269, R271). -/
def State.drainInto (s : State) (core : Nat) (recs : List Rec) (r0 : Rec) (l : Launch) : State :=
  let role := l.roleOf r0.rpc
  let n := l.roleTiles role
  let tbase := (tileRun (s.tileFree core r0.asid r0.handleList) n).getD 0
  let bound := r0.handles.filter (fun x => x.1 < n)
  let kept := (s.keptOf r0).filter (fun x => x.2.core == core && x.1 < n)
  let data := kept.map (fun x => (x.1, s.tileRaw (core * 2 ^ 16 + x.2.tile * 1024), s.tilePoison (core * 2 ^ 16 + x.2.tile * 1024)))
  let kb := bound.filter (fun x => r0.klive.getLsbD x.1)
  let gone := kb.filter (fun x => !(kept.any (fun y => y.1 == x.1)))
  let lanes := (recs.mapIdx (fun k r => (List.range 4).map (fun j => (4 * k + j, r.lane l.seed j)))).flatten
  let g : Group :=
    { Group.off with
      gid := s.gidNext, core := core, asid := r0.asid, launch := r0.launch, block := r0.block
      lanes := lanes.foldl (fun m x => m.put Lane.off x.1 x.2) []
      w := startW l.const (recs.flatMap (·.tokens)), k := maskOf 16 (kb.map (·.1)), bound := l.roleRegs role
      vbase := s.rowsOn core, tbase := tbase, tiles := n, handles := bound, rngSeed := l.seed, resumeWix := r0.wix
      issueSlot := s.issueSlotOf core, residentSince := s.now, reload := maskOf 16 (gone.map (·.1)) }
  let out (r : Rec) : Bool := recs.any (fun x => x.rid == r.rid)
  let rest := (s.records.filter (fun r => !out r)).map (fun r => if r.sameBin r0 then { r with due := false } else r)
  let s1 := { s with records := rest, gidNext := s.gidNext + 1
                     kept := s.kept.filter (fun k => !(kept.any (fun x => x.2 == k)))
                     reserved := s.reserved.filter (fun x => x.isBlock || !recs.any (fun r => r.rid == x.num)) }
  let s2 := s1.freeTiles core tbase n (data.map (·.1))
  let s3 := data.foldl (fun s d => s.setTile (core * 2 ^ 16 + (tbase + d.1) * 1024) d.2.1 d.2.2) s2
  let s4 := recs.foldl (fun s r => s.traceAfter (if r.away then some r.tstamp else none) (dieOf core) core r.asid 1 r.rid core) s3
  let s5 := (recs.mapIdx (fun k r => (k, r.nlive))).foldl (fun s x => s.saveSlots (quadLanes x.1) (List.range x.2)) { s4 with g := g }
  let due := (recs.mapIdx (fun k r => (k, r.nlive))).flatMap (fun x => (quadLanes x.1).flatMap (fun L =>
    ((List.range x.2).filter (fun n => g.bound ≤ n && (s5.g.lane L).isLive && !(s5.g.lane L).inSlot.get false n)).map
      (fun n => (L, n))))
  (((({ s5 with g := s4.g }).place { s5.g with slotDue := due }).takeAsks g.gid recs).trimKept.settle).reloadAll

/-- BIN_DRAIN (R269, R271, R343): the bin of a record is drained on a core that chooses it. -/
def execBinDrain (rid core : Nat) (s : State) : Host.Outcome State Fault Refusal :=
  .next (match s.records.find? (fun r => r.rid == rid && r.readyAt.isSome && r.xfer.isNone) with
    | none => s
    | some r =>
      match s.binOf r, s.launchOf r.asid r.launch with
      | r0 :: rs, some l =>
        if s.chosen core = some (s.binCand r0) then
          let recs := (r0 :: rs).take 8
          if core = r0.core then s.drainInto core recs r0 l
          else
            let s1 := s.drainWcb (fun e => e.core == r0.core && e.asid == r0.asid)
            match s1.flushRec r0 with
            | (true, s2) => s2.drainInto core recs r0 l
            | (false, s2) => s2
        else s
      | _, _ => s)

end Sys2Proof.Machine
end

