-- ==== Sys2Proof/Machine/Blocks.lean ====
section
/-! DEFINITION. The start of a block or of a gang of blocks (R338, R383). -/

namespace Sys2Proof.Machine

/-- A lane at its first segment start (R12, R92, R338). DESIGN CHOICE, log 18. -/
def startLane (seed pc tid : W32) : Lane :=
  { Lane.off with status := .live, pc := pc, threadId := tid, rng := seedRng seed tid pc }

/-- Group number i of a block: its role, and its lanes. DEDUCED, log 45. -/
def Launch.startGroup (l : Launch) (block i role core tbase gid vbase now slot : Nat) : Group :=
  let tid (L : Nat) : W32 := w32 (l.threadBase + 32 * (block * l.gpb + i) + L)
  { Group.off with
    gid := gid, core := core, asid := l.asid, launch := l.num, block := block
    lanes := allLanes.foldl (fun m L => m.put Lane.off L (startLane l.seed (w32 (l.rolePc role)) (tid L))) []
    w := startW l.const [], bound := l.roleRegs role, vbase := vbase, tbase := tbase, tiles := l.roleTiles role
    rngSeed := l.seed, issueSlot := slot, residentSince := now }

/-- Start the groups of a block, each as (number in the block, role, first tile). -/
def State.startGroups (s : State) (l : Launch) (block core : Nat) : List (Nat × Nat × Nat) → State
  | [] => s
  | (i, role, tbase) :: rest =>
    let g := l.startGroup block i role core tbase s.gidNext (s.rowsOn core) s.now (s.issueSlotOf core)
    ((({ s with gidNext := s.gidNext + 1 }).freeTiles core tbase (l.roleTiles role) []).place g).startGroups l block core rest

/-- Start member m of a gang on its core, with its run of pool units. -/
def State.startBlock (s : State) (l : Launch) (cores : List Nat) (m unit : Nat) : State :=
  let core := cores.getD m 0
  let b : Block :=
    { asid := l.asid, launch := l.num, num := l.nextBlock + m, core := core
      spadBase := (s.spadFind core (l.spad * 128)).getD 0, spadSize := l.spad * 128, tbarQuota := l.tbarQ
      queueQuota := l.queueQ, boundQuota := l.boundQ, tbars := [], qmap := [], waiters := [], waiterSeq := 0, htabs := []
      gang := l.gang, gangIndex := m, gangCores := cores, imageUnit := unit, imageUnits := l.imageUnits, saved := false
      image := [], imagePoison := [] }
  let bases := (tilePlan (s.tileFree core l.asid []) (l.groupRoles.map l.roleTiles)).getD []
  ({ s with blocks := s.blocks ++ [b] }).startGroups l b.num core
    (l.groupRoles.mapIdx (fun i r => (i, r, bases.getD i 0)))

/-- A task whose first block starts has been dispatched (R340). DEDUCED, log 81. -/
def State.dispatched (s : State) (l : Launch) : State :=
  match l.slot with
  | none => s
  | some i =>
    if l.nextBlock = 0 then
      let x := s.queue l.queue
      s.setQueue l.queue (x.setSlot i { x.slot i with reserved := false, pub := false, dispatched := true })
    else s

/-- The cores are a legal place for the next blocks of a launch: one for each, in one cluster, ascending, and each of
them chooses the launch (R338, R343). -/
def State.placeOk (s : State) (l : Launch) (cores : List Nat) : Bool :=
  cores.length == l.gang + 1 && cores.all (fun c => c / 4 == cores.headD 0 / 4)
    && decide (cores.Pairwise (· < ·)) && cores.all (fun c => s.blockRoom c l && s.chosen c == some l.cand)

/-- BLOCK_START (R338): the next block, or gang of blocks, of the launch whose context and LAUNCH number make up
`launch` (context in bits 41:32), on these cores. -/
def execBlockStart (launch : Nat) (cores : List Nat) (s : State) : Host.Outcome State Fault Refusal :=
  .next (match s.launchOf (launch / 2 ^ 32) (launch % 2 ^ 32) with
    | none => s
    | some l =>
      match s.imageRuns l (l.gang + 1) with
      | none => s
      | some us =>
        if s.launchReady l && s.placeOk l cores then
          let s1 := (List.range (l.gang + 1)).foldl (fun s m => s.startBlock l cores m (us.getD m 0)) s
          let s2 := { s1 with
            launches := updWhere l.same (fun x => { x with nextBlock := x.nextBlock + l.gang + 1 }) s1.launches
            reserved := s1.reserved.filter (fun x => !(x.isBlock && x.asid == l.asid && x.num == l.num)) }
          let s3 := if l.nextBlock = 0 then s2.trace (dieOf (cores.headD 0)) (cores.headD 0) l.asid 6 l.num l.queue else s2
          (s3.dispatched l).settleQueue l.queue
        else s)

end Sys2Proof.Machine
end

