-- ==== Sys2Proof/Machine/Forward.lean ====
section
/-! DEFINITION. Forwarding (R273 to R276): to another core with the flush of bound tiles and the move of a whole block,
to another device, and the arrival and acceptance of records; and the firing of fault batches (R283). -/

namespace Sys2Proof.Machine

/-! ### A block moves -/

/-- Bytes of one run take the place of another. -/
def State.moveBytes (s : State) (src dst n : Nat) : State :=
  { s with mem := overlayOf 0 s.mem dst n ((sliceOf s.mem src n).map (fun c => (c.1 - src + dst, c.2)))
           poison := overlayOf false s.poison (dst / 32) (n / 32)
             ((sliceOf s.poison (src / 32) (n / 32)).map (fun c => (c.1 - src / 32 + dst / 32, c.2))) }

/-- The key of a record that waits on a barrier of a moved block (R265, R276). -/
def Rec.rekey (r : Rec) (b : Block) (core base : Nat) : Rec :=
  let byte := bitsOf r.wkey0.toNat 16 20
  if r.wkind == 2 && bitsOf r.wkey1.toNat 20 2 == 2 && bitsOf r.wkey0.toNat 0 16 == b.core
      && decide (b.spadBase ≤ byte) && decide (byte < b.spadBase + b.spadSize) then
    { r with wkey0 := w64 (core + (byte - b.spadBase + base) * 2 ^ 16) }
  else r

/-- A record lies on another core. -/
def Rec.toCore (r : Rec) (core : Nat) : Rec := { r with core := core, away := r.away || dieOf core != dieOf r.core }

/-- A block with its scratchpad and its records takes a place on another core (R273). -/
def State.moveBlock (s : State) (b : Block) (core base : Nat) : State :=
  let s1 := s.moveBytes (spadLoc b.core b.spadBase) (spadLoc core base) b.spadSize
  let mine (r : Rec) : Bool := r.asid == b.asid && r.launch == b.launch && r.block == b.num
  { s1 with
    blocks := updWhere (fun c => c.is b.asid b.launch b.num)
      (fun c => { c with core := core, spadBase := base, gangCores := c.gangCores.map (fun x => if x = b.core then core else x) }) s1.blocks
    records := s1.records.map (fun r => if mine r then (r.rekey b core base).toCore core else r) }

/-- Bytes claimed for the hash tables of a block (R235). -/
def Block.claims (b : Block) : Nat := sumOf (b.htabs.map (fun x => if x.2.claimed then claimBytes x.2.slot x.2.bexp else 0))

/-- A block may move: it stands alone, no engine operation works on it, and no group of it is resident (R273). -/
def State.mayMove (s : State) (b : Block) : Bool :=
  b.gang == 0 && !(s.engOps ++ s.apStarts).any (fun o => o.asid == b.asid && o.launch == b.launch && o.block == b.num)
    && !s.groups.any (fun g => g.gid != 0 && g.asid == b.asid && g.launch == b.launch && g.block == b.num)

/-! ### BIN_FORWARD -/

/-- No core of its own die has room for a DUE bin (R273). -/
def State.forwardDue (s : State) (r : Rec) : Bool :=
  r.due && s.ctxRuns r.asid && (List.range 64).all (fun i => !s.mayTake (64 * dieOf r.core + i) r)

/-- A core of the device is a target with room (R273). -/
def State.targetOk (s : State) (r : Rec) (core : Nat) : Bool :=
  core != r.core && s.coreLive core && (s.part (s.ctx r.asid).part).mask.getLsbD core && s.binRoom core r
    && (r.block == 0xFFFFFF || (match s.blockOf r.asid r.launch r.block with
      | none => false
      | some b => s.mayMove b && (s.spadFind core b.spadSize).isSome
          && decide (s.claims core + b.claims ≤ Config.hashClaimBytes)))

/-- Flush the bound tiles of some records, as far as each goes. -/
def State.flushRecs (s : State) (rs : List Rec) : Bool × State :=
  rs.foldl (fun x r => if x.1 then x.2.flushRec r else x) (true, s)

/-- The mark of a forwarded record: the trace, and the telemetry of its segment (R347, R386). -/
def State.sentOut (s : State) (rs : List Rec) (target : Nat) : State :=
  rs.foldl (fun s r => (s.trace (dieOf r.core) r.core r.asid 2 r.rid target).telemetry r.core r.asid r.rpc 0 1 0 0) s

/-- Change the records listed. -/
def State.onRecs (s : State) (rs : List Rec) (f : Rec → Rec) : State :=
  { s with records := updWhere (fun (x : Rec) => rs.any (fun y => y.rid == x.rid)) f s.records }

/-- Forward records to another core of the device; a target of the same device takes them at once (R275). -/
def State.forwardCore (s : State) (r : Rec) (core : Nat) : State :=
  let bound := r.block != 0xFFFFFF
  let moved := if bound then s.records.filter (fun x => x.asid == r.asid && x.launch == r.launch && x.block == r.block)
    else s.binOf r
  let s1 := s.drainWcb (fun e => e.core == r.core && e.asid == r.asid)
  match s1.flushRecs moved with
  | (false, s2) => s2
  | (true, s2) =>
    let s3 := s2.sentOut moved s2.endpoint
    let s4 := match (if bound then s3.blockOf r.asid r.launch r.block else none) with
      | some b => s3.moveBlock b core ((s3.spadFind core b.spadSize).getD 0)
      | none => s3.onRecs moved (fun x => x.toCore core)
    (s4.onRecs moved (fun x => { x with due := false })).trimKept.settle

/-- The records that leave with one: its bin, or every record of its block (R273). -/
def State.leavesWith (s : State) (r : Rec) : List Rec :=
  if r.block = 0xFFFFFF then s.binOf r else s.records.filter (fun x => x.asid == r.asid && x.launch == r.launch && x.block == r.block)

/-- The image of a block's scratchpad (R273, R382). -/
def State.saveBlock (s : State) (b : Block) : Block :=
  let a := spadLoc b.core b.spadBase
  { b with
    saved := true, image := (sliceOf s.mem a b.spadSize).map (fun c => (c.1 - a, c.2))
    imagePoison := (sliceOf s.poison (a / 32) (b.spadSize / 32)).map (fun c => (c.1 - a / 32, c.2)) }

/-- Records may go to another device (R273, R274): a block alone with all its records, none of them under way. -/
def State.deviceOk (s : State) (r : Rec) (ep : Nat) : Bool :=
  ep != s.endpoint && s.pathUp && (r.block == 0xFFFFFF || ((s.leavesWith r).all (fun x => x.durable && x.xfer.isNone)
    && (match s.blockOf r.asid r.launch r.block with
      | some b => s.mayMove b
      | none => false)))

/-- Send records to another device of the domain, as transfers that no span counts; the source keeps them until each is
accepted (R274, R275). DEDUCED, log 78. -/
def State.forwardDevice (s : State) (r : Rec) (ep : Nat) : State :=
  let moved := s.leavesWith r
  let s1 := s.drainWcb (fun e => e.core == r.core && e.asid == r.asid)
  match s1.flushRecs moved with
  | (false, s2) => s2
  | (true, s2) =>
    let b := if r.block = 0xFFFFFF then none else (s2.blockOf r.asid r.launch r.block).map s2.saveBlock
    let s3 := moved.foldl (fun s x => s.emit (.record ep x.rid (s.imageOf x b))) s2
    (s3.onRecs moved (fun x => { x with xfer := some ep })).trimKept

/-- IDLE and BUSY of a core for the segment of a bin (R347). -/
def State.telemIdle (s : State) (r : Rec) (core : Nat) : Nat × Nat :=
  let c := s.ctx r.asid
  match c.segs.findIdx? (fun x => x.start.toNat ≤ r.rpc.toNat && r.rpc.toNat < x.stop.toNat) with
  | none => (0, 0)
  | some i =>
    let v := s.vPeekN r.asid (c.telemBase.toNat + 32 * (256 * i + core)) 32
    (bitsOf v 64 64, bitsOf v 0 64)

/-- The target is one that placement telemetry prefers, where it is enabled: among the cores with room one of the lowest
IDLE / (BUSY + 1), and another device only where no core has room (R273, R347). -/
def State.preferredTarget (s : State) (r : Rec) (target : FwdTarget) : Bool :=
  let cores := below 256 (s.targetOk r)
  (s.ctx r.asid).telemBase == 0 || (match target with
    | .device _ => cores.isEmpty
    | .core c =>
      let x := s.telemIdle r c
      cores.all (fun d =>
        let y := s.telemIdle r d
        decide (x.1 * (y.2 + 1) ≤ y.1 * (x.2 + 1))))

/-- BIN_FORWARD (R269, R273, R274). -/
def execBinForward (rid : Nat) (target : FwdTarget) (s : State) : Host.Outcome State Fault Refusal :=
  .next (match s.records.find? (fun r => r.rid == rid) with
    | none => s
    | some r =>
      if !s.forwardDue r || !s.preferredTarget r target then s
      else match target with
        | .core c => if s.targetOk r c then s.forwardCore r c else s
        | .device ep => if s.deviceOk r ep then s.forwardDevice r ep else s)

/-! ### Arrival from another device -/

/-- A record from its image (R261), in a context of this device. -/
def recOfImage (img : RecordImage) (asid core : Nat) (dval : W32) : Rec :=
  let d (i : Nat) : Nat := (img.words.getD i 0).toNat
  let four (i : Nat) : List W32 := [w32 (d i), w32 (d i / 2 ^ 32), w32 (d (i + 1)), w32 (d (i + 1) / 2 ^ 32)]
  let nlive := bitsOf (d 4) 37 9
  let handles := (List.range 16).map (fun t => (t, w32 (d (16 + t / 2) / 2 ^ (32 * (t % 2)))))
  { rid := d 15, binKey := BitVec.ofNat 16 (bitsOf (d 0) 48 16), kind := bitsOf (d 0) 32 4, wix := bitsOf (d 0) 36 4
    rpc := w32 (d 0), asid := asid, launch := bitsOf (d 1) 0 32, block := bitsOf (d 2) 40 24, parkId := w32 (d 2)
    tstamp := d 3, nlive := nlive, dv := bitOf (d 4) 36, dreg := bitsOf (d 4) 28 8
    lstate := (List.range 4).map (fun j => bitsOf (d 4) (12 + 2 * j) 2), applied := BitVec.ofNat 4 (bitsOf (d 4) 8 4)
    helper := BitVec.ofNat 4 (bitsOf (d 4) 4 4), live := BitVec.ofNat 4 (d 4), tids := four 5, lpcs := four 7, mrs := four 9
    twait := BitVec.ofNat 16 (bitsOf (d 11) 48 16), klive := BitVec.ofNat 16 (bitsOf (d 11) 32 16), pred := w32 (d 11)
    wkind := bitsOf (d 12) 0 4, wkey0 := w64 (d 13), wkey1 := w64 (d 14)
    handles := handles.foldl (fun m x => m.put noMeeting x.1 x.2) []
    tokens := (List.range 8).map (fun e =>
      { valid := bitOf (d (24 + e)) 63, done := bitOf (d (24 + e)) 62, wreg := bitsOf (d (24 + e)) 56 6
        value := w32 (d (24 + e)), serial := 0 })
    regs := (img.regs.take (4 * nlive)).mapIdx (fun i x => (i, x)) |>.foldl (fun m x => m.put 0 x.1 x.2) []
    regPoison := img.poison, core := core, place := .none, durable := true, fired := img.value.isSome, readyAt := none, evSerial := 0
    tileSerials := [], dval := dval, frame := none, xfer := none, preferred := false, overdue := false, due := false, away := true }

/-- The context that runs a record's context here with the same variant (R274); a context that is out refuses (R384). -/
def State.ctxFor (s : State) (img : RecordImage) : Option Nat :=
  (s.ctxs.find? (fun x => x.2.state == .running && x.2.dctx == img.dctx && x.2.digest == img.digest)).map (·.1)

/-- The core an arriving record goes to: one with room, else the first of the partition. -/
def State.arrivalCore (s : State) (r : Rec) : Option Nat :=
  let cores := below 256 (fun c => s.coreLive c && (s.part (s.ctx r.asid).part).mask.getLsbD c)
  match cores.find? (fun c => s.binRoom c r) with
  | some c => some c
  | none => cores.head?

/-- A core of an arriving block: one of the partition with a run of scratchpad, room for its tables, and its quotas. -/
def State.blockCore (s : State) (asid : Nat) (b : Block) : Option Nat :=
  (below 256 (fun c => s.coreLive c && (s.part (s.ctx asid).part).mask.getLsbD c)).find? (fun c =>
    (s.spadFind c b.spadSize).isSome && decide (s.claims c + b.claims ≤ Config.hashClaimBytes))

/-- A block that comes with its first record takes its place (R273). -/
def State.landBlock (s : State) (asid : Nat) (b : Block) (core : Nat) : State :=
  let base := (s.spadFind core b.spadSize).getD 0
  let a := spadLoc core base
  { s with
    mem := overlayOf 0 s.mem a b.spadSize (b.image.map (fun c => (c.1 + a, c.2)))
    poison := overlayOf false s.poison (a / 32) (b.spadSize / 32) (b.imagePoison.map (fun c => (c.1 + a / 32, c.2)))
    blocks := s.blocks ++ [{ b with asid := asid, core := core, spadBase := base, saved := false, image := [], imagePoison := []
                                    gangCores := [core] }] }

/-- Where an arriving record goes: to a core, with the record keyed to its block's place there, and the state with that
block; none where there is no room. DEDUCED, log 78. -/
def State.arrival (s : State) (asid : Nat) (img : RecordImage) (r : Rec) : Option (Nat × Rec × State) :=
  if r.block = 0xFFFFFF then (s.arrivalCore r).map (fun c => (c, r, s))
  else match img.block with
    | none => none
    | some b =>
      match s.blockOf asid r.launch r.block with
      | some x => some (x.core, r.rekey b x.core x.spadBase, s)
      | none => (s.blockCore asid b).map (fun c => (c, r.rekey b c ((s.spadFind c b.spadSize).getD 0), s.landBlock asid b c))

/-- A record that was accepted before: the value of its event where that comes now, and no second copy (R275, R276). -/
def State.arrivedAgain (s : State) (rid : Nat) (img : RecordImage) : State :=
  match img.value with
  | some v => (s.mapRecs (fun r => if r.rid == rid && !r.fired then { r with fired := true, dval := v } else r)).settle
  | none => s

/-- RECORD_TRANSFER_ARRIVE (R274, R275): a record from another device is accepted once, and the answer names its RID. -/
def execRecordTransferArrive (src : Nat) (img : RecordImage) (s : State) : Host.Outcome State Fault Refusal :=
  .next (
    let rid := (img.words.getD 15 0).toNat
    let refuse := s.emit (.acceptance src rid false)
    if s.accepted.contains rid then (s.arrivedAgain rid img).emit (.acceptance src rid true)
    else match s.ctxFor img with
      | none => refuse
      | some asid =>
        let r := recOfImage img asid 0 (img.value.getD 0)
        match s.launchOf asid r.launch, s.arrival asid img r with
        | some _, some (c, r1, s1) => match s.placeRec { r1 with core := c } false with
          | some p =>
            let s2 := { s1 with
              records := s1.records ++ [{ r1 with core := c, place := p }], accepted := rid :: s1.accepted
              departed := s1.departed.filter (fun x => x.rid != rid) }
            (s2.emit (.acceptance src rid true)).settle
          | none => refuse
        | _, _ => refuse)

/-- A block whose records have all been accepted elsewhere is no longer here (R273). -/
def State.blockGone (s : State) (r : Rec) : State :=
  if r.block = 0xFFFFFF || s.records.any (fun x => x.asid == r.asid && x.launch == r.launch && x.block == r.block) then s
  else { s with blocks := s.blocks.filter (fun b => !b.is r.asid r.launch r.block) }

/-- RECORD_ACCEPTANCE (R275): an accepted record leaves and its units are free; a refused one stays at its source. -/
def execRecordAcceptance (rid : Nat) (accepted : Bool) (s : State) : Host.Outcome State Fault Refusal :=
  .next (match s.records.find? (fun r => r.rid == rid && r.xfer.isSome) with
    | none => s
    | some r =>
      if accepted then
        { s with records := s.records.filter (fun x => x.rid != rid), departed := s.departed ++ [r]
                 accepted := s.accepted.filter (· != rid) }.sentOut [r] (r.xfer.getD 0) |>.trimKept.blockGone r
      else
        { s with records := updWhere (fun x => x.rid == rid) (fun x => { x with xfer := none, due := false }) s.records }.settle)

/-! ### Fault batches (R283, R328) -/

/-- Every page of a batch translates, or is denied. -/
def State.batchResident (s : State) (b : Batch) : Bool :=
  b.pages.all (fun p => match s.translate b.asid (p * 65536) with
    | .leaf _ _ _ => true
    | .format _ _ _ => true
    | _ => false)

/-- What waited for a batch goes on: records, groups in trap handlers, engine and maintenance operations, completion
words, and reloads of tiles. DEDUCED, log 88. -/
def State.fireBatch (s : State) (b : Batch) : State :=
  let free (x : Option Nat) : Option Nat := if x = some b.id then none else x
  let s1 := { s with
    batches := s.batches.filter (fun x => x.id != b.id)
    engOps := s.engOps.map (fun (o : EngOp) => { o with waits := free o.waits })
    maintOps := s.maintOps.map (fun (o : MaintOp) => { o with waits := free o.waits }) }
  let s2 := s1.mapGroups (fun g => if g.waitBatch = some b.id then { g with waitBatch := none, stall := none } else g)
  let s3 := s2.wake (fun r => r.wkind == 4 && r.wkey0.toNat == b.id) 0
  (s3.completeWaiting b.asid).reloadAll

/-- BATCH_FIRE (R283). -/
def execBatchFire (batch : Nat) (s : State) : Host.Outcome State Fault Refusal :=
  .next (match s.batches.find? (fun b => b.id == batch) with
    | some b => if s.batchResident b then s.fireBatch b else s
    | none => s)

end Sys2Proof.Machine
end

