-- ==== Sys2Proof/Machine/Hierarchy.lean ====
section
/-! DEFINITION. The memory hierarchy at work on its own: cache maintenance (R159, R160), invalidation of translations
(R324), the migration of pages between tiers (R326 to R329), and the replicas of replicated pages (R303). -/

namespace Sys2Proof.Machine

/-! ### Cache maintenance -/

/-- The pages of a range with their translations. The untranslated windows hold no cached line. -/
def State.rangeWalks (s : State) (asid base len : Nat) : List (Nat × Nat × Walk) :=
  ((pageRuns base len).filter (fun r => !(decide (0xFC ≤ r.1 / 2 ^ 72) && decide (r.1 / 2 ^ 72 ≤ 0xFE)))).map
    (fun r => (r.1, r.2, s.translate asid r.1))

/-- Local memory under the pages of a range: runs of locations. -/
def localRuns (l : List (Nat × Nat × Walk)) : List (Nat × Nat) :=
  l.filterMap (fun r => match r.2.2 with
    | .leaf e lvl _ => if pteFt e then none else some (leafPa e lvl r.1, r.2.1)
    | _ => none)

/-- A line overlaps one of some runs. -/
def inRuns (runs : List (Nat × Nat)) (line : Nat) : Bool :=
  runs.any (fun r => r.1 / 128 ≤ line && line ≤ (r.1 + r.2 - 1) / 128)

/-- A tag's line is one of those of a range: under its virtual address, or under another alias of its memory (R159). -/
def rangeTag (asid : Nat) (l : List (Nat × Nat × Walk)) (t : Tag) : Bool :=
  (t.asid == asid && inRuns (l.map (fun r => (r.1, r.2.1))) t.vline) || inRuns (localRuns l) t.line

/-- What a maintenance operation does in the caches, and its completion value (R159, R160). -/
def State.maintain (s : State) (o : MaintOp) (l : List (Nat × Nat × Walk)) : Nat × State :=
  let p := rangeTag o.asid l
  if o.opc = 0x0D6 then
    ((maskOf 32 s.dies).toNat
      , { s with hier := s.hier.codeDrop (fun a v => a == o.asid && inRuns (l.map (fun r => (r.1, r.2.1))) v) })
  else
    let (n, h) := if o.all then s.hier.cleanAll p else s.hier.cleanL1 s.pinTest o.core p
    let h' := if o.opc = 0x0D4 then h
      else h.remove (fun c t => (o.all || c == o.core) && p t) (fun _ t => o.all && p t)
    (n, { s with hier := h' })

/-- MAINT_OP_COMPLETE (R159, R160): the operation waits for its pages, does its work, and completes its token; a page
whose entry has a format error is reported and holds none of its lines (R321). DEDUCED, log 91. -/
def execMaintOpComplete (op : Nat) (s : State) : Host.Outcome State Fault Refusal :=
  .next (match s.maintOps.find? (fun o => o.id == op) with
    | none => s
    | some o =>
      let l := s.rangeWalks o.asid o.base.toNat o.len
      if o.waits.isSome then s
      else if !(missing l).isEmpty then
        let (b, s1) := s.newBatch o.asid (missing l)
        { s1 with maintOps := updWhere (fun x => x.id == op) (fun x => { x with waits := some b }) s1.maintOps }
      else
        let s1 := l.foldl (fun s r => s.seen o.asid r.1) s
        let s2 := match l.find? (fun r => match r.2.2 with | .format _ _ _ => true | _ => false) with
          | some (va, _, .format e lvl addr) => s1.imprecise o.asid 0x45 [w64 lvl, w64 addr, e] (va / 65536 * 65536)
          | _ => s1
        let (v, s3) := s2.maintain o l
        { s3 with maintOps := s3.maintOps.filter (fun x => x.id != op) }.completeToken op (w32 (min v (2 ^ 32 - 1))))

/-! ### Invalidation of translations (R324) -/

def tlbiBusy (c : W64) : Bool := c.getLsbD 31
def tlbiScope (c : W64) : Nat := (c.extractLsb' 10 2).toNat
def tlbiAsid (c : W64) : Nat := (c.extractLsb' 0 10).toNat

/-- A write of TLBI_CTL (R9, R324): COUNT is read-only, reserved bits keep out, and a write of 1 to BUSY while it is 1 is
ignored. -/
def State.writeTlbi (s : State) (ctl : W64) : State :=
  if tlbiBusy ctl && tlbiBusy s.tlbiCtl then s
  else
    let fields := (s.tlbiCtl &&& 0xFFFFFFFF80000000#64) ||| (ctl &&& 0xFFF#64)
    { s with tlbiCtl := if tlbiBusy ctl && tlbiScope ctl != 3 then fields ||| 0x80000000#64 else fields }

/-- TLBI_START (R324). -/
def execTlbiStart (ctl : W64) (s : State) : Host.Outcome State Fault Refusal := .next (s.writeTlbi ctl)

/-- The first `n` bytes at an address of an identifier reach into the scope of the operation. -/
def State.tlbiCovers (s : State) (asid va n : Nat) : Bool :=
  let lo := (s.tlbiLo.toNat + s.tlbiHi.toNat % 65536 * 2 ^ 64) / 65536 * 65536
  match tlbiScope s.tlbiCtl with
  | 0 => asid == tlbiAsid s.tlbiCtl && decide (lo < va + n) && decide (va < lo + s.tlbiLen.toNat)
  | 1 => asid == tlbiAsid s.tlbiCtl
  | 2 => true
  | _ => false

/-- TLBI_COMPLETE (R324): every translation and walk-cache entry in the scope is dropped, the dirty lines in the scope are
written back and invalidated, and BUSY clears with their count; requests that left under an old translation are answered
first. Lines of code in the scope go with their translations. DEDUCED, log 91. -/
def execTlbiComplete (s : State) : Host.Outcome State Fault Refusal :=
  .next (
    if !tlbiBusy s.tlbiCtl || s.remotes.any (fun r => r.gid != 0 && r.status.isNone) then s
    else
      let p (t : Tag) : Bool := s.tlbiCovers t.asid (t.vline * 128) 128
      let (n, h1) := s.hier.cleanAll p
      let h2 := ((h1.remove (fun _ t => p t) (fun _ t => p t)).dropTranslations s.tlbiCovers).codeDrop
        (fun a v => s.tlbiCovers a (v * 128) 128)
      { s with hier := h2, tlbiCtl := w64 (min n (2 ^ 32 - 1) * 2 ^ 32) ||| (s.tlbiCtl &&& 0x7FFFFFFF#64) })

/-! ### Migration (R326 to R329) -/

def State.mig (s : State) (tier : Nat) : Migrate := s.migrate.get Migrate.zero tier
def State.setMig (s : State) (tier : Nat) (m : Migrate) : State := { s with migrate := s.migrate.put Migrate.zero tier m }

/-- Frames of 64 KiB in a page of a level. -/
def pageFrames (lvl : Nat) : Nat := pageSize lvl / 65536

/-- A frame number begins a free aligned run of a tier for a page of a level (R318, R327). A frame of tier 3 carries its
endpoint above bit 36. -/
def State.frameFits (s : State) (tier frame lvl : Nat) : Bool :=
  let pa := frame * 65536
  let n := pageSize lvl
  frame % pageFrames lvl == 0 && (match tier with
    | 0 => decide (pa + n ≤ s.hbmFree)
    | 1 => decide (0x10000000000 ≤ pa) && decide (pa + n ≤ 0x20000000000)
    | 2 => decide (0x1000000000000 ≤ pa) && decide (pa + n ≤ 0x1800000000000)
    | 3 => decide (frame / 2 ^ 36 < 1024) && frame / 2 ^ 36 != s.endpoint && farFrameOk (pa % 2 ^ 52) n
    | 4 => decide (0x2000000000000 ≤ pa) && decide (pa + n ≤ 0x3000000000000)
    | _ => false) && decide (pageFrames lvl ≤ (s.mig tier).free)

/-- An entry with another frame, tier and presence; in tier 3 it is a fabric-target page of its frame's endpoint. -/
def pteMoved (e : W64) (frame tier : Nat) (present : Bool) : W64 :=
  (e &&& 0x000000000003EF17#64) ||| (BitVec.ofNat 64 (frame % 2 ^ 36) <<< 18) ||| (BitVec.ofNat 64 (tier % 8) <<< 5)
    ||| (if present then 0x1000#64 else 0#64)
    ||| (if tier = 3 then (BitVec.ofNat 64 (frame / 2 ^ 36) <<< 54) ||| 8#64 else 0#64)

/-- Frames of a tier are taken or given back. DESIGN CHOICE, log 90. -/
def State.takeFrames (s : State) (tier n : Nat) : State := s.setMig tier { s.mig tier with free := (s.mig tier).free - n }
def State.giveFrames (s : State) (tier n : Nat) : State :=
  let m := s.mig tier
  s.setMig tier { m with free := m.free + n, demoting := (m.demoting || decide (m.free < m.low)) && decide (m.free + n < m.high) }

/-- The frame of a page, with its endpoint in tier 3. -/
def pageFrame (e : W64) : Nat := pteFrame e / 65536 + (if pteFt e then pteEp e * 2 ^ 36 else 0)

/-- Tags filled through an entry follow its page to another frame (R329). -/
def Hier.retarget (h : Hier) (addr src dst : Nat) (f : W64 → W64) : Hier :=
  let go (t : Tag) : Tag := { t with line := t.line - src / 128 + dst / 128, pte := f t.pte }
  let tags (m : SMap (List Tag)) : SMap (List Tag) := m.map (fun c => (c.1, updWhere (fun (t : Tag) => t.addr == addr) go c.2))
  let ls := ((h.l1 ++ h.l2).flatMap (fun c => (c.2.filter (fun t => t.addr == addr)).map (fun t => t.line))).eraseDups
  (ls ++ ls.map (fun l => l - src / 128 + dst / 128)).foldl Hier.sync { h with l1 := tags h.l1, l2 := tags h.l2 }

/-- Rewrite an entry and drop the translations of its page (R329). -/
def State.rewriteEntry (s : State) (addr : Nat) (e : W64) : State :=
  { s with mem := putBytes addr (natBytes 8 e.toNat) s.mem
           hier := { s.hier with tlb := keepLists (fun _ (t : TlbEntry) => t.addr != addr) s.hier.tlb } }

/-- A pinned line of some context lies in a run of local memory (R326). -/
def State.pinnedIn (s : State) (pa n : Nat) : Bool :=
  s.ctxs.any (fun c => c.2.pins.any (fun k => match s.translate c.1 (k % 2 ^ 73 * 128) with
    | .leaf e lvl _ => !pteFt e && decide (pa ≤ leafPa e lvl (k % 2 ^ 73 * 128)) && decide (leafPa e lvl (k % 2 ^ 73 * 128) < pa + n)
    | _ => false))

/-- The page may move: migratable, not replicated, a fabric-target page only where the device owns it, and without a
pinned line (R326). DEDUCED, log 139. -/
def State.mayMigrate (s : State) (lvl : Nat) (e : W64) : Bool :=
  !e.getLsbD 15 && !pteRep e && (!pteFt e || s.hier.pooled.contains (pageFrame e))
    && (pteFt e || !s.pinnedIn (pteFrame e) (pageSize lvl))

/-- A page may go from a tier to another (R326, R327). From tier 0 it goes to the first tier of MIG_NEXT that can hold a
page of its size, and waits where that tier has no free frame; to tier 3 only an uncacheable page goes, as R321 has it.
DEDUCED, log 139. -/
def State.demotesTo (s : State) (lvl : Nat) (e : W64) (tier : Nat) : Bool :=
  let can (t : Nat) : Bool := (t == 1 || t == 2 || (t == 3 && !pteC e)) && (lvl == 0 || decide (pageFrames lvl ≤ (s.mig t).free))
  match pteTier e with
  | 0 => (s.mig 0).next.find? can == some tier
  | 1 | 2 | 3 => tier == 4
  | 4 => tier == 5
  | _ => false

/-- The entry of a page that a migration engine sampled is still clear of A, and the page may move. -/
def State.stillCold (s : State) (tier : Nat) (a : Nat × Nat × Nat) : Bool :=
  let e : W64 := w64 (s.peek a.1 8)
  pteV e && pteLeaf e && ptePresent e && !pteA e && pteTier e == tier && s.mayMigrate a.2.2 e
    && s.hier.moves.all (fun m => m.addr != a.1)

/-- No page of a tier has kept its A bit clear longer than the page of an entry (R327). DEDUCED, log 92. -/
def State.coldest (s : State) (tier addr : Nat) : Bool :=
  match s.hier.aged.find? (fun a => a.1 == addr) with
  | some a => s.hier.aged.all (fun b => decide (a.2.1 ≤ b.2.1) || !s.stillCold tier b)
  | none => true

/-- The migration engine clears the A bit it samples (R327). -/
def State.sample (s : State) (addr lvl : Nat) : State :=
  let s1 := s.pteUpdate addr 0 0x10000#64
  { s1 with hier := { s1.hier with aged := s1.hier.aged.filter (fun a => a.1 != addr) ++ [(addr, s.now, lvl)] } }

/-- A move begins: its page's lines are moving from here on and their dirty data goes back; a page at another endpoint is
asked for (R329). DEDUCED, log 139. -/
def State.beginMove (s : State) (asid va lvl addr : Nat) (e : W64) (frame tier : Nat) : State :=
  let (_, h) := s.hier.cleanAll (fun t => !pteFt e && decide (pteFrame e / 128 ≤ t.line) && decide (t.line < (pteFrame e + pageSize lvl) / 128))
  let m : PageMove := { asid := asid, va := va, level := lvl, addr := addr, source := pteFrame e / 65536, frame := frame, tier := tier
                        ask := if pteFt e then s.serial else 0 }
  let s1 := ({ s with hier := { h with moves := h.moves ++ [m] } }).takeFrames tier (pageFrames lvl)
  if !pteFt e then s1
  else
    let r : RemoteReq := { id := s.serial, src := s.endpoint, dst := pteEp e, dctx := (s.ctx asid).dctx, addr := pteFrame e
                           len := pageSize lvl, op := .read }
    { s1 with serial := s.serial + 1, out := .request r :: s1.out
              remotes := s1.remotes ++ [{ req := r, gid := 0, tag := 2 ^ 60 + addr, status := none, bytes := [], rid := 0, ahead := [] }] }

/-- The bytes of a moving page: from its old frame, or as the other endpoint answered. -/
def State.movedBytes (s : State) (m : PageMove) : Option (List Byte) :=
  if m.ask = 0 then some ((List.range (pageSize m.level)).map (fun i => s.mem.get 0 (m.source * 65536 + i)))
  else match s.remotes.find? (fun r => r.req.id == m.ask) with
    | some r => if r.status = some .ok then some r.bytes else none
    | none => none

/-- The copy of a move between local frames, with the poison and the zero-map bits (R329). -/
def State.copyFrame (s : State) (src dst lvl : Nat) : State :=
  let n := pageSize lvl
  let zc := (sliceOf s.hier.zeroClear (src / 128) (n / 128)).map (fun c => (c.1 - src / 128 + dst / 128, c.2))
  let s1 := s.moveBytes src dst n
  { s1 with hier := { s1.hier with zeroClear := spliceOf s1.hier.zeroClear (dst / 128) (n / 128) zc } }

/-- A move ends: the frame is copied, the entry rewritten, the translations dropped, and the lines stop moving; an entry
that the supervisor has changed meanwhile, or a page that its endpoint does not give, stays where it is (R329). -/
def State.endMove (s : State) (m : PageMove) : State :=
  let e : W64 := w64 (s.peek m.addr 8)
  let s0 := { s with hier := { s.hier with moves := s.hier.moves.filter (fun x => x.addr != m.addr) }
                     remotes := s.remotes.filter (fun r => m.ask = 0 || r.req.id != m.ask) }
  let failed := s.remotes.any (fun r => m.ask != 0 && r.req.id == m.ask && r.status.isSome && r.status != some .ok)
  if failed || !(pteV e && pteLeaf e && ptePresent e && pteFrame e == m.source * 65536) then s0.giveFrames m.tier (pageFrames m.level)
  else match s.movedBytes m with
    | none => s
    | some bs =>
      let dst := m.frame % 2 ^ 36 * 65536
      let s1 := if m.tier = 3 then s0.emit (.pageOut (m.frame / 2 ^ 36) dst bs)
        else if pteFt e then s0.poke dst bs
        else s0.copyFrame (m.source * 65536) dst m.level
      let h := if m.tier = 3 then s1.hier.remove (fun _ t => t.addr == m.addr) (fun _ t => t.addr == m.addr)
        else if pteFt e then s1.hier else s1.hier.retarget m.addr (m.source * 65536) dst (fun p => pteMoved p m.frame m.tier true)
      let own := (h.pooled.filter (fun f => f != pageFrame e)) ++ (if m.tier = 3 then [m.frame] else [])
      let s2 := { s1 with hier := { h with pooled := own, aged := h.aged.filter (fun a => a.1 != m.addr) } }
      ((s2.rewriteEntry m.addr (pteMoved e m.frame m.tier true)).giveFrames (pteTier e) (pageFrames m.level)).progress m.asid

/-- The move that has begun of the page of an entry. -/
def State.moveOf (s : State) (addr : Nat) : Option PageMove := s.hier.moves.find? (fun m => m.addr == addr)

/-- A move ends whose page no longer translates (R329). -/
def State.moveLost (s : State) (asid va : Nat) : State :=
  match s.hier.moves.find? (fun m => m.asid == asid && m.va == va) with
  | some m => s.endMove m
  | none => s

/-- MIGRATION_FETCH (R328): a storage page of a batch is fetched into a frame of tier 0; `data` is what the host
delivers of the page. -/
def execMigrationFetch (batch : Nat) (va : Addr) (frame : Nat) (data : List Byte) (s : State) :
    Host.Outcome State Fault Refusal :=
  .next (match s.batches.find? (fun b => b.id == batch) with
    | none => s
    | some b =>
      if !b.pages.contains (va.toNat / 65536) then s
      else match s.translate b.asid va.toNat with
        | .notPresent e lvl addr =>
          if s.frameFits 0 frame lvl && decide ((s.mig 0).low ≤ (s.mig 0).free) && data.length == pageSize lvl then
            let s1 := s.poke (frame * 65536) data
            ((s1.rewriteEntry addr (pteMoved e frame 0 true)).takeFrames 0 (pageFrames lvl)).progress b.asid
          else s
        | _ => s)

/-- A page leaves for storage: its lines go from every cache, its data to the host, and PRESENT is 0 (R328). -/
def State.toStorage (s : State) (asid lvl addr : Nat) (e : W64) (handle : Nat) : State :=
  let h := (s.hier.remove (fun _ t => t.addr == addr) (fun _ t => t.addr == addr))
  let bytes := (List.range (pageSize lvl)).map (fun i => s.mem.get 0 (pteFrame e + i))
  let s1 := ({ s with hier := { h with aged := h.aged.filter (fun a => a.1 != addr) } }).emit (.hostData bytes)
  ((s1.rewriteEntry addr (pteMoved e handle 5 false)).giveFrames (pteTier e) (pageFrames lvl)).progress asid

/-- MIGRATION_DEMOTE (R327, R328): below LOW the engine of a page's tier clears the A bit it samples, or begins to move
the page whose A bit has stayed clear longest; the event comes again for the move's end. A page leaves tier 4 for storage,
where `frame` is its handle. -/
def execMigrationDemote (asid : Nat) (va : Addr) (frame tier : Nat) (s : State) : Host.Outcome State Fault Refusal :=
  .next (match s.translate asid va.toNat with
    | .leaf _ lvl addr =>
      let e : W64 := w64 (s.peek addr 8)
      let m := s.mig (pteTier e)
      match s.moveOf addr with
      | some mv => s.endMove mv
      | none =>
        if !(decide (m.free < m.low) || (m.demoting && decide (m.free < m.high))) || !s.mayMigrate lvl e || !s.demotesTo lvl e tier then s
        else if pteA e then s.sample addr lvl
        else if !s.coldest (pteTier e) addr then s
        else if tier = 5 then s.toStorage asid lvl addr e frame
        else if s.frameFits tier frame lvl then s.beginMove asid va.toNat lvl addr e frame tier
        else s
    | _ => s.moveLost asid va.toNat)

/-- The page of an entry took the misses of its tier's PROMOTE_HITS in the current window of 1 ms (R327). -/
def State.promoteDue (s : State) (tier addr : Nat) : Bool :=
  let m := s.hier.misses.get PageMiss.none addr
  (s.mig tier).promoteHits != 0 && m.window == s.now / 1000000 && decide ((s.mig tier).promoteHits ≤ m.count)

/-- MIGRATION_PROMOTE (R327): a page of tier 1 to 4 that took PROMOTE_HITS misses moves to tier 0. -/
def execMigrationPromote (asid : Nat) (va : Addr) (frame : Nat) (s : State) : Host.Outcome State Fault Refusal :=
  .next (match s.translate asid va.toNat with
    | .leaf _ lvl addr =>
      let e : W64 := w64 (s.peek addr 8)
      let t := pteTier e
      match s.moveOf addr with
      | some mv => s.endMove mv
      | none =>
        if (t == 1 || t == 2 || t == 3 || t == 4) && s.promoteDue t addr && s.mayMigrate lvl e && s.frameFits 0 frame lvl then
          s.beginMove asid va.toNat lvl addr e frame 0
        else s
    | _ => s.moveLost asid va.toNat)

/-! ### Replicas (R303) -/

/-- REPLICA_WRITE_APPLIED (R303): the replica of a die applies the oldest sequenced write it has not applied; a completion
word may have waited for it (R339). -/
def execReplicaWriteApplied (die : Nat) (s : State) : Host.Outcome State Fault Refusal :=
  .next (match s.seqLog.find? (fun w => w.pending.contains die) with
    | none => s
    | some w =>
      let l := updWhere (fun (x : SeqWrite) => x.num == w.num) (fun x => { x with pending := x.pending.filter (· != die) }) s.seqLog
      { s with seqLog := l.filter (fun x => !x.pending.isEmpty) }.completeWaiting w.asid)

end Sys2Proof.Machine
end

