-- ==== Sys2Proof/Machine/Monitor.lean ====
section
/-! DEFINITION. The scheduler's reclaim of room (R345), and the progress monitor with its external waits (R348, R349). -/

namespace Sys2Proof.Machine

/-! ### Reclaiming room (R345) -/

/-- The machine without some of its groups. -/
def State.without (s : State) (gids : List Nat) : State :=
  { s with g := if gids.contains s.g.gid then Group.off else s.g, others := s.others.filter (fun g => !gids.contains g.gid) }

/-- The groups of a core as they would be asked to go: lowest priority first, youngest first. -/
def State.victims (s : State) (core : Nat) : List Nat :=
  let prio (g : Group) : Nat := match s.launchOf g.asid g.launch with
    | some l => l.prio
    | none => 0
  (sortBy (fun (a b : Group) => prio a < prio b || (prio a == prio b && b.residentSince ≤ a.residentSince)) (s.groupsOn core)).map (·.gid)

/-- The fewest of them whose going leaves room. -/
def State.needed (s : State) (core : Nat) (room : State → Bool) : Option (List Nat) :=
  let v := s.victims core
  ((List.range (v.length + 1)).find? (fun k => room (s.without (v.take k)))).map (fun k => v.take k)

/-- When a bin came to be DUE by its age or its eighth record (R269). -/
def State.dueAt (s : State) (c : Cand) : Nat :=
  let aged := c.since + (s.ctx c.asid).binAge
  match (s.records.find? (fun r => r.rid == c.rid)).bind (fun r => ((s.binOf r).drop 7).head?) with
  | some x => min aged (x.readyAt.getD 0)
  | none => aged

/-- A candidate has stood at effective priority 7 for one AGE_STEP further: since it became a candidate, or since it was
promoted, a bin not before BIN_AGE (R343, R345). -/
def State.waitsAt7 (s : State) (c : Cand) : Bool :=
  let x := s.ctx c.asid
  let step := max 1 (s.part x.part).ageStep * 1000
  let at7 := if 7 ≤ c.base then (if c.isBlock then c.since else s.dueAt c)
    else c.since + max ((7 - c.base) * step) (if c.isBlock then 0 else x.binAge)
  s.effOf c == 7 && decide (at7 + step ≤ s.now)

/-- The room a candidate asks of a core. -/
def State.candRoom (s : State) (c : Cand) (core : Nat) : Bool :=
  if c.isBlock then (match s.launchOf c.asid c.launch with
    | some l => s.blockRoom core l
    | none => false)
  else (match s.records.find? (fun r => r.rid == c.rid) with
    | some r => s.mayTake core r
    | none => false)

/-- Cores a candidate could go to, room apart: those of its partition, on the die or the core that its records keep it
to, and not kept for another. -/
def State.eligible (s : State) (c : Cand) : List Nat :=
  let mask := (s.part (s.ctx c.asid).part).mask
  below 256 (fun n => s.coreLive n && mask.getLsbD n && s.reservedFor n c && (c.isBlock || (match s.records.find? (fun r => r.rid == c.rid) with
    | some r => if r.block = 0xFFFFFF then dieOf n == dieOf r.core else n == r.core
    | none => false)))

/-- Blocks a candidate starts at once. -/
def State.gangOf (s : State) (c : Cand) : Nat :=
  if c.isBlock then (match s.launchOf c.asid c.launch with
    | some l => l.gang + 1
    | none => 1)
  else 1

/-- The candidates at priority 7 that no core has room for, in the order of R343. -/
def State.starved (s : State) : List Cand :=
  let cs := s.binHeads.filter (fun r => r.due && s.ctxRuns r.asid) |>.map s.binCand
  let bs := (s.launches.filter s.launchReady).map Launch.cand
  let out (c : Cand) : Bool := s.waitsAt7 c
    && (s.eligible c).all (fun n => !(s.candRoom c n) || decide (((clusterCores n).filter (s.candRoom c)).length < s.gangOf c))
    && !s.reserved.any (fun r => r.isFor c && s.standing r)
  sortBy (fun a b => lexLe (s.candKey false a) (s.candKey false b)) ((cs ++ bs).filter out)

/-- Ask some groups to yield. -/
def State.askGroups (s : State) (gids : List Nat) : State :=
  s.mapGroups (fun g => if g.gid ≠ 0 ∧ gids.contains g.gid then g.askYield s.now else g)

/-- Reclaim room for a candidate on cores, and keep them for it. DEDUCED, log 86. -/
def State.reclaim (s : State) (c : Cand) (l : List (Nat × List Nat)) : State :=
  let num := if c.isBlock then c.launch else c.rid
  { s.askGroups (l.flatMap (·.2)) with
    reserved := s.reserved.filter s.standing ++ l.map (fun x => { core := x.1, isBlock := c.isBlock, asid := c.asid, num := num }) }

/-- What room a candidate's n cores of a core's cluster need, fewest first; none where the cluster has no such cores. -/
def State.clusterNeed (s : State) (c : Cand) (n core : Nat) : Option (List (Nat × List Nat)) :=
  let need (m : Nat) : Option (Nat × List Nat) := (s.needed m (fun t => t.candRoom c m)).map (fun v => (m, v))
  let l := if n = 1 then (if (s.eligible c).contains core then [core] else []) else (clusterCores core).filter (s.eligible c).contains
  let all := (sortBy (fun (a b : Nat × List Nat) => a.2.length ≤ b.2.length) (l.filterMap need)).take n
  if all.length = n then some all else none

/-- AGE_PROMOTION_RECLAIM (R345): on the core, for a gang on the cores of its cluster, that needs the fewest groups to go of
all there are. -/
def execAgePromotionReclaim (core : Nat) (s : State) : Host.Outcome State Fault Refusal :=
  .next (match s.starved with
    | [] => s
    | c :: _ =>
      let n := s.gangOf c
      let cost (l : List (Nat × List Nat)) : Nat := (l.flatMap (·.2)).length
      match s.clusterNeed c n core with
      | some l =>
        if (s.eligible c).all (fun m => match s.clusterNeed c n m with
            | some k => decide (cost l ≤ cost k)
            | none => true) then s.reclaim c l else s
      | none => s)

/-! ### Work of a partition (R348, R349) -/

/-- A context of a partition that is not switched out. -/
def State.inPart (s : State) (p asid : Nat) : Bool := (s.ctx asid).part == p && ((s.ctx asid).state == .running || (s.ctx asid).state == .switching)

/-- Some page of a batch lies in storage or has no entry. -/
def State.batchOutside (s : State) (id : Nat) : Bool :=
  match s.batches.find? (fun b => b.id == id) with
  | none => false
  | some b => b.pages.any (fun p => match s.translate b.asid (p * 65536) with
    | .notPresent _ _ _ => true
    | .notValid => true
    | _ => false)

/-- A record waits on an event from outside (R349). -/
def State.waitsOutside (s : State) (r : Rec) : Bool :=
  !r.fired && (r.wkind == 5 || r.wkind == 6 || (r.wkind == 4 && s.batchOutside r.wkey0.toNat))

/-- The partition holds internal work (R348). -/
def State.internalWork (s : State) (p : Nat) : Bool :=
  s.groups.any (fun g => g.gid != 0 && s.inPart p g.asid)
    || s.records.any (fun r => s.inPart p r.asid && !s.waitsOutside r)
    || (s.engOps ++ s.apStarts).any (fun o => s.inPart p o.asid)
    || s.launches.any (fun l => s.inPart p l.asid && !l.completed && l.unstarted
        && (match l.slot with
          | some i => ((s.queue l.queue).slot i).dep == 0 || l.nextBlock != 0
          | none => true))

/-- A launch queue of the partition has entries to fetch. -/
def State.unfetched (s : State) (p : Nat) : Bool :=
  s.queues.any (fun x => !x.2.task && x.2.state != .off && x.2.state != .stopped && x.2.head != x.2.tail && s.inPart p x.2.asid)

/-- The partition holds external waits: records that wait on something outside, empty launch queues, and task slots that
wait for signals (R349). DEDUCED, log 87. -/
def State.externalWork (s : State) (p : Nat) : Bool :=
  s.records.any (fun r => s.inPart p r.asid && s.waitsOutside r)
    || s.queues.any (fun x => x.2.state != .off && x.2.state != .stopped && s.inPart p x.2.asid
      && (if x.2.task then x.2.slots.any (fun t => t.2.pub && t.2.dep != 0) else x.2.head == x.2.tail))

/-- PART_STAT.STATE: 0 running, 1 idle, 2 idle awaiting external, 3 frozen; 0 until the device is ready, as after reset
(R342). DEDUCED, log 87. -/
def State.partState (s : State) (p : Nat) : Nat :=
  if (s.part p).frozen then 3 else if !s.boot.ready || s.internalWork p || s.unfetched p then 0 else if s.externalWork p then 2 else 1

/-! ### The monitor's window -/

def State.setPart (s : State) (p : Nat) (x : Part) : State := { s with parts := s.parts.put Part.init p x }

/-- PM_WINDOW_EXPIRY (R348): a window without progress freezes a partition that holds internal work. -/
def execPmWindowExpiry (part : Nat) (s : State) : Host.Outcome State Fault Refusal :=
  .next (
    let x := s.part part
    if x.pmWindow = 0 ∨ x.frozen ∨ s.now < x.windowStart + x.pmWindow * 1000 then s
    else
      let y := { x with windowStart := s.now, progress := 0 }
      if x.progress = 0 ∧ s.internalWork part then
        (s.setPart part { y with frozen := true, stallTs := s.now % 2 ^ 56 }).devFault 0x80 [w64 part] (some part)
      else s.setPart part y)

/-- A frozen partition resumes; the next window starts now (R348). -/
def State.unfreeze (s : State) (p : Nat) : State :=
  let x := s.part p
  if x.frozen then s.setPart p { x with frozen := false, windowStart := s.now, progress := 0 } else s

/-- PART_UNFREEZE (R342, R348). -/
def execPartUnfreeze (part : Nat) (s : State) : Host.Outcome State Fault Refusal := .next (s.unfreeze part)

/-- EXTERNAL_DEADLINE (R349): a record that has waited on an external event for longer than EXT_DL is reported, once; it
stays waiting. -/
def execExternalDeadline (rid : Nat) (s : State) : Host.Outcome State Fault Refusal :=
  .next (match s.records.find? (fun r => r.rid == rid) with
    | none => s
    | some r =>
      let dl := (s.ctx r.asid).extDl
      if dl = 0 ∨ r.overdue ∨ !s.waitsOutside r ∨ s.now ≤ r.tstamp + dl then s
      else
        let f := { FaultRec.plain s r.asid 0x4A 1 [w64 r.wkind] with rid := rid }
        { s with records := updWhere (fun (x : Rec) => x.rid == rid) (fun x => { x with overdue := true }) s.records }.ctxFault f)

end Sys2Proof.Machine
end

