-- ==== Sys2Proof/Machine/Fabric.lean ====
section
/-! DEFINITION. The receiver of the fabric: range tables and refusals (R354, R355), spans and their delivery (R233, R356
to R358), replay (R360 to R362), requests of other devices and answers to our own (R305), and the write-combining
buffer's age (R230). -/

namespace Sys2Proof.Machine

/-! ### Range tables (R354) -/

/-- Doubleword h of range entry i of a source. -/
def State.rangeWord (s : State) (src i h : Nat) : Nat := (s.ranges.get 0 (128 * src + 2 * i + h)).toNat

/-- Some valid entry permits n bytes at a local address; `bit` is the permission of the class: 1 read, 2 write, 3
atomic. -/
def State.rangePermits (s : State) (src : Nat) (dctx : BitVec 16) (addr n bit : Nat) : Bool :=
  (List.range 64).any (fun i =>
    let lo := s.rangeWord src i 0
    let hi := s.rangeWord src i 1
    let d := bitsOf hi 48 16
    bitOf lo 0 && bitOf lo bit && (d == 0xFFFF || d == dctx.toNat) && decide (bitsOf lo 28 36 ≤ addr / 65536)
      && decide ((addr + n - 1) / 65536 ≤ bitsOf hi 0 36))

/-- Number of a packet class (R402). -/
def pktCode : PktClass → Nat
  | .write => 0 | .zeroLine => 1 | .engineWrite => 2 | .flag => 3

/-- A refused access is logged (R354). DESIGN CHOICE, log 98. -/
def State.protect (s : State) (src : Nat) (dctx : BitVec 16) (cls addr : Nat) : State :=
  { s with protLog := s.protLog ++ [{ ts := s.now, src := src, dctx := dctx, cls := cls, addr := addr }] }

/-- A refused packet: the log and a notice to its source. DEDUCED, log 97. -/
def State.refusePacket (s : State) (p : Packet) : State :=
  (s.protect p.src p.dctx (pktCode p.cls) p.addr).emit (.notice p)

/-! ### Receiver state (R357) -/

def recvKey (ep slot : Nat) : Nat := ep * 64 + slot
def State.recv (s : State) (ep slot : Nat) : RecvState := s.recvs.get RecvState.init (recvKey ep slot)
def State.setRecv (s : State) (ep slot : Nat) (x : RecvState) : State :=
  { s with recvs := s.recvs.put RecvState.init (recvKey ep slot) x }

/-- The owner of a slot; 0xFFFF where it is unassigned (R356). DEDUCED, log 106. -/
def State.owner (s : State) (ep slot : Nat) : BitVec 16 := s.owners.get 0xFFFF#16 (recvKey ep slot)

def RecvState.current (x : RecvState) : BitVec 8 := x.lastDone + 1
def RecvState.counter (x : RecvState) (d : Nat) : SpanCounter := x.cnt.getD d SpanCounter.zero
def RecvState.setCounter (x : RecvState) (d : Nat) (c : SpanCounter) : RecvState :=
  { x with begun := true, cnt := x.cnt.set d c }
def RecvState.cleared (x : RecvState) : RecvState := { x with cnt := List.replicate 4 SpanCounter.zero }

/-- The layout of source, slot and span in a fault's detail (R402). -/
def spanDetail (ep slot : Nat) (span : BitVec 8) : Nat := ep % 1024 + slot % 64 * 2 ^ 10 + span.toNat * 2 ^ 16

/-- An imprecise fault of the context that owns a slot. -/
def State.ownerFault (s : State) (ep slot code detail : Nat) : State :=
  match s.ctxOfDctx (s.owner ep slot) with
  | some a => s.imprecise a code [w64 detail] 0
  | none => s

/-- The slot is lost (R358, R361, R362). -/
def State.loseSpan (s : State) (ep slot gone : Nat) : State :=
  let x := s.recv ep slot
  (s.setRecv ep slot { x with state := 2 }).ownerFault ep slot 0x48 (spanDetail ep slot x.current + gone * 2 ^ 24)

/-! ### Packets (R352, R354, R358) -/

def pktLifeUs (c : W64) : Nat := (c.extractLsb' 32 16).toNat
def tKeepUs (c : W64) : Nat := (c.extractLsb' 16 16).toNat
def tLostUs (c : W64) : Nat := (c.extractLsb' 0 16).toNat

/-- The send time of a packet, from its stamp. -/
def State.sentAt (s : State) (stamp : W32) : Nat :=
  let age := (w32 s.now - stamp).toNat
  if age < 2 ^ 31 then s.now - age else s.now + (2 ^ 32 - age)

/-- A packet is older than PKT_LIFE. -/
def State.expired (s : State) (p : Packet) : Bool := decide (s.sentAt p.stamp + pktLifeUs s.fabCtl * 1000 < s.now)

/-- Runs of consecutive bytes are stored one byte at a time; a zero line becomes one in a tier that has a zero map. -/
def State.applyPacket (s : State) (p : Packet) : State :=
  match p.cls with
  | .zeroLine =>
    let s1 := s.outsideWrite p.addr (List.replicate 128 0)
    if hasZeroMap p.addr then { s1 with hier := { s1.hier with zeroClear := putFlags false [p.addr / 128] s1.hier.zeroClear } } else s1
  | _ => p.bytes.foldl (fun s b => s.outsideWrite (p.addr + b.1) [b.2]) s

/-- What becomes of an arriving packet or flag before its span is looked at; none: it is dealt with. -/
def State.letIn (s : State) (p : Packet) : Option (Nat) × State :=
  let s1 := s.flits p.dctx
  let x := s.recv p.src p.slot
  let d := (p.span - x.current).toNat
  if s.expired p then (none, s1)
  else if s.owner p.src p.slot = 0xFFFF#16 ∨ s.owner p.src p.slot ≠ p.dctx then (none, s1.refusePacket p)
  else if x.state ≠ 0 ∨ p.gen ≠ x.gen then (none, s1)
  else if d ≤ 3 then (some d, s1)
  else if d ≤ 127 then
    (none, (s1.setRecv p.src p.slot { x with state := 1 }).ownerFault p.src p.slot 0x47 (spanDetail p.src p.slot p.span))
  else (none, s1)

/-- Deliver the spans of a slot whose flag is held and whose count is complete, in order (R233, R358). -/
def State.deliver (s : State) (ep slot : Nat) : Nat → State
  | 0 => s
  | fuel + 1 =>
    let x := s.recv ep slot
    let c := x.counter 0
    match c.flag with
    | none => s
    | some f =>
      if c.count ≠ f.count ∨ x.state ≠ 0 then s
      else
        let x1 := { x with lastDone := x.current, replays := 0, cnt := x.cnt.drop 1 ++ [SpanCounter.zero] }
        let s1 := ((s.outsideWrite f.addr (natBytes 4 f.value.toNat)).setRecv ep slot x1)
        let s2 := s1.wake (fun r => r.wkind == 5 && s1.flagDelivered (r.wkey0.truncate 32)) 0
        let s3 := s2.traceAfter (some (s2.sentAt f.stamp)) 0 0 ((s2.ctxOfDctx f.dctx).getD 0) 4 x1.lastDone.toNat (ep + slot * 1024)
        State.deliver s3 ep slot fuel

/-- COUNTED_PACKET_ARRIVE (R354, R356, R358): the packet counts, and its bytes are applied where the range table permits
them. -/
def execCountedPacketArrive (pkt : Packet) (s : State) : Host.Outcome State Fault Refusal :=
  .next (match s.letIn pkt with
    | (none, s1) => s1
    | (some d, s1) =>
      let x := s1.recv pkt.src pkt.slot
      let c := x.counter d
      let s2 := s1.setRecv pkt.src pkt.slot (x.setCounter d { c with count := c.count + 1, lastAt := s1.now })
      let s3 := if s2.rangePermits pkt.src pkt.dctx pkt.addr 128 2 then s2.applyPacket pkt else s2.refusePacket pkt
      s3.deliver pkt.src pkt.slot 4)

/-- FLAG_ARRIVE (R358, R233): a flag is held for its span; a second copy is discarded. -/
def execFlagArrive (pkt : Packet) (s : State) : Host.Outcome State Fault Refusal :=
  .next (match s.letIn pkt with
    | (none, s1) => s1
    | (some d, s1) =>
      let x := s1.recv pkt.src pkt.slot
      let c := x.counter d
      if c.flag.isSome then s1
      else if !s1.rangePermits pkt.src pkt.dctx pkt.addr 4 2 then s1.refusePacket pkt
      else (s1.setRecv pkt.src pkt.slot (x.setCounter d { c with flag := some pkt, lastAt := s1.now })).deliver pkt.src pkt.slot 4)

/-! ### Replay (R361, R362) -/

/-- The current span has been incomplete for T_LOST (R361). -/
def State.spanLate (s : State) (x : RecvState) : Bool :=
  let old (c : SpanCounter) : Bool := decide (c.lastAt + tLostUs s.fabCtl * 1000 ≤ s.now)
  let busy (c : SpanCounter) : Bool := c.count != 0 || c.flag.isSome
  let c := x.counter 0
  if busy c then
    (match c.flag with
      | some f => f.count != c.count
      | none => true) && old c
  else (x.cnt.drop 1).any (fun k => busy k && old k)

/-- REPLAY_REQUEST (R361): the receiver asks for the current span and those after it under a new generation, or gives
the slot up after three requests. -/
def execReplayRequest (ep slot : Nat) (s : State) : Host.Outcome State Fault Refusal :=
  .next (
    let x := s.recv ep slot
    if x.state ≠ 0 ∨ !s.spanLate x then s
    else if x.replays = 3 then s.loseSpan ep slot 0
    else
      let x1 := { x.cleared with gen := x.gen + 1, replays := x.replays + 1 }
      (List.range (min 2 s.upPorts.length)).foldl (fun s _ => s.emit (.replayRequest ep slot x1.current x1.gen))
        (s.setRecv ep slot x1))

/-- Entries of a span in the send log. -/
def LogEntry.inSpan (e : LogEntry) (dst slot : Nat) (span : BitVec 8) : Bool :=
  e.pkt.dst == dst && e.pkt.slot == slot && e.pkt.span == span

/-- The log holds a closed span. -/
def State.logHolds (s : State) (dst slot : Nat) (span : BitVec 8) : Bool :=
  s.sendLog.any (fun e => e.inSpan dst slot span && e.pkt.cls == .flag)

/-- Send a logged packet again; a flag goes out on two paths. -/
def State.resend (s : State) (p : Packet) : State :=
  if !s.pathUp then s
  else if p.cls = .flag then (List.range (min 2 s.upPorts.length)).foldl (fun s _ => (s.emit (.packet p)).flits p.dctx) s
  else s.transmit p

/-- REPLAY_REQUEST_ARRIVE (R362): the source resends the closed spans from x in order and then the open one, all under
the new generation, or answers that they are gone; a second copy of a request is ignored. -/
def execReplayRequestArrive (ep slot : Nat) (span : BitVec 8) (gen : BitVec 2) (s : State) :
    Host.Outcome State Fault Refusal :=
  .next (
    let st := s.send ep slot
    let n := (st.span - span).toNat
    let spans := (List.range n).map (fun i => span + BitVec.ofNat 8 i)
    if st.gen = gen then s
    else if 128 ≤ n ∨ !spans.all (s.logHolds ep slot) then s.emit (.replayGone ep slot)
    else
      let again (e : LogEntry) : Bool := (spans ++ [st.span]).any (e.inSpan ep slot)
      let fresh (e : LogEntry) : LogEntry := { e with pkt := { e.pkt with gen := gen, stamp := w32 s.now } }
      let s1 := s.setSend ep slot { st with gen := gen }
      let s2 := { s1 with sendLog := updWhere again fresh s1.sendLog }
      (spans ++ [st.span]).foldl (fun s x => (s.sendLog.filter (fun e => e.inSpan ep slot x)).foldl (fun s e => s.resend e.pkt) s) s2)

/-- REPLAY_GONE (R362). -/
def execReplayGone (ep slot : Nat) (s : State) : Host.Outcome State Fault Refusal := .next (s.loseSpan ep slot 1)

/-- SEND_LOG_EXPIRY (R360): the entries of a span go when T_KEEP has passed since its flag was sent. -/
def execSendLogExpiry (ep slot : Nat) (span : BitVec 8) (s : State) : Host.Outcome State Fault Refusal :=
  .next (
    let gone (e : LogEntry) : Bool := e.inSpan ep slot span && (match e.closedAt with
      | some t => decide (t + tKeepUs s.fabCtl * 1000 ≤ s.now)
      | none => false)
    { s with sendLog := s.sendLog.filter (fun e => !gone e) })

/-- PROTECTION_NOTICE (R355): the context that owns the domain context at the source is told. -/
def execProtectionNotice (pkt : Packet) (s : State) : Host.Outcome State Fault Refusal :=
  .next (match s.ctxOfDctx pkt.dctx with
    | some a => s.imprecise a 0x49 [w64 (pkt.dst + pktCode pkt.cls * 2 ^ 16), w64 pkt.addr] 0
    | none => s)

/-! ### Requests of other devices (R305, R354) -/

/-- The permission bit and the logged class of a request. -/
def remoteBit : RemoteOp → Nat
  | .read => 1
  | _ => 3
def remoteCls : RemoteOp → Nat
  | .read => 4
  | _ => 5

/-- An operation on a barrier of this device: it is done where R169 allows it. -/
def State.remoteBarrier (s : State) (dctx : BitVec 16) (p : Piece) (kind x y : Nat) : State :=
  let b := Barrier.ofNat (s.peek p.loc 16)
  match kind with
  | 0 => if 0xFFFFFF < x then s else (s.putBarrier 0 0 p (Barrier.init x s.now)).phaseChanged p none
  | 1 => match b.arrive x y with
    | some b1 => s.putBarrier 0 0 p b1
    | none => s
  | 2 => match b.expect y with
    | some b1 => s.putBarrier 0 0 p b1
    | none => s
  | 3 => s.endBarrierOp 0 0 p b
  | 5 =>
    let low : Int := -(2 ^ 31 : Nat)
    let s1 := match (if b.sect - x < low then s.ctxOfDctx dctx else none) with
      | some a => s.imprecise a 0x42 [] p.loc
      | none => s
    s1.putBarrier 0 0 p { b with sect := max low (b.sect - x) }
  | _ => s

/-- What a permitted request does to memory. -/
def State.performRemote (s : State) (r : RemoteReq) : State :=
  match r.op with
  | .read => s
  | .atomic op ty b cmp =>
    s.outsideWrite r.addr (natBytes r.len (atomNew op.toNat ty (s.peek r.addr r.len) (bytesNat b) (bytesNat cmp)))
  | .nibble high code => s.outsideWrite r.addr [nibbleByte (s.mem.get 0 r.addr) high code]
  | .barrier kind x y => s.remoteBarrier r.dctx { loc := r.addr, len := 16, va := 0, pte := none, ep := none } kind.toNat x y

/-- A wait for a barrier's phase that is still the one named. -/
def State.barrierWaits (s : State) (r : RemoteReq) : Bool :=
  match r.op with
  | .barrier kind x _ => kind.toNat == 4 && (Barrier.ofNat (s.peek r.addr 16)).phase == x
  | _ => false

/-- REMOTE_REQUEST_ARRIVE (R305, R354): the request is refused, meets poison, waits for a phase, or is performed; the
response carries the bytes as they were before. -/
def execRemoteRequestArrive (req : RemoteReq) (s : State) : Host.Outcome State Fault Refusal :=
  .next (
    let s1 := s.flits req.dctx
    if !s1.rangePermits req.src req.dctx req.addr req.len (remoteBit req.op) then
      (s1.protect req.src req.dctx (remoteCls req.op) req.addr).emit (.response req.id .refused [])
    else if s1.poisoned req.addr req.len then s1.emit (.response req.id .poisoned [])
    else if s1.barrierWaits req then { s1 with barWaits := s1.barWaits ++ [req] }
    else (s1.performRemote req).emit (.response req.id .ok (s1.homeBytes req.addr req.len)))

/-- The record that waits on a barrier of another device is ready (R264, R276). -/
def State.remotePhase (s : State) (r : RemoteReq) : State :=
  match r.op with
  | .barrier kind x _ =>
    if kind.toNat = 4 then
      s.wake (fun y => y.wkind == 2 && y.wkey0 == w64 (r.dst * 2 ^ 54 + r.addr) && bitsOf y.wkey1.toNat 20 2 == 1
        && bitsOf y.wkey1.toNat 16 4 == x) 0
    else s
  | _ => s

/-- REMOTE_RESPONSE_ARRIVE (R305): the answer is kept for the word, the engine operation or the reload that asked; one
that nothing waits for is dropped. -/
def execRemoteResponseArrive (id : Nat) (status : RemoteStatus) (bytes : List Byte) (s : State) :
    Host.Outcome State Fault Refusal :=
  .next (match s.remotes.find? (fun r => r.req.id == id && r.status.isNone) with
    | none => s
    | some r =>
      let s1 := s.flits r.req.dctx
      if r.gid = 0 ∧ r.tag = 32 then
        { s1 with remotes := s1.remotes.filter (fun x => x.req.id != id) }.remotePhase r.req
      else if r.gid ≠ 0 ∧ !s1.groups.any (fun g => g.gid == r.gid) then
        { s1 with remotes := s1.remotes.filter (fun x => x.req.id != id) }
      else
        let got (x : RemoteWait) : RemoteWait := { x with status := some status, bytes := bytes }
        let s2 : State := { s1 with remotes := updWhere (fun (x : RemoteWait) => x.req.id == id) got s1.remotes }
        s2.reloadAll)

/-! ### Write-combining age (R230) -/

/-- WCB_AGE_EXPIRY (R230): an entry open for WCB_AGE drains. -/
def execWcbAgeExpiry (core key : Nat) (s : State) : Host.Outcome State Fault Refusal :=
  .next (s.drainWcb (fun e => e.core == core && e.id == key
    && decide (e.openedAt + (s.part (s.ctx e.asid).part).wcbAge ≤ s.now)))

end Sys2Proof.Machine
end

