-- ==== Sys2Proof/Machine/Links.lean ====
section
/-! DEFINITION. The ports of the fabric: the path of a line and its hold (R352), time beacons (R365), the training of a
port with its link-state words (R366, R367), and the loss of a link (R352, R370). -/

namespace Sys2Proof.Machine

/-! ### Paths (R352) -/

def State.port (s : State) (p : Nat) : Port := s.ports.get Port.off p

/-- The port a line goes out by; none while no port is up. DESIGN CHOICE, log 95. -/
def State.pathOf (s : State) (line : Nat) : Option Nat :=
  let u := s.upPorts
  u[Config.linePath line u.length % u.length]?

/-- The time from which a line whose path has changed may send again, as kept: one more, so that it is not 0. -/
def holdUntil (lastSent : Nat) : Nat := lastSent + pathHoldNs

/-- Ports after a change: a line that takes another path now is held for PATH_HOLD from its last packet. -/
def State.withPort (s : State) (p : Nat) (x : Port) : State :=
  let s1 := { s with ports := s.ports.put Port.off p x }
  let moved := s.lineLast.filter (fun c => s.pathOf c.1 != s1.pathOf c.1)
  { s1 with pathHold := moved.foldl (fun m c => m.put 0 c.1 (holdUntil c.2)) s1.pathHold }

/-- The line of a packet, as the paths know it. -/
def lineOf (p : Packet) : Nat := p.dst * 2 ^ 52 + p.addr / 128

/-- PATH_HOLD_EXPIRY (R352): what waits for the line goes out by its new path, in order. -/
def execPathHoldExpiry (line : Nat) (s : State) : Host.Outcome State Fault Refusal :=
  .next (
    let h := s.pathHold.get 0 line
    if h = 0 ∨ s.now + 1 < h then s
    else
      let mine := s.pathWait.filter (fun p => lineOf p.2 == line)
      let s1 := { s with pathHold := s.pathHold.put 0 line 0, pathWait := s.pathWait.filter (fun p => lineOf p.2 != line) }
      mine.foldl (fun s p => match p.1 with
        | some core => s.sendCounted core p.2
        | none => if s.pathUp then s.transmit p.2 else s) s1)

/-! ### Time (R365) -/

/-- This device is the time master. -/
def State.isMaster (s : State) : Bool := s.timeMaster == some s.endpoint

/-- TIME_BEACON_SEND (R365): the master sends its timestamp on every port that is up. -/
def execTimeBeaconSend (s : State) : Host.Outcome State Fault Refusal :=
  .next (
    if s.isMaster && decide (s.lastBeacon + 1000 ≤ s.now) && s.pathUp then
      { s.upPorts.foldl (fun s _ => s.emit (.beacon s.now)) s with lastBeacon := s.now }
    else s)

/-- TIME_BEACON_ARRIVE (R365): a device that is not the master moves its timestamp toward the beacon's, by no more than
100 ppm of the time beacons have come for, and never back; after 10 ms it is synchronised. -/
def execTimeBeaconArrive (ts : W64) (s : State) : Host.Outcome State Fault Refusal :=
  .next (
    if s.isMaster then s
    else
      let since := s.beaconSince.getD s.now
      let room := (s.now - since) / 10000 - s.slewed
      let step := min room (ts.toNat - s.now)
      { s with now := s.now + step, lastBeacon := s.now + step, beaconSince := some since, slewed := s.slewed + step
               synced := s.synced || decide (since + 10000000 ≤ s.now) })

/-! ### Training (R366, R367) -/

/-- Fields of a link-state word (R366). -/
def lwEp (w : W64) : Nat := (w.extractLsb' 54 10).toNat
def lwPort (w : W64) : Nat := (w.extractLsb' 48 6).toNat
def lwLanes (w : W64) : BitVec 16 := w.extractLsb' 32 16
def lwWidth (w : W64) : BitVec 2 := w.extractLsb' 30 2
def lwSpeed (w : W64) : BitVec 2 := w.extractLsb' 28 2

/-- Good lanes of a mask, ascending. -/
def lanesIn (m : BitVec 16) : List Nat := below 16 (fun i => m.getLsbD i)

/-- The width code of the largest of 16, 8 and 4 that n lanes give (R367). -/
def widthCode (n : Nat) : Nat := if 16 ≤ n then 0 else if 8 ≤ n then 1 else 2

/-- The device's own word: lanes that trained good and the speed are what the spec leaves to the link. -/
def State.ownWord (s : State) (port trains : Nat) : W64 × State :=
  let (v, s1) := s.free
  let lanes := v.toNat % 65536
  let width := widthCode (lanesIn (BitVec.ofNat 16 lanes)).length
  (w64 (s.endpoint % 1024 * 2 ^ 54 + port % 64 * 2 ^ 48 + lanes * 2 ^ 32 + width * 2 ^ 30 + v.toNat / 65536 % 3 * 2 ^ 28
    + trains % 256 * 2 ^ 20), s1)

/-- A saturating count of 32 bits (R398). -/
def satAdd (x n : Nat) : Nat := min (2 ^ 32 - 1) (x + n)

/-- Change a wear block in the mirror and in flash at once (R398). -/
def State.wearNow (s : State) (u : Nat) (f : Wear → Wear) : State :=
  let put (m : SMap Wear) : SMap Wear :=
    m.put Wear.zero u (f { m.get Wear.zero u with updates := satAdd (m.get Wear.zero u).updates 1 })
  { s with wear := put s.wear, flash := { s.flash with wear := put s.flash.wear } }

/-- Count a training in the wear block of the port's die, in flash at once (R367, R398). -/
def State.countTraining (s : State) (port : Nat) : State :=
  s.wearNow (port / 4) (fun w => { w with retrain := satAdd w.retrain 1 })

/-- A port that may train: READY, enabled, and neither up, DOWN nor training; none in minimal mode (R389, R392). -/
def State.mayTrain (s : State) (port : Nat) : Bool :=
  let x := s.port port
  s.boot.ready && !s.boot.minimal && decide (port < 16) && s.ident.portEn.getLsbD port && !x.up && !x.down && x.training.isNone

/-- LINK_TRAINING (R366): the training is counted, and the signed word goes out. -/
def execLinkTraining (port : Nat) (s : State) : Host.Outcome State Fault Refusal :=
  .next (
    if s.mayTrain port then
      let x := s.port port
      let n := (x.trains + 1) % 256
      let (w, s1) := (s.countTraining port).ownWord port n
      (s1.withPort port { x with trains := n, training := some s.now, word := w }).emit (.linkWord port w)
    else s)

/-- A training fails; after the third in a row the port is DOWN (R367). -/
def State.trainingFails (s : State) (port : Nat) : State :=
  let x := s.port port
  let y := { x with training := none, fails := x.fails + 1, down := decide (3 ≤ x.fails + 1) }
  let s1 := s.withPort port y
  if y.down then s1.devFault 0x83 [w64 port] none else s1

/-- The word that the two ends' words make (R367): common lanes, the width they give, and the lower speed. -/
def agreedWord (own peer : W64) : W64 :=
  let lanes := lwLanes own &&& lwLanes peer
  let all := lanesIn lanes
  let width := widthCode all.length
  let n := if width = 0 then 16 else if width = 1 then 8 else 4
  let used : BitVec 16 := maskOf 16 (all.take n)
  (own &&& 0xFFFF00000FFFFFFF#64) ||| (BitVec.ofNat 64 used.toNat <<< 32) ||| (BitVec.ofNat 64 width <<< 30)
    ||| (BitVec.ofNat 64 (max (lwSpeed own).toNat (lwSpeed peer).toNat) <<< 28)

/-- LINK_STATE_WORD_ARRIVE (R367): the training fails, or the port comes up as trained or degraded. -/
def execLinkStateWordArrive (port : Nat) (word : W64) (sigOk : Bool) (s : State) : Host.Outcome State Fault Refusal :=
  .next (
    let x := s.port port
    if x.training.isNone then s
    else if (lanesIn (lwLanes x.word &&& lwLanes word)).length < 4 ∨ !sigOk ∨ x.expected.any (· != lwEp word) then
      s.trainingFails port
    else
      let same := lwLanes x.word == lwLanes word && lwWidth x.word == lwWidth word && lwSpeed x.word == lwSpeed word
      let s1 := s.withPort port
        { x with up := true, training := none, fails := 0, peer := lwEp word
                 word := if same then x.word else agreedWord x.word word }
      if same then s1 else s1.devFault 0x82 [x.word, word] none)

/-- LINK_TRAIN_TIMEOUT (R367): no word within 100 ms. -/
def execLinkTrainTimeout (port : Nat) (s : State) : Host.Outcome State Fault Refusal :=
  .next (match (s.port port).training with
    | some t => if t + 100000000 ≤ s.now then s.trainingFails port else s
    | none => s)

/-! ### Losing a link -/

/-- PORT_LINK_LOSS (R352): the port leaves the path lists; it trains again. -/
def execPortLinkLoss (port : Nat) (s : State) : Host.Outcome State Fault Refusal :=
  .next (if (s.port port).up then s.withPort port { s.port port with up := false } else s)

/-- CXL_LINK_DOWN (R370): reads of the range return poison and writes to it are discarded from now on. -/
def execCxlLinkDown (port : Nat) (s : State) : Host.Outcome State Fault Refusal :=
  .next (
    if port < 2 ∧ !s.cxlDown.getLsbD port then
      { s with cxlDown := s.cxlDown ||| (1#2 <<< port) }.devFault 0x84 [w64 port] none
    else s)

end Sys2Proof.Machine
end

