-- ==== Sys2Proof/Machine/Sha.lean ====
section
/-! DEFINITION. SHA-256, which gives the digests and signatures of the spec their values (R330, R394, R399). The spec
names the function; its steps are those of the standard FIPS 180-4. -/

namespace Sys2Proof.Machine

/-- The greatest x below 2^n above `acc` whose power `e` is at most `lim`, one bit at a time from the highest. -/
def shaRoot (e lim : Nat) : Nat → Nat → Nat
  | 0, acc => acc
  | n + 1, acc => shaRoot e lim n (if (acc + 2 ^ n) ^ e ≤ lim then acc + 2 ^ n else acc)

/-- The first 32 fraction bits of the root of degree `e` of p. -/
def shaFrac (e p : Nat) : W32 := BitVec.ofNat 32 (shaRoot e (p * 2 ^ (32 * e)) 38 0)

/-- The primes below n, in rising order. -/
def shaPrimes (n : Nat) : List Nat :=
  (List.range n).filter (fun p => 2 ≤ p && (List.range p).all (fun d => d < 2 || p % d != 0))

/-- The initial hash words come from the square roots of the first 8 primes. -/
def shaInit : List W32 := (shaPrimes 20).map (shaFrac 2)

/-- The round constants come from the cube roots of the first 64 primes. -/
def shaK : List W32 := (shaPrimes 312).map (shaFrac 3)

/-- The exclusive or of a word turned right by each of some counts. -/
def shaTurns (x : W32) (ns : List Nat) : W32 := ns.foldl (fun y n => y ^^^ x.rotateRight n) 0

/-- The big-endian value of bytes. -/
def bigEnd (bs : List Byte) : Nat := bs.foldl (fun n b => 256 * n + b.toNat) 0

/-- A message padded to whole blocks of 64 bytes. -/
def shaPad (m : List Byte) : List Byte :=
  m ++ [0x80#8] ++ List.replicate ((119 - m.length % 64) % 64) 0 ++ (natBytes 8 (8 * m.length)).reverse

/-- The next n words of the message schedule, whose last sixteen stand in `w`, newest first. -/
def shaSchedule : Nat → List W32 → List W32
  | 0, w => w
  | n + 1, w =>
    let back (i : Nat) : W32 := w.getD (i - 1) 0
    let low := shaTurns (back 15) [7, 18] ^^^ (back 15 >>> 3)
    let high := shaTurns (back 2) [17, 19] ^^^ (back 2 >>> 10)
    shaSchedule n ((high + back 7 + low + back 16) :: w)

/-- One round on the eight working words, the first being A; `kw` is the round's constant plus its schedule word. -/
def shaRound (v : List W32) (kw : W32) : List W32 :=
  let at_ (i : Nat) : W32 := v.getD i 0
  let choose := at_ 6 ^^^ (at_ 4 &&& (at_ 5 ^^^ at_ 6))
  let major := (at_ 0 &&& (at_ 1 ||| at_ 2)) ||| (at_ 1 &&& at_ 2)
  let mixed := kw + at_ 7 + choose + shaTurns (at_ 4) [6, 11, 25]
  let top := mixed + major + shaTurns (at_ 0) [2, 13, 22]
  top :: (v.take 3 ++ (at_ 3 + mixed) :: (v.drop 4).take 3)

/-- The hash words after one block of 64 bytes. -/
def shaBlock (h : List W32) (blk : List Byte) : List W32 :=
  let w0 := (List.range 16).map (fun i => w32 (bigEnd ((blk.drop (4 * i)).take 4)))
  let w := (shaSchedule 48 w0.reverse).reverse
  List.zipWith (· + ·) h ((List.zipWith (· + ·) shaK w).foldl shaRound h)

/-- SHA-256 of a message: 32 bytes. -/
def sha256 (m : List Byte) : List Byte :=
  let p := shaPad m
  let h := (List.range (p.length / 64)).foldl (fun h i => shaBlock h ((p.drop (64 * i)).take 64)) shaInit
  h.flatMap (fun x => (natBytes 4 x.toNat).reverse)

end Sys2Proof.Machine
end

