-- ==== Sys2Proof/Machine/Boot.lean ====
section
/-! DEFINITION. Power, the boot flow and failed starts (R388 to R393), the identity block (R394), fenced cores (R285,
R395), soft errors (R380, R381), thermal limits (R397), and wear counters (R398). -/

namespace Sys2Proof.Machine

/-! ### Power and starts -/

/-- Memory that is not the module's: host memory and CXL memory keep what they hold without its power (R388).
DESIGN CHOICE, log 25. -/
def outlasts (pa : Nat) : Bool := 0x1000000000000 ≤ pa && pa < 0x3000000000000

/-- A new start from power-good: volatile state is lost, and the global timestamp restarts at 0 (R388). DEDUCED, log 17. -/
def State.restart (s : State) : State :=
  { State.reset with
    flash := s.flash, out := s.out, agenda := s.agenda, freeCtr := s.freeCtr, wear := s.flash.wear
    mem := s.mem.filter (fun c => outlasts c.1), poison := s.poison.filter (fun c => outlasts (32 * c.1)) }

/-- POWER_GOOD (R389). -/
def execPowerGood (s : State) : Host.Outcome State Fault Refusal := .next (if s.boot.power then s else s.restart)

/-- The package without power. -/
def State.cut (s : State) : State :=
  let t := s.restart
  { t with boot := { t.boot with power := false } }

/-- POWER_OFF (R388). -/
def execPowerOff (s : State) : Host.Outcome State Fault Refusal := .next (if s.boot.power then s.cut else s)

/-- RETRY: FAILS is written as 0 and the device starts again (R391). -/
def State.retryStart (s : State) : State :=
  let t := s.restart
  { t with flash := { t.flash with fails := 0 } }

/-- RETRY (R391). -/
def execRetry (s : State) : Host.Outcome State Fault Refusal := .next (if s.boot.power then s.retryStart else s)

/-- A failed start (R392, R393): the cause goes to flash; the device starts again, but stays where it is in minimal mode,
and where no firmware image may run. -/
def State.failStart (s : State) (cause : BitVec 8) : State :=
  let s1 := { s with flash := { s.flash with cause := cause } }
  if s.boot.minimal || cause == 0x01#8 || cause == 0x02#8 then { s1 with boot := { s1.boot with halted := true } }
  else s1.restart

/-! ### Boot stages (R389, R394) -/

/-- Wear blocks: compute dies 0 to 3 and stacks at 4 to 11. -/
def wearUnits : List Nat := List.range 12

/-- Stage 1 begins: the start is counted in the wear blocks, and the failed-start count is read and incremented; at 3
the start is made in minimal mode (R389, R392, R398). -/
def State.beginStage1 (s : State) : State :=
  let s1 := wearUnits.foldl (fun s u => s.wearNow u (fun w => { w with starts := satAdd w.starts 1 })) s
  { s1 with
    flash := { s1.flash with fails := min 3 (s1.flash.fails + 1) }
    boot := { s1.boot with stage := 1, minimal := s1.flash.fails == 3 } }

/-- Cores that the fuses enable and the fence list does not name. -/
def Flash.cores (f : Flash) : BitVec 256 := f.coreFuse &&& ~~~(maskOf 256 f.fences)

/-- The bits of some dies' cores. -/
def coresOfDie (d : Nat) : BitVec 256 := BitVec.ofNat 256 ((2 ^ 64 - 1) * 2 ^ (64 * d))

/-- The identity block at stage 2 (R394); in minimal mode one die, the two stacks beside it, and no port (R392).
DEDUCED, log 114. -/
def State.formIdent (s : State) : Ident :=
  let f := s.flash
  let full : Ident :=
    { coreEn := f.cores, stackEn := f.stackFuse, portEn := f.portFuse, chanEn := f.chanFuse, coreLive := f.cores }
  if s.boot.minimal then
    match (List.range 4).find? (fun d => (f.cores &&& coresOfDie d) != 0) with
    | none => full
    | some d =>
      { coreEn := f.cores &&& coresOfDie d, stackEn := f.stackFuse &&& (3#8 <<< (2 * d)), portEn := 0
        chanEn := f.chanFuse &&& (15#32 <<< (4 * d)), coreLive := f.cores &&& coresOfDie d }
  else full

/-- Module memory and HBM4E with every line zero (R314, R389). -/
def State.zeroModule (s : State) : State :=
  { s with mem := s.mem.filter (fun c => 2 ^ 41 ≤ c.1), poison := s.poison.filter (fun c => 2 ^ 41 ≤ 32 * c.1)
           hier := { s.hier with zeroClear := [] } }

def State.heat (s : State) (unit : Nat) : Thermal := s.thermal.get Thermal.init unit
def State.setHeat (s : State) (unit : Nat) (t : Thermal) : State := { s with thermal := s.thermal.put Thermal.init unit t }

/-! ### Training (R389, R390) -/

/-- The temperature of a unit: a stack's own, else the base die's. DEDUCED, log 140. -/
def State.unitTemp (s : State) : TrainUnit → Nat
  | .stack n => (s.heat (8 + n)).temp
  | .channels _ => (s.heat 4).temp
  | .port _ => (s.heat 4).temp

/-- A stored training result is valid now (R390). DEDUCED, log 140. -/
def State.trainingOk (s : State) (t : Training) : Bool :=
  sha256 t.data == t.sha && t.package == s.flash.serial && t.module == s.flash.moduleSerial && t.format == s.flash.trainFormat
    && decide (s.unitTemp t.unit ≤ t.temp + 20) && decide (t.temp ≤ s.unitTemp t.unit + 20)

/-- The valid result of a copy for a unit. -/
def State.copyResult (s : State) (c : TrainCopy) (u : TrainUnit) : Option Training :=
  if c.seq.isNone then none else c.results.find? (fun t => t.unit == u && s.trainingOk t)

/-- Copy B has the higher sequence number. -/
def Flash.newerB (f : Flash) : Bool :=
  match f.copyA.seq, f.copyB.seq with
  | some a, some b => decide (a < b)
  | none, some _ => true
  | _, none => false

/-- The result that stage 3 uses for a unit: of the valid copy with the higher number (R390). -/
def State.storedResult (s : State) (u : TrainUnit) : Option Training :=
  let (hi, lo) := if s.flash.newerB then (s.flash.copyB, s.flash.copyA) else (s.flash.copyA, s.flash.copyB)
  (s.copyResult hi u).orElse (fun _ => s.copyResult lo u)

/-- The units that stage 3 trains (R389). -/
def State.trainUnits (s : State) : List TrainUnit :=
  s.stacks.map TrainUnit.stack ++ (List.range s.flash.channelGroups).map TrainUnit.channels

/-- A new result of a full training. -/
def State.newResult (s : State) (trained : List (TrainUnit × List Byte)) (u : TrainUnit) : Training :=
  let data := ((trained.find? (fun x => x.1 == u)).map (·.2)).getD []
  { unit := u, data := data, sha := sha256 data, package := s.flash.serial, module := s.flash.moduleSerial
    format := s.flash.trainFormat, temp := s.unitTemp u }

/-- Stage 3 (R389, R390): units without a valid result are trained fully, and the results then known go to the other copy,
which has no sequence number yet. -/
def State.train (s : State) (trained : List (TrainUnit × List Byte)) : State :=
  if s.trainUnits.all (fun u => (s.storedResult u).isSome) then { s with boot := { s.boot with stored := true } }
  else
    let all := s.trainUnits.map (fun u => (s.storedResult u).getD (s.newResult trained u))
    let c : TrainCopy := { seq := none, results := all }
    let toB := !s.flash.newerB && s.flash.copyA.seq.isSome
    let n := max (s.flash.copyA.seq.getD 0) (s.flash.copyB.seq.getD 0) + 1
    { s with boot := { s.boot with stored := false, training := some (n, toB) }
             flash := if toB then { s.flash with copyB := c } else { s.flash with copyA := c } }

/-- The sequence number of new results is written last (R390). -/
def State.closeTraining (s : State) : State :=
  match s.boot.training with
  | none => s
  | some (n, toB) =>
    let done (c : TrainCopy) : TrainCopy := { c with seq := some n }
    { s with boot := { s.boot with training := none }
             flash := if toB then { s.flash with copyB := done s.flash.copyB } else { s.flash with copyA := done s.flash.copyA } }

/-- The work of the current stage is done, and the next begins (R389). DEDUCED, log 112. -/
def State.stageDone (s : State) (ms : Nat) (trained : List (TrainUnit × List Byte)) : State :=
  let goTo (s : State) (n : Nat) : State := { s with boot := { s.boot with stage := n } }
  match s.boot.stage with
  | 0 => { s with wear := s.flash.wear }.beginStage1
  | 1 =>
    if s.flash.fwVersion < s.flash.rollback then s.failStart 0x02
    else goTo { s with flash := { s.flash with rollback := s.flash.fwVersion } } 2
  | 2 => goTo { s with ident := s.formIdent } 3
  | 3 => goTo (s.train trained) 4
  | 4 => goTo { s.closeTraining with cxlDown := if s.boot.minimal then 3 else 0 } 5
  | _ =>
    { s.zeroModule with
      flash := { s.flash with fails := if s.boot.minimal then s.flash.fails else 0 }
      boot := { s.boot with stage := 6, ready := true, readyMs := ms } }

/-- A start is under way. -/
def State.booting (s : State) : Bool := s.boot.power && !s.boot.ready && !s.boot.halted

/-- BOOT_STAGE_DONE (R389, R392). -/
def execBootStageDone (out : StageOutcome) (s : State) : Host.Outcome State Fault Refusal :=
  .next (
    if s.booting then
      match out with
      | .done ms trained => s.stageDone ms trained
      | .failed cause => s.failStart cause
    else s)

/-- BOOT_TIMEOUT (R392): 120 s have passed since power-good. -/
def execBootTimeout (s : State) : Host.Outcome State Fault Refusal :=
  .next (if s.booting && decide (120000000000 ≤ s.now) then s.failStart 0x07 else s)

/-! ### Fencing a core (R285, R395) -/

/-- The partition that holds a core. -/
def State.partOfCore (s : State) (core : Nat) : Option Nat := (List.range 8).find? (fun p => (s.part p).mask.getLsbD core)

/-- The lost-record fault (R402): up to 8 THREAD_IDs, and the record where there is one. -/
def State.lostThreads (s : State) (asid rid core : Nat) (tids : List W32) : State :=
  let pair (i : Nat) : W64 := w64 (pairWord tids i)
  s.ctxFault { FaultRec.plain s asid 0x4B 1 [w64 tids.length, pair 0, pair 2, pair 4, pair 6] with rid := rid, core := core }

/-- The THREAD_IDs of a record's LIVE lanes. -/
def Rec.liveTids (r : Rec) : List W32 := (below 4 (fun j => r.live.getLsbD j)).map (fun j => r.tids.getD j 0)

/-- A launch some of whose records were lost completes with code 0x0010 (R339). -/
def State.markLost (s : State) (asid launch : Nat) : State :=
  { s with launches := updWhere (fun (l : Launch) => l.asid == asid && l.num == launch) (fun l => { l with code := 0x10 }) s.launches }

/-- The quads of a group are lost. -/
def State.loseGroup (s : State) (g : Group) : State :=
  let quads := below 8 (fun q => !(g.quadLive q).isEmpty)
  let s1 := (s.without [g.gid]).markLost g.asid g.launch
  quads.foldl (fun s q => s.lostThreads g.asid 0 g.core ((g.quadLive q).map (fun L => (g.lane L).threadId))) s1

/-- A record is lost. -/
def State.loseRec (s : State) (r : Rec) : State :=
  ({ s with records := s.records.filter (fun x => x.rid != r.rid) }.markLost r.asid r.launch).lostThreads r.asid r.rid r.core
    r.liveTids

/-- A record on a core is lost with it: its block's allocation was there, or a live bound tile had not been flushed
(R285). -/
def State.lostWith (s : State) (core : Nat) (r : Rec) : Bool :=
  r.core == core && (!r.durable
    || (match s.blockOf r.asid r.launch r.block with
      | some b => b.core == core && !b.saved
      | none => false)
    || (s.keptOf r).any (fun x => r.klive.getLsbD x.1))

/-- The core a free record goes to: one of its partition, on the same die where there is one. DEDUCED, log 117. -/
def State.refuge (s : State) (core : Nat) (r : Rec) : Option Nat :=
  let cores := below 256 (fun n => n != core && s.coreLive n && (s.part (s.ctx r.asid).part).mask.getLsbD n)
  match cores.find? (fun n => dieOf n == dieOf core) with
  | some n => some n
  | none => cores.head?

/-- A durable record that may be forwarded leaves a failed core, behind the writes its context has buffered there (R273,
R285). Where the device has no core for it, it waits to go to another device, and is lost where no path leads to one. -/
def State.moveOff (s : State) (core : Nat) (r : Rec) : State :=
  if r.block ≠ 0xFFFFFF then s
  else match s.refuge core r with
    | none => if r.xfer.isSome || s.pathUp then s.onRecs [r] (fun x => { x with due := true }) else s.loseRec r
    | some n =>
      let s1 := s.drainWcb (fun e => e.core == core && e.asid == r.asid)
      let s2 := s1.onRecs [r] (fun x => { x.toCore n with due := false })
      if r.xfer.isSome then s2 else s2.sentOut [r] s2.endpoint

/-- The blocks of which nothing is left end, on whatever core they were, and so do their launches (R285, R339). -/
def State.endLost (s : State) : State := s.launches.foldl (fun s l => s.endBlocks l.asid l.num) s

/-- Fence a core (R395). -/
def State.fenceCore (s : State) (core : Nat) (byCommand : Bool) : State :=
  if !s.coreLive core then s
  else
    let off (m : BitVec 256) : BitVec 256 := m &&& ~~~(1#256 <<< core)
    let part := s.partOfCore core
    -- the core stops; its operations are terminated or dropped, but for those saved with a context (R212)
    let s1 := { s with ident := { s.ident with coreLive := off s.ident.coreLive } }
    let s2 := ((s1.engOps ++ s1.apStarts).filter (fun o => o.core == core && (s1.ctx o.asid).state != .out)).foldl (fun s o => s.terminate o none)
      { s1 with apStarts := s1.apStarts.filter (fun o => o.core != core) }
    let s3 := { s2 with matOps := s2.matOps.filter (fun o => o.core != core), reserved := s2.reserved.filter (fun r => r.core != core) }
    -- its groups and records
    let s4 := (s3.groups.filter (fun g => g.gid != 0 && g.core == core)).foldl (fun s g => s.loseGroup g) s3
    let s5 := (s4.records.filter (s4.lostWith core)).foldl (fun s r => s.loseRec r) s4
    let s6 := (s5.records.filter (fun r => r.core == core)).foldl (fun s r => s.moveOff core r) s5
    let s7 := { s6 with kept := s6.kept.filter (fun k => k.core != core) }.settle.endLost
    -- masks, the fence list, and the fault
    let s8 := { s7 with
      parts := s7.parts.map (fun (x : Nat × Part) => (x.1, { x.2 with mask := off x.2.mask }))
      flash := { s7.flash with
        fences := if s7.flash.fences.contains core || 64 ≤ s7.flash.fences.length then s7.flash.fences else s7.flash.fences ++ [core] } }
    s8.devFault 0x86 [w64 (core + (if byCommand then 2 ^ 16 else 0))] part

/-! ### Soft errors (R380, R381) -/

def ErrCount.zero : ErrCount := { ue := 0, ce := 0, ceTh := 0 }

/-- The soft-error device fault (R402). -/
def State.softFault (s : State) (e : SoftError) : State :=
  s.devFault 0x85 [w64 (e.unit % 256 + e.die % 256 * 2 ^ 8 + e.core % 65536 * 2 ^ 16), w64 e.loc] (s.partOfCore e.core)

/-- Count a corrected error; the fault at CE_TH (R381). -/
def State.countCorrected (s : State) (e : SoftError) : State :=
  let c := s.errs.get ErrCount.zero e.die
  let s1 := { s with errs := s.errs.put ErrCount.zero e.die { c with ce := satAdd c.ce 1 } }
  if c.ceTh ≠ 0 ∧ satAdd c.ce 1 = c.ceTh ∧ c.ce ≠ c.ceTh then s1.softFault e else s1

/-- Poison a sector by its location. -/
def State.poisonSector (s : State) (loc : Nat) : State := { s with poison := s.poison.put false (loc / 32) true }

/-- Poison register n of lane L of the group in a slot of a core: the location of an error in a register file is
8,192 × slot + 32 × n + L. -/
def State.poisonReg (s : State) (core loc : Nat) : State :=
  match (s.groupsOn core)[loc / 8192]? with
  | none => s
  | some g =>
    let n := loc / 32 % 256
    if n < g.bound then
      s.onGroup g.gid (fun g => g.mapLanes [loc % 32] (fun _ x => { x with vPoison := x.vPoison.put false n true }))
    else s

/-- The sector of a location is dirty in some tags. -/
def dirtySector (l : List Tag) (loc : Nat) : Bool :=
  l.any (fun t => t.line == loc / 128 && t.st == .modified && t.dirty.getLsbD (loc / 32 % 4))

/-- The error recovers by a refill: it lies in a translation, or in a clean cache line (R380). -/
def State.refillable (s : State) (e : SoftError) : Bool :=
  match e.unit with
  | 3 => !dirtySector (s.hier.l1.get [] e.core) e.loc
  | 4 => !dirtySector (s.hier.l2.get [] e.die) e.loc
  | 6 => true
  | _ => false

/-- Poison the smallest unit that holds an uncorrectable error (R380). DEDUCED, log 116. -/
def State.poisonUnit (s : State) (e : SoftError) : State :=
  match e.unit with
  | 0 => s.poisonReg e.core e.loc
  | 1 => s.poisonSector (spadLoc e.core (e.loc % 2 ^ 20))
  | 2 => { s with accPoison := s.accPoison.put false (e.core * 2 ^ 16 + e.loc % 2 ^ 16) true }
  | _ => s.poisonSector (e.loc % 2 ^ 52)

/-- SOFT_ERROR_DETECT (R380, R381, R395). -/
def execSoftErrorDetect (err : SoftError) (s : State) : Host.Outcome State Fault Refusal :=
  .next (
    if !s.boot.power then s
    else if err.corrected then s.countCorrected err
    else if s.refillable err then
      { s with hier := if err.unit = 6 then s.hier.dropPage (err.loc / 2 ^ 64) (err.loc % 2 ^ 64 * 65536) else s.hier }.countCorrected err
    else
      let c := s.errs.get ErrCount.zero err.die
      let s1 := { s with errs := s.errs.put ErrCount.zero err.die { c with ue := satAdd c.ue 1 } }.softFault err
      if err.unit = 10 then s1.fenceCore err.core false else s1.poisonUnit err)

/-! ### Heat and power (R397) -/

/-- Throttle point in °C: compute dies 0 to 3 and the base die 4, stacks from 8. -/
def throttleAt (unit : Nat) : Nat := if unit < 8 then 100 else 90

/-- Most steps a unit takes: four of 0.2 GHz from 1.6 to 0.8 GHz, or the one of a stack. -/
def maxSteps (unit : Nat) : Nat := if unit < 8 then 4 else 1

/-- The clock that the thermal fault of a unit reports: a die's own, else the lowest. -/
def State.reportClock (s : State) (unit : Nat) : Nat :=
  if unit < 4 then s.clockMhz unit else [1, 2, 3].foldl (fun m d => min m (s.clockMhz d)) (s.clockMhz 0)

/-- The thermal device fault of a step (R402). -/
def State.heatFault (s : State) (unit temp : Nat) (down : Bool) : State :=
  s.devFault 0x87 [w64 (unit % 16 + temp % 256 * 2 ^ 8 + s.reportClock unit * 2 ^ 16 + (if down then 2 ^ 32 else 0))] none

/-- A unit's clock steps change: the times of the dies' clocks are kept (R7, R397). -/
def State.setSteps (s : State) (unit : Nat) (t : Thermal) : State :=
  let s1 := s.setHeat unit t
  let changed := (below 4 (fun d => s1.clockMhz d != s.clockMhz d)).map (fun d => (d, s.now, s.clockMhz d))
  { s1 with clocks := changed ++ s.clocks }

/-- One step down, where one is left. DEDUCED, log 115. -/
def State.stepDown (s : State) (unit temp : Nat) : State :=
  let t := s.heat unit
  if t.steps < maxSteps unit then (s.setSteps unit { t with steps := t.steps + 1, temp := temp }).heatFault unit temp true
  else s.setHeat unit { t with temp := temp }

/-- THERMAL_THROTTLE (R397). -/
def execThermalThrottle (unit temp : Nat) (s : State) : Host.Outcome State Fault Refusal :=
  .next (if s.boot.power && decide (throttleAt unit < temp) then s.stepDown unit temp else s)

/-- THERMAL_RELEASE (R397): at 5 °C below the throttle point one step is given back. -/
def execThermalRelease (unit temp : Nat) (s : State) : Host.Outcome State Fault Refusal :=
  .next (
    let t := s.heat unit
    if s.boot.power && decide (temp + 5 ≤ throttleAt unit) && decide (0 < t.steps) then
      (s.setSteps unit { t with steps := t.steps - 1, temp := temp }).heatFault unit temp false
    else s)

/-- MODULE_POWER_CAP (R397). -/
def execModulePowerCap (unit watts : Nat) (s : State) : Host.Outcome State Fault Refusal :=
  .next (if s.boot.power && decide (Config.powerCap < watts) then s.stepDown unit (s.heat unit).temp else s)

/-- THERMAL_TRIP (R393, R397): the package is cut at once, and the next start reports cause 0x09. -/
def execThermalTrip (unit : Nat) (s : State) : Host.Outcome State Fault Refusal :=
  .next (
    if s.boot.power && (unit < 5 || (8 ≤ unit && unit < 16)) then
      ({ s with flash := { s.flash with cause := 0x09 } }.cut).emit .powerCut
    else s)

/-! ### Wear (R398) -/

/-- The wear block of a thermal unit; the base die has none. -/
def wearOf (unit : Nat) : Option Nat := if unit < 4 then some unit else if 8 ≤ unit ∧ unit < 16 then some (unit - 4) else none

/-- UNIT_TEMPERATURE_CHANGE (R398): the seconds the unit was at its last temperature count where that lay above a mark,
and a rise of 40 °C from the low mark is a thermal cycle. -/
def execUnitTemperatureChange (unit temp secs : Nat) (s : State) : Host.Outcome State Fault Refusal :=
  .next (
    if !s.boot.power then s
    else
      let t := s.heat unit
      let (lo, hi) := if unit < 8 then (95, 105) else (85, 95)
      let cycle := t.low + 40 ≤ temp
      let count (w : Wear) : Wear :=
        { w with secLo := if lo < t.temp then satAdd w.secLo secs else w.secLo
                 secHi := if hi < t.temp then satAdd w.secHi secs else w.secHi
                 therm := if cycle then satAdd w.therm 1 else w.therm }
      let s1 := s.setHeat unit { t with temp := temp, low := if cycle then temp else min t.low temp }
      match wearOf unit with
      | some u => { s1 with wear := s1.wear.put Wear.zero u (count (s1.wear.get Wear.zero u)) }
      | none => s1)

/-- The mirror goes to flash. DEDUCED, log 120. -/
def State.flushWear (s : State) : State :=
  let up (m : SMap Wear) : SMap Wear :=
    wearUnits.foldl (fun m u => m.put Wear.zero u { m.get Wear.zero u with updates := satAdd (m.get Wear.zero u).updates 1 }) m
  { s with wear := up s.wear, flash := { s.flash with wear := up s.wear }, wearFlushed := s.now }

/-- WEAR_FLUSH (R398): every ten minutes. -/
def execWearFlush (s : State) : Host.Outcome State Fault Refusal :=
  .next (if s.boot.power && decide (s.wearFlushed + 600000000000 ≤ s.now) then s.flushWear else s)

end Sys2Proof.Machine
end

