-- ==== Sys2Proof/Machine/Mailbox.lean ====
section
/-! DEFINITION. The mailbox and its commands (R369, R396), but for the context switch: contexts (R333), code objects
(R330 to R332), work queues (R334, R335), endpoints, slots and ports (R350, R356, R359, R365, R367), attestation (R400),
and fences (R395). -/

namespace Sys2Proof.Machine

/-! ### The mailbox (R369) -/

/-- A command is in the mailbox of its function and has not begun to wait for a switch. DESIGN CHOICE, log 102. -/
def State.commanded (s : State) (c : MbxCmd) : Bool :=
  s.boot.ready && (s.mailbox c.fn).req == some c.block && !s.ctxs.any (fun x => x.2.mbx == some c)

/-- The reply to arguments for which the spec gives no status: nothing changes but the reply, with a free status. -/
def State.replyOpen (s : State) (c : MbxCmd) : State :=
  let (v, s1) := s.free
  s1.reply c (v.toNat % 2 ^ 32) 0

/-- Run a command that is in its mailbox. -/
def State.command (s : State) (c : MbxCmd) (k : State → State) : Host.Outcome State Fault Refusal :=
  .next (if s.commanded c then k s else s)

/-! ### Contexts (R333) -/

/-- Doubleword i of a descriptor, and a base of 80 bits. -/
def descWord (d : List W64) (i : Nat) : Nat := (d.getD i 0).toNat
def descBase (d : List W64) (i : Nat) : Nat := descWord d i + bitsOf (descWord d (i + 1)) 0 16 * 2 ^ 64

/-- A reserved bit of a descriptor is set. -/
def descReserved (d : List W64) : Bool :=
  let w := descWord d
  bitsOf (w 0) 48 16 != 0 || bitsOf (w 1) 52 12 != 0 || bitsOf (w 3) 48 16 != 0 || bitsOf (w 5) 16 48 != 0
    || bitsOf (w 8) 29 35 != 0 || bitsOf (w 10) 16 16 != 0 || bitsOf (w 12) 35 29 != 0 || bitsOf (w 15) 48 16 != 0
    || bitsOf (w 18) 48 16 != 0 || bitsOf (w 20) 16 48 != 0 || (List.range 11).any (fun i => w (21 + i) != 0)
    || (List.range 16).any (fun i => bitsOf (w (33 + 2 * i)) 16 16 != 0)

/-- A base that is not aligned: the page-table root to 64 KiB (R319), PRIV_BASE to 128 bytes (R33), TMPL_BASE to 64
(R213), tile stores to 4 KiB (R27), and the others to the unit of what they hold. DESIGN CHOICE, log 103. -/
def descUnaligned (d : List W64) : Bool :=
  descWord d 1 % 65536 != 0 || descBase d 2 % 8 != 0 || descBase d 4 % 128 != 0 || descBase d 7 % 64 != 0
    || descBase d 9 % 256 != 0 || descBase d 14 % 128 != 0 || descBase d 17 % 16 != 0 || descBase d 19 % 32 != 0
    || (List.range 16).any (fun i => descBase d (32 + 2 * i) % 4096 != 0)

def descAsid (d : List W64) : Nat := bitsOf (descWord d 0) 0 10

/-- A descriptor is refused (R333). -/
def State.descRefused (s : State) (d : List W64) : Bool :=
  descReserved d || descUnaligned d || decide (262144 < bitsOf (descWord d 13) 0 32)
    || decide (bitsOf (descWord d 6) 0 32 < bitsOf (descWord d 6) 32 32)
    || (s.ctx (descAsid d)).state == .running || (s.ctx (descAsid d)).state == .switching
    || (s.ctx (descAsid d)).state == .ending

/-- A count whose 0 means a default. -/
def orDefault (x d : Nat) : Nat := if x = 0 then d else x

/-- The fields of a descriptor, in a context that keeps what the descriptor does not name. -/
def Ctx.described (c : Ctx) (d : List W64) : Ctx :=
  let w := descWord d
  { c with
    part := bitsOf (w 0) 10 3, prio := bitsOf (w 0) 13 3, share := bitsOf (w 0) 16 16, dctx := BitVec.ofNat 16 (bitsOf (w 0) 32 16)
    ptRoot := bitsOf (w 1) 0 52, codeBase := BitVec.ofNat 80 (descBase d 2), codeSize := bitsOf (w 3) 16 32
    privBase := BitVec.ofNat 80 (descBase d 4), privSize := bitsOf (w 6) 0 32, stkLimit := bitsOf (w 6) 32 32
    tmplBase := BitVec.ofNat 80 (descBase d 7), tmplCount := bitsOf (w 8) 16 13
    poolBase := BitVec.ofNat 80 (descBase d 9), poolSize := orDefault (bitsOf (w 10) 32 32) 1024 * 2 ^ 20
    poolTmo := orDefault (bitsOf (w 11) 0 32) 50000, binAge := orDefault (bitsOf (w 11) 32 32) 2000
    parkThresh := if bitOf (w 12) 34 then 0 else w32 (orDefault (bitsOf (w 12) 0 32) 512)
    engCompat := bitOf (w 12) 32, bkptSup := bitOf (w 12) 33
    lockQuota := bitsOf (w 13) 0 32, trapPc := w32 (bitsOf (w 13) 32 32)
    fqBase := BitVec.ofNat 80 (descBase d 14), fqSize := bitsOf (w 15) 16 32, extDl := w 16
    segBase := BitVec.ofNat 80 (descBase d 17), segCount := bitsOf (w 18) 16 32
    telemBase := BitVec.ofNat 80 (descBase d 19)
    stores := (List.range 16).map (fun i =>
      { base := BitVec.ofNat 80 (descBase d (32 + 2 * i)), count := bitsOf (w (33 + 2 * i)) 32 32 }) }

/-- The span states of the slots a domain context owns start anew (R229, R233). -/
def State.freshSpans (s : State) (d : BitVec 16) : State :=
  let mine (key : Nat) : Bool := s.owners.get 0xFFFF#16 key == d
  { s with sends := s.sends.filter (fun c => !mine c.1), recvs := s.recvs.filter (fun c => !mine c.1) }

/-- REGISTER_CTX (R333, R369). -/
def execRegisterCtx (cmd : MbxCmd) (desc : List W64) (s : State) : Host.Outcome State Fault Refusal :=
  s.command cmd (fun s =>
    if s.descRefused desc then s.reply cmd 1 0
    else
      let a := descAsid desc
      let old := s.ctx a
      let c := old.described desc
      let s1 := if old.state = .out then s.setCtx a { c with vt := 0 }
        else (s.setCtx a { c with state := .running, vt := 0 }).freshSpans c.dctx
      s1.reply cmd 0 0)

/-- Something of a context is left on the device: groups, records, launches, or operations. -/
def State.ctxBusy (s : State) (a : Nat) : Bool :=
  s.groups.any (fun g => g.gid != 0 && g.asid == a) || s.records.any (fun r => r.asid == a) || s.launches.any (fun l => l.asid == a)
    || (s.engOps ++ s.apStarts).any (fun o => o.asid == a) || s.maintOps.any (fun o => o.asid == a)

/-- The launches of a context that are not complete are terminated: completion code 0x0011 (R339). Those whose word has to
wait stay. DEDUCED, log 104. -/
def State.terminateLaunches (s : State) (a : Nat) : State :=
  (s.launches.filter (fun l => l.asid == a)).foldl (fun s l => s.complete (if l.completed then l else { l with code := 0x11 })) s

/-- All that is a context's own is gone, but for its launches and the pages they wait for. -/
def State.stripCtx (s1 : State) (a : Nat) : State :=
  { s1 with
    records := s1.records.filter (fun r => r.asid != a)
    departed := s1.departed.filter (fun r => r.asid != a), blocks := s1.blocks.filter (fun b => b.asid != a)
    queues := s1.queues.filter (fun x => x.2.asid != a || x.2.state == .off)
    engOps := s1.engOps.filter (fun o => o.asid != a), apStarts := s1.apStarts.filter (fun o => o.asid != a)
    maintOps := s1.maintOps.filter (fun o => o.asid != a), flagOps := s1.flagOps.filter (fun f => f.asid != a)
    ecalls := s1.ecalls.filter (fun e => e.asid != a), kept := s1.kept.filter (fun k => k.asid != a)
    channels := s1.channels.filter (fun x => x.2.asid != a || !x.2.opened)
    reserved := s1.reserved.filter (fun r => r.asid != a) }

/-- A context ends: its launches are terminated, and the reply follows when the last of their words is written. -/
def State.endCtx (s : State) (cmd : MbxCmd) (a : Nat) : State :=
  let s1 := ((s.drainWcb (fun e => e.asid == a)).terminateLaunches a).stripCtx a
  (s1.setCtx a { s1.ctx a with state := .ending, mbx := some cmd }).endOver a

/-- DEREGISTER_CTX (R369): a context that runs work, or is being switched, is still running. -/
def execDeregisterCtx (cmd : MbxCmd) (asid : Nat) (s : State) : Host.Outcome State Fault Refusal :=
  s.command cmd (fun s =>
    match (s.ctx asid).state with
    | .off => s.replyOpen cmd
    | .switching => s.reply cmd 2 0
    | .ending => s.reply cmd 2 0
    | .running => if s.ctxBusy asid then s.reply cmd 2 0 else s.endCtx cmd asid
    | .out => if (s.ctx asid).mbx.isSome then s.reply cmd 2 0 else s.endCtx cmd asid)

/-! ### Code objects (R330 to R332) -/

/-- The number of n bytes at an offset of an object. -/
def objNum (o : List Byte) (off n : Nat) : Nat := bytesNat ((o.drop off).take n)
def objPart (o : List Byte) (off n : Nat) : List Byte := (o.drop off).take n

/-- A section lies inside an object at an aligned offset. -/
def inObject (o : List Byte) (off n : Nat) : Bool := off % 8 == 0 && decide (off + n ≤ o.length)

/-- An entry of the variant table (R330). -/
structure Variant where
  sig : Nat
  cls : Nat
  codeOff : Nat
  codeSize : Nat
  digest : List Byte
  segOff : Nat
  segCount : Nat
  kOff : Nat
  kCount : Nat
deriving DecidableEq, Repr

def variantAt (o : List Byte) (off : Nat) : Variant :=
  { sig := objNum o off 8, cls := objNum o (off + 8) 1, codeOff := objNum o (off + 0x10) 8, codeSize := objNum o (off + 0x18) 8
    digest := objPart o (off + 0x20) 32, segOff := objNum o (off + 0x40) 8, segCount := objNum o (off + 0x48) 4
    kOff := objNum o (off + 0x50) 8, kCount := objNum o (off + 0x58) 4 }

/-- The variants of an object. -/
def objVariants (o : List Byte) : List Variant :=
  (List.range (objNum o 6 2)).map (fun i => variantAt o (objNum o 8 8 + 96 * i))

/-- A segment table entry from 16 bytes. -/
def segmentAt (b : List Byte) (i : Nat) : Segment :=
  { start := w32 (objNum b (16 * i) 4), stop := w32 (objNum b (16 * i + 4) 4), handler := w32 (objNum b (16 * i + 8) 4)
    binKey := BitVec.ofNat 16 (objNum b (16 * i + 12) 2) }

/-- A segment table: its reserved bits are zero, and its entries ascend and do not overlap. -/
def segTableOk (b : List Byte) (n : Nat) : Bool :=
  (List.range n).all (fun i => objNum b (16 * i + 14) 2 == 0 && decide ((segmentAt b i).start.toNat ≤ (segmentAt b i).stop.toNat)
    && (i == 0 || decide ((segmentAt b (i - 1)).stop.toNat ≤ (segmentAt b i).start.toNat)))

/-- A variant table entry that is right in itself (refusal 1 of R331). -/
def variantOk (o : List Byte) (off : Nat) : Bool :=
  let v := variantAt o off
  objNum o (off + 9) 7 == 0 && inObject o v.codeOff v.codeSize && v.codeSize % 8 == 0 && decide (v.codeSize < 2 ^ 32)
    && inObject o v.segOff (16 * v.segCount) && inObject o v.kOff (160 * v.kCount)
    && segTableOk (objPart o v.segOff (16 * v.segCount)) v.segCount

/-- The object is right in itself (refusal 1 of R331). -/
def objectOk (o : List Byte) : Bool :=
  decide (64 ≤ o.length) && objNum o 0 4 == 0x7A5C0B01 && objNum o 4 2 == 1 && decide (objNum o 6 2 ≤ 64)
    && inObject o (objNum o 8 8) (96 * objNum o 6 2) && inObject o (objNum o 0x10 8) (objNum o 0x18 8)
    && inObject o (objNum o 0x20 8) (objNum o 0x28 8) && objNum o 0x30 8 == 0 && objNum o 0x38 8 == 0
    && (List.range (objNum o 6 2)).all (fun i => variantOk o (objNum o 8 8 + 96 * i))

/-- The 40 bytes of the defect map, and its signature (R394). -/
def Ident.defectMap (i : Ident) : List Byte :=
  natBytes 32 i.coreEn.toNat ++ natBytes 1 i.stackEn.toNat ++ [0] ++ natBytes 2 i.portEn.toNat ++ natBytes 4 i.chanEn.toNat
def Ident.signature (i : Ident) : Nat := bytesNat ((sha256 i.defectMap).take 8)

/-- What is loaded of an object: the code, the segment table, the kernel table, and the code's digest. -/
structure CodeImage where
  code : List Byte
  segTab : List Byte
  ktab : List Byte
  digest : List Byte
  /-- the digest the object names; none for a translation -/
  named : Option (List Byte)
  classOne : Bool
deriving DecidableEq, Repr

def Variant.placed (o : List Byte) (v : Variant) : CodeImage :=
  let code := objPart o v.codeOff v.codeSize
  { code := code, segTab := objPart o v.segOff (16 * v.segCount)
    ktab := objPart o v.kOff (160 * v.kCount), digest := sha256 code, named := some v.digest
    classOne := v.cls == 1 }

/-- The device is of class 1. -/
def classHere (c : Nat) : Bool := c == 0 || c == 1

/-- A kernel table entry is above the resource floor (R72), by the record template it holds (R330). -/
def kernelAbove (ktab : List Byte) (i : Nat) : Bool := (Launch.ofWords (dwordsOf 16 (objPart ktab (160 * i + 32) 128))).aboveFloor

/-- A translation as R332 and R330 let it be: whole clauses and table entries, and no kernel above the resource floor. -/
def translationOk (code segTab ktab : List Byte) : Bool :=
  code.length % 8 == 0 && segTab.length % 16 == 0 && segTableOk segTab (segTab.length / 16) && ktab.length % 160 == 0
    && (List.range (ktab.length / 160)).all (fun i => !kernelAbove ktab i)

/-- The translation of a Narano section (R332). -/
def translated (nar : List Byte) : Option CodeImage :=
  match Config.narano nar 1 with
  | none => none
  | some (code, segTab, ktab) =>
    if translationOk code segTab ktab then
      some { code := code, segTab := segTab, ktab := ktab, digest := sha256 code, named := none
             classOne := Config.naranoClass nar == 1 }
    else none

/-- The choice of R331: a variant, a translation, or the refusal code. -/
def State.chooseVariant (s : State) (o : List Byte) : Except Nat CodeImage :=
  let vs := (objVariants o).filter (fun v => classHere v.cls)
  match vs.find? (fun v => v.sig == s.ident.signature), vs.find? (fun v => v.sig == 2 ^ 64 - 1) with
  | some v, _ => .ok (v.placed o)
  | none, some v => .ok (v.placed o)
  | none, none =>
    let nar := objPart o (objNum o 0x10 8) (objNum o 0x18 8)
    if nar.isEmpty then .error 2
    else match translated nar with
      | none => .error 3
      | some p =>
        if !classHere (Config.naranoClass nar) && (objVariants o).all (fun v => !classHere v.cls) then .error 4 else .ok p

/-- Every page of a range is there in local memory. -/
def State.canPlace (s : State) (asid base n : Nat) : Bool :=
  ((splitAt 65536 (n / 65536 + 2) base n).all (fun r => (s.locOf asid (r.1 % 2 ^ 80)).isSome))

/-- Place a chosen variant in a context's memory (R331): its code at CODE_BASE, its segment table at SEGTAB, and the
object's data at an address the spec does not name. DEDUCED, log 105. -/
def State.placeCode (s : State) (asid : Nat) (p : CodeImage) (data : List Byte) : Except Nat State :=
  let c := s.ctx asid
  let n := p.segTab.length / 16
  let (v, s1) := s.free
  let (v', s2) := s1.free
  let dataAt := (v.toNat + v'.toNat * 2 ^ 64) % 2 ^ 80
  if p.named.any (· != p.digest) then .error 5
  else if c.codeSize < p.code.length ∨ c.segCount < n ∨ !s.canPlace asid c.codeBase.toNat p.code.length
      ∨ !s.canPlace asid c.segBase.toNat p.segTab.length ∨ !s.canPlace asid dataAt data.length then .error 6
  else
    let s3 := if data.isEmpty then s else s2.vPoke asid dataAt data
    let s4 := (s3.vPoke asid c.codeBase.toNat p.code).vPoke asid c.segBase.toNat p.segTab
    .ok ({ s4 with hier := s4.hier.codeDrop (fun a _ => a == asid) }.setCtx asid { s4.ctx asid with
      codeSize := p.code.length, segs := (List.range n).map (segmentAt p.segTab), digest := p.digest, ktab := p.ktab
      classOne := p.classOne })

/-- LOAD_CODE (R331): the object lies in host memory. -/
def execLoadCode (cmd : MbxCmd) (asid obj size : Nat) (s : State) : Host.Outcome State Fault Refusal :=
  s.command cmd (fun s =>
    let o := (List.range size).map (fun i => s.mem.get 0 (hostLoc (obj + i)))
    if !objectOk o then s.reply cmd 1 0
    else match s.chooseVariant o with
      | .error 3 =>
        let (v, s1) := s.free
        s1.reply cmd 3 (v.toNat % 2 ^ 32)
      | .error e => s.reply cmd e 0
      | .ok p => match s.placeCode asid p (objPart o (objNum o 0x20 8) (objNum o 0x28 8)) with
        | .error e => s.reply cmd e 0
        | .ok s1 => s1.reply cmd 0 0)

/-! ### Work queues (R334, R335) -/

/-- QUEUE_ENABLE (R334). -/
def execQueueEnable (cmd : MbxCmd) (q : Nat) (ring : Addr) (log2n : Nat) (task : Bool) (asid : Nat) (s : State) :
    Host.Outcome State Fault Refusal :=
  s.command cmd (fun s =>
    if (s.queue q).state ≠ .off then s.reply cmd 3 0
    else if Config.workQueues ≤ q ∨ log2n < 6 ∨ 14 < log2n ∨ ring.toNat % 128 ≠ 0 ∨ (s.ctx asid).state = .off
        ∨ (s.ctx asid).state = .ending ∨ !globalWindow ring.toNat then s.replyOpen cmd
    else
      let there := (s.ctx asid).state = .running
      let x := { WorkQueue.none with
        state := if there then .idle else .paused, saved := .idle, task := task, asid := asid, ring := ring, log2n := log2n }
      (s.setQueue q x).reply cmd 0 0)

/-- QUEUE_DISABLE (R335). -/
def execQueueDisable (cmd : MbxCmd) (q : Nat) (s : State) : Host.Outcome State Fault Refusal :=
  s.command cmd (fun s =>
    if !(s.launchesOf q).isEmpty then s.reply cmd 4 0 else (s.setQueue q WorkQueue.none).reply cmd 0 0)

/-! ### Endpoints, slots, time, ports -/

/-- ENDPOINT_SET (R350). -/
def execEndpointSet (cmd : MbxCmd) (ep : Nat) (s : State) : Host.Outcome State Fault Refusal :=
  s.command cmd (fun s => if s.pathUp then s.reply cmd 6 0 else { s with endpoint := ep % 1024 }.reply cmd 0 0)

/-- SLOT_ASSIGN (R356): 0xFFFF gives the slot up. -/
def execSlotAssign (cmd : MbxCmd) (peer slot : Nat) (dctx : BitVec 16) (s : State) : Host.Outcome State Fault Refusal :=
  s.command cmd (fun s =>
    let o := s.owner peer slot
    if o ≠ 0xFFFF#16 ∧ o ≠ dctx ∧ dctx ≠ 0xFFFF#16 then s.reply cmd 7 0
    else { s with owners := s.owners.put 0xFFFF#16 (recvKey peer slot) dctx }.reply cmd 0 0)

/-- SLOT_RESET (R359): at the receiver LAST_DONE is set, the rest is cleared, and the records whose spans then count as
delivered are ready; at the source SPAN is set and the open span begins anew. -/
def execSlotReset (cmd : MbxCmd) (peer slot : Nat) (receiver : Bool) (value : BitVec 8) (s : State) :
    Host.Outcome State Fault Refusal :=
  s.command cmd (fun s =>
    if receiver then
      let s1 := s.setRecv peer slot { RecvState.init with lastDone := value }
      (s1.wake (fun r => r.wkind == 5 && s1.flagDelivered (r.wkey0.truncate 32)) 0).reply cmd 0 0
    else (s.setSend peer slot { s.send peer slot with span := value, count := 0, gen := 0 }).reply cmd 0 0)

/-- SET_TIME_MASTER (R365). -/
def execSetTimeMaster (cmd : MbxCmd) (ep : Nat) (s : State) : Host.Outcome State Fault Refusal :=
  s.command cmd (fun s => { s with timeMaster := some (ep % 1024) }.reply cmd 0 0)

/-- LINK_ENABLE (R367). -/
def execLinkEnable (cmd : MbxCmd) (port : Nat) (s : State) : Host.Outcome State Fault Refusal :=
  s.command cmd (fun s =>
    if (s.port port).down then (s.withPort port { s.port port with down := false, fails := 0 }).reply cmd 0 0 else s.reply cmd 8 0)

/-! ### Boot status, attestation, fences -/

/-- BOOT_STAT (R391). -/
def State.bootStat (s : State) : Nat :=
  let b := s.boot
  b.readyMs % 2 ^ 32 * 2 ^ 32 + s.flash.cause.toNat * 2 ^ 24 + b.stage % 16 * 2 ^ 20 + s.flash.fails % 4 * 2 ^ 18
    + (if b.minimal then 2 ^ 17 else 0) + (if b.stored then 2 ^ 16 else 0) + (if b.ready then 2 ^ 15 else 0)

/-- A list of bytes cut or filled with zeros to a length. -/
def fit (n : Nat) (l : List Byte) : List Byte := (l ++ List.replicate n 0).take n

/-- The 640 bytes of an attestation report (R400). -/
def State.report (s : State) (asid : Nat) (nonce : List Byte) : List Byte :=
  let digest : List Byte := if asid = 0xFFFF then [] else (s.ctx asid).digest
  let m := natBytes 4 0x7A5CA7E5 ++ natBytes 4 1 ++ natBytes 8 s.flash.serial.toNat ++ natBytes 8 s.now ++ fit 32 nonce
    ++ fit 32 s.flash.fwDigest ++ natBytes 8 s.bootStat ++ natBytes 8 s.ident.signature ++ fit 32 digest ++ natBytes 2 asid
    ++ List.replicate 118 0
  m ++ fit 384 (Config.sign m 384)

/-- ATTEST (R396, R400). -/
def execAttest (cmd : MbxCmd) (asid : Nat) (nonce : List Byte) (report : Nat) (s : State) :
    Host.Outcome State Fault Refusal :=
  s.command cmd (fun s =>
    if asid ≠ 0xFFFF ∧ (s.ctx asid).state = .off then s.reply cmd 9 0
    else (s.poke (hostLoc report) (s.report asid nonce)).reply cmd 0 0)

/-- CORE_FENCE (R395, R396). -/
def execCoreFence (cmd : MbxCmd) (core : Nat) (s : State) : Host.Outcome State Fault Refusal :=
  s.command cmd (fun s => if s.coreLive core then (s.fenceCore core true).reply cmd 0 0 else s.reply cmd 10 0)

/-- FENCE_CLEAR (R396): it takes effect at the next start. -/
def execFenceClear (cmd : MbxCmd) (s : State) : Host.Outcome State Fault Refusal :=
  s.command cmd (fun s => { s with flash := { s.flash with fences := [] } }.reply cmd 0 0)

end Sys2Proof.Machine
end

