-- ==== Sys2Proof/Machine/Matrix.lean ====
section
/-! DEFINITION. The matrix engine (R176 to R192): the format word, operands in the scratchpad, the multiply words with
their accumulation (R95 to R99), structured sparsity, unfolding, and the end of an operation. -/

namespace Sys2Proof.Machine

/-! ### Formats (R180, R81 to R85) -/

/-- Stored bits of a format code. -/
def matBits (code : Nat) : Nat := [32, 16, 16, 8, 8, 8, 8, 8, 8, 16, 4, 4, 4, 4, 2, 1].getD code 1

/-- K of a format code. -/
def matK (code : Nat) : Nat := [32, 64, 64, 128, 128, 128, 128, 128, 128, 64, 256, 256, 256, 256, 256, 256].getD code 256

/-- Integer formats (R95), FQ4 formats, and packed formats. -/
def matInt (code : Nat) : Bool := [7, 8, 9, 14, 15].contains code
def matFq (code : Nat) : Bool := 10 ≤ code && code ≤ 13
def matPacked (code : Nat) : Bool := 10 ≤ code

/-- The value of an element that is not FQ4 (R77, R80, R81). -/
def matVal (code raw : Nat) : FNum :=
  match code with
  | 0 => decodeF (fmtOf .f32) raw
  | 1 => decodeF (fmtOf .bf16) raw
  | 2 => decodeF (fmtOf .f16) raw
  | 3 => decodeF (fmtOf .e4m3) raw
  | 4 => decodeF (fmtOf .e5m2) raw
  | 5 => decodeF (fmtOf .e3m2) (raw % 64)
  | 6 => decodeF (fmtOf .e2m3) (raw % 64)
  | 7 => FNum.ofInt (sextN raw 8)
  | 8 => FNum.ofInt (zextN raw 8)
  | 9 => FNum.ofInt (sextN raw 16)
  | 14 => FNum.ofInt (if raw = 1 then 1 else if raw = 3 then -1 else 0)
  | _ => FNum.ofInt (if raw = 0 then 1 else -1)

/-- The value d of an FQ4 code under its scale word (R83, R84); NaN where the block is malformed or of another type. -/
def fqVal (code word raw : Nat) : FNum :=
  let ct := bitsOf word 16 2
  if word / 2 ^ 26 ≠ 0 ∨ (bitsOf word 18 8 ≠ 0 ∧ ct ≠ 0) ∨ ct ≠ code - 10 then .nan
  else if ct = 0 then FNum.ofInt ((raw : Int) - sextN (bitsOf word 18 8) 8)
  else .fin (bitOf raw 3) ((mags8 ct).getD (raw % 8) 0) (-3) false

/-! ### Operands (R182 to R184) -/

/-- A value with the address + 1 of a poisoned sector it was read from; 0 where it is not poisoned (R178). -/
structure Elem where
  val : FNum
  bad : Nat
deriving DecidableEq, Repr

/-- An operand in a scratchpad: its address, where it lies, and the bytes and poison there. -/
structure OpView where
  va : Nat
  loc : Nat
  mem : SMap Byte
  bad : SMap Bool
deriving DecidableEq, Repr

/-- The view of n bytes at a location. -/
def State.view (s : State) (va loc n : Nat) : OpView :=
  { va := va, loc := loc, mem := sliceOf s.mem loc n, bad := sliceOf s.poison (loc / 32) (n / 32 + 2) }

/-- The `len` bits from bit `pos` of an operand. -/
def OpView.bits (o : OpView) (pos len : Nat) : Nat :=
  bitsOf (bytesNat ((List.range ((len + 7) / 8)).map (fun i => o.mem.get 0 (o.loc + pos / 8 + i)))) (pos % 8) len

/-- The poison of the sector that holds a bit. -/
def OpView.poison (o : OpView) (pos : Nat) : Nat :=
  if o.bad.get false ((o.loc + pos / 8) / 32) then (o.va + pos / 8) / 32 * 32 + 1 else 0

/-- How an operand is laid out: format code, transposed layout, stride in bytes, depth in stored elements. -/
structure Layout where
  code : Nat
  trans : Bool
  stride : Nat
  depth : Nat
deriving DecidableEq, Repr

/-- Natural stride (R182). -/
def natStride (code : Nat) (trans : Bool) (depth : Nat) : Nat :=
  roundUp (if trans then 32 * (matBits code / 8) else (depth * matBits code + 7) / 8) 16

/-- Bytes of an operand with its scale words (R182, R183). -/
def Layout.bytes (l : Layout) : Nat :=
  if matFq l.code then 32 * l.stride + 4 * l.depth
  else if l.trans then (l.depth - 1) * l.stride + 32 * (matBits l.code / 8)
  else 31 * l.stride + (l.depth * matBits l.code + 7) / 8

/-- Bit offset of element k of run j. -/
def Layout.pos (l : Layout) (j k : Nat) : Nat :=
  if l.trans then 8 * (l.stride * k + j * (matBits l.code / 8)) else 8 * (l.stride * j) + k * matBits l.code

/-- Bit offset of the scale word of step st of run j (R183). -/
def Layout.scalePos (l : Layout) (j st : Nat) : Nat := 8 * (32 * l.stride + 4 * (l.depth / 32) * j + 4 * st)

/-- Element k of run j. -/
def OpView.elem (o : OpView) (l : Layout) (j k : Nat) : Elem :=
  let raw := o.bits (l.pos j k) (matBits l.code)
  { val := if matFq l.code then fqVal l.code (o.bits (l.scalePos j (k / 32)) 32) raw else matVal l.code raw
    bad := o.poison (l.pos j k) }

/-- The scale of step st of run j; 1.0 beside a format without scales (R185). -/
def OpView.scale (o : OpView) (l : Layout) (j st : Nat) : Elem :=
  if matFq l.code then
    { val := decodeF (fmtOf .bf16) (o.bits (l.scalePos j st) 32 % 65536), bad := o.poison (l.scalePos j st) }
  else { val := FNum.ofInt 1, bad := 0 }

/-- The location of an operand of n bytes: window, alignment, and `decode` of both ends (R184). DEDUCED, log 60. -/
def State.operandLoc (s : State) (a n : Nat) : Except Fail Nat :=
  let win := bitsOf a 72 8
  if tripleBad a ∨ (win ≠ 0xFD ∧ win ≠ 0xFE) then .error (.trap 0x06 0)
  else if a % 16 ≠ 0 then .error (.trap 0x0B 0)
  else match s.checkEnds a n 1 with
    | .error e => .error e
    | .ok (.spad core byte) => .ok (spadLoc core byte)
    | .ok _ => .error (.trap 0x06 0)

/-! ### Accumulation (R95 to R99) -/

/-- A step of a run: 32 elements, absent ones not selected (R98), and a scale. -/
structure MatStep where
  elems : List (Option Elem)
  scale : Elem
deriving DecidableEq, Repr

/-- The exact sum of the products of two steps, and the poison it meets. -/
def dotStep : List (Option Elem) → List (Option Elem) → FNum × Nat
  | some x :: xs, some y :: ys =>
    let r := dotStep xs ys
    (FNum.add .rne (FNum.mul x.val y.val) r.1, max (max x.bad y.bad) r.2)
  | _ :: xs, _ :: ys => dotStep xs ys
  | _, _ => (.fin false 0 0 false, 0)

/-- The integer of an exact sum. -/
def FNum.toInteger : FNum → Int
  | .fin s n e _ => if s then -(n * 2 ^ e.toNat : Nat) else (n * 2 ^ e.toNat : Nat)
  | _ => 0

/-- One step's update of an entry (R85, R96, R97, R99). DEDUCED, log 34. -/
def accumulate (int : Bool) (e : W32) (dot scale : FNum) : W32 :=
  if int then e + BitVec.ofInt 32 dot.toInteger
  else
    let x := FNum.mul dot scale
    if x.isZero then e
    else
      let r := roundF (fmtOf .f32) .rne 0 false (FNum.add .rne (decodeF (fmtOf .f32) e.toNat) x)
      if r % 2 ^ 31 = 0 then 0 else w32 r

/-- An entry after all steps, and the poison it meets. -/
def matEntry (int : Bool) : List MatStep → List MatStep → W32 → W32 × Nat
  | a :: as, b :: bs, e =>
    let d := dotStep a.elems b.elems
    let r := matEntry int as bs (accumulate int e d.1 (FNum.mul a.scale.val b.scale.val))
    (r.1, max (max d.2 (max a.scale.bad b.scale.bad)) r.2)
  | _, _, e => (e, 0)

/-- The 32 runs of an operand, step by step. -/
def OpView.runs (o : OpView) (l : Layout) : List (List MatStep) :=
  (List.range 32).map (fun j => (List.range (l.depth / 32)).map (fun st =>
    { elems := (List.range 32).map (fun i => some (o.elem l j (32 * st + i))), scale := o.scale l j st }))

/-- Core cycles that an operation of the matrix engine still takes (R7). -/
def State.matLeft (s : State) (m : MatOp) : Nat := m.cycles - s.coreCycles (dieOf m.core) m.since s.now

/-- The operation enters the core's engine and its tile is pending (R176, R180). DESIGN CHOICE, log 62. -/
def State.startMatrix (s : State) (t cyc : Nat) : State :=
  let core := s.g.core
  let before := ((s.matOps.filter (fun m => m.core == core)).map s.matLeft).foldl max 0
  let op : MatOp := { id := s.serial, core := core, gid := s.g.gid, slot := t, since := s.now, cycles := before + cyc }
  { s with serial := s.serial + 1, matOps := s.matOps ++ [op]
           g := { s.g with tilePend := s.g.tilePend.put 0 t op.id } }

/-- Multiply two operands' runs into slot t (R185). -/
def State.multiply (s : State) (t : Nat) (z int : Bool) (cyc : Nat) (ra rb : List (List MatStep)) : State :=
  let key := s.g.tileKey t
  let old := s.tileRaw key
  let bad := s.tilePoison key
  let pairs := ra.flatMap (fun a => rb.map (fun b => (a, b)))
  let res := pairs.mapIdx (fun n p =>
    let e := matEntry int p.1 p.2 (if z then 0 else old.getD n 0)
    if e.2 ≠ 0 ∨ (!z ∧ bad.getD n false) then (poisonWord int, true, e.2) else (e.1, false, 0))
  let s1 := if res.any (fun r => r.2.1) then
      s.matrixPoison t ((res.find? (fun r => r.2.2 != 0)).elim 0 (fun r => r.2.2 - 1))
    else s
  (s1.setTile key (res.map (fun r => r.1)) clean).startMatrix t cyc

/-! ### The format word (R179, R181) -/

/-- Fields of a format word. -/
structure FmtWord where
  fa : Nat
  fb : Nat
  at' : Bool
  bt : Bool
  sa : Nat
  sb : Nat
  high : Nat
deriving DecidableEq, Repr

def FmtWord.of (x : W32) : FmtWord :=
  { fa := bitsOf x.toNat 16 4, fb := bitsOf x.toNat 20 4, at' := bitOf x.toNat 24, bt := bitOf x.toNat 25
    sa := bitsOf x.toNat 0 8, sb := bitsOf x.toNat 8 8, high := bitsOf x.toNat 26 6 }

/-- The three multiply words. -/
inductive MatKind where
  | mma | mmau | mmas
deriving DecidableEq, Repr

/-- Depth of A's runs and of B's stored runs (R185, R187). -/
def FmtWord.depth (w : FmtWord) : Nat := min (matK w.fa) (matK w.fb)
def FmtWord.depthA (w : FmtWord) (k : MatKind) : Nat := if k = .mmas then 2 * w.depth else w.depth

/-- The first failing check of R181. -/
def FmtWord.check (w : FmtWord) (k : MatKind) : Option Nat :=
  if w.high ≠ 0 then some 1
  else if (w.at' && matPacked w.fa) || (w.bt && matPacked w.fb) then some 2
  else if (w.sa != 0 && 16 * w.sa < natStride w.fa w.at' (w.depthA k)) || (w.sb != 0 && 16 * w.sb < natStride w.fb w.bt w.depth)
    then some 3
  else if k = .mmas ∧ (w.bt ∨ matPacked w.fb) then some 4
  else if k = .mmau ∧ (w.at' ∨ w.sa ≠ 0 ∨ matPacked w.fa) then some 5
  else none

def FmtWord.layoutA (w : FmtWord) (k : MatKind) : Layout :=
  { code := w.fa, trans := w.at', depth := w.depthA k
    stride := if w.sa = 0 then natStride w.fa w.at' (w.depthA k) else 16 * w.sa }
def FmtWord.layoutB (w : FmtWord) : Layout :=
  { code := w.fb, trans := w.bt, depth := w.depth, stride := if w.sb = 0 then natStride w.fb w.bt w.depth else 16 * w.sb }

/-- The accumulator is INT32 (R95). -/
def FmtWord.int (w : FmtWord) : Bool := matInt w.fa && matInt w.fb

/-- Core cycles of an operation (R180). -/
def FmtWord.cycles (w : FmtWord) : Nat := if w.fa = 0 ∨ w.fb = 0 then 8 else 4

/-- The vote on the format word and its checks, then `k` (R181). -/
def State.withFormat (s : State) (f : FmtE) (kind : MatKind) (k : FmtWord → Res) : Res :=
  let act := s.g.active f.guard
  let word (L : Nat) : W32 := (s.g.lane L).vr f.c.toNat
  match act.find? (fun L => word L != word (act.headD 0)) with
  | some L => .trap s { cause := 0x14, detail := L, lane := none }
  | none =>
    let w := FmtWord.of (word (act.headD 0))
    match w.check kind with
    | some n => .trap s { cause := 0x15, detail := n, lane := none }
    | none => k w

/-! ### MMA (R185) -/

/-- MMA (R185). -/
def execMma (f : FmtE) (s : State) : Host.Outcome State Fault Refusal :=
  s.tileWord (.mma f) f.guard f.dst.toNat true (fun s => s.withFormat f .mma (fun w =>
    let la := w.layoutA .mma
    let lb := w.layoutB
    let a := s.g.wrN f.a.toNat 3
    let b := s.g.wrN f.b.toNat 3
    match s.operandLoc a la.bytes with
    | .error e => failRes s none e
    | .ok pa => match s.operandLoc b lb.bytes with
      | .error e => failRes s none e
      | .ok pb => .done (s.multiply f.dst.toNat (f.imm.getLsbD 0) w.int w.cycles ((s.view a pa la.bytes).runs la)
          ((s.view b pb lb.bytes).runs lb))))

/-! ### MMAS (R187 to R189) -/

/-- The positions group g of column c keeps, and whether its metadata is valid (R188). -/
def sparseGroup (o : OpView) (base ks : Nat) (wide : Bool) (c g : Nat) : List Nat × Bool :=
  let at0 := base + ks / 4 * c
  let pos := if wide then
      let x := o.bits (8 * (at0 + 2 * g)) 16
      ([bitsOf x 0 3, bitsOf x 3 3, bitsOf x 6 3, bitsOf x 9 3], bitsOf x 12 4)
    else
      let x := o.bits (8 * (at0 + g)) 8
      ([bitsOf x 0 2, bitsOf x 2 2], bitsOf x 4 4)
  (pos.1, pos.2 == 0 && pos.1.eraseDups.length == pos.1.length)

/-- Column c of a compressed operand over its logical rows (R188, R189). -/
def sparseColumn (o : OpView) (l : Layout) (base ks : Nat) (wide : Bool) (c : Nat) : List MatStep :=
  let m := if wide then 8 else 4
  let meta0 (k : Nat) : Nat := 8 * (base + ks / 4 * c + k / m * (if wide then 2 else 1))
  let elem (k : Nat) : Option Elem :=
    ((sparseGroup o base ks wide c (k / m)).1.findIdx? (fun p => p == k % m)).map (fun j =>
      let e := o.elem l c (m / 2 * (k / m) + j)
      { e with bad := max e.bad (o.poison (meta0 k)) })
  (List.range (ks / 32)).map (fun st =>
    { elems := (List.range 32).map (fun i => elem (32 * st + i)), scale := { val := FNum.ofInt 1, bad := 0 } })

/-- MMAS (R187 to R189). -/
def execMmas (f : FmtE) (s : State) : Host.Outcome State Fault Refusal :=
  s.tileWord (.mmas f) f.guard f.dst.toNat true (fun s => s.withFormat f .mmas (fun w =>
    let la := w.layoutA .mmas
    let lb := w.layoutB
    let ks := la.depth
    let wide := f.imm.getLsbD 1
    let a := s.g.wrN f.a.toNat 3
    let b := s.g.wrN f.b.toNat 3
    let base := 32 * lb.stride
    let nb := base + 8 * ks
    match s.operandLoc a la.bytes with
    | .error e => failRes s none e
    | .ok pa => match s.operandLoc b nb with
      | .error e => failRes s none e
      | .ok pb =>
        let o := s.view b pb nb
        let groups := ks / (if wide then 8 else 4)
        match ((List.range 32).flatMap (fun c => (List.range groups).map (fun g => (c, g)))).find?
            (fun x => !(sparseGroup o base ks wide x.1 x.2).2) with
        | some (c, g) => .trap s { cause := 0x16, detail := 32 * g + c, lane := none }
        | none => .done (s.multiply f.dst.toNat (f.imm.getLsbD 0) w.int w.cycles ((s.view a pa la.bytes).runs la)
            ((List.range 32).map (sparseColumn o lb base ks wide)))))

/-! ### Unfolding (R190 to R192) -/

/-- An unfold descriptor (R190). -/
structure Unfold where
  base : Nat
  ch : Nat
  ih : Nat
  iw : Nat
  oh : Nat
  ow : Nat
  w5 : Nat
  p0 : Nat
  k0 : Nat
deriving DecidableEq, Repr

/-- The descriptor in eight 32-bit words. -/
def Unfold.of (w : Nat → Nat) : Unfold :=
  { base := w 0 + w 1 * 2 ^ 32 + w 2 % 65536 * 2 ^ 64, ch := w 2 / 65536, ih := w 3 % 65536, iw := w 3 / 65536
    oh := w 4 % 65536, ow := w 4 / 65536, w5 := w 5, p0 := w 6, k0 := w 7 }

/-- A valid descriptor (R190). -/
def Unfold.valid (u : Unfold) : Bool :=
  (bitsOf u.base 72 8 == 0xFD || bitsOf u.base 72 8 == 0xFE) && u.base % 16 == 0 && u.ch != 0 && u.iw != 0 && u.ih != 0
    && u.ow != 0 && u.oh != 0 && u.k0 % 32 == 0

/-- The activation element an unfolded position names (R192): its index, or padding. -/
def Unfold.index (u : Unfold) (i k : Nat) : Option Nat :=
  let fld (lo : Nat) : Nat := bitsOf u.w5 lo 4
  let p := u.p0 + i
  let q := u.k0 + k
  let kh := fld 0
  let kw := fld 4
  if u.oh * u.ow ≤ p ∨ (kh + 1) * (kw + 1) * u.ch ≤ q then none
  else
    let oy := p / u.ow
    let ox := p % u.ow
    let ch := q % u.ch
    let kx := q / u.ch % (kw + 1)
    let ky := q / (u.ch * (kw + 1))
    let y : Int := (oy * (fld 8 + 1) + ky * (fld 16 + 1) : Nat) - (fld 24 : Int)
    let x : Int := (ox * (fld 12 + 1) + kx * (fld 20 + 1) : Nat) - (fld 28 : Int)
    if y < 0 ∨ (u.ih : Int) ≤ y ∨ x < 0 ∨ (u.iw : Int) ≤ x then none
    else some ((y.toNat * u.iw + x.toNat) * u.ch + ch)

/-- Bytes of the activation tensor. -/
def Unfold.bytes (u : Unfold) (code : Nat) : Nat := u.ih * u.iw * u.ch * (matBits code / 8)

/-- The unfolded rows of A (R192). -/
def Unfold.runs (u : Unfold) (o : OpView) (code depth : Nat) : List (List MatStep) :=
  let elem (i k : Nat) : Elem := match u.index i k with
    | none => { val := FNum.ofInt 0, bad := 0 }
    | some n => { val := matVal code (o.bits (n * matBits code) (matBits code)), bad := o.poison (n * matBits code) }
  (List.range 32).map (fun i => (List.range (depth / 32)).map (fun st =>
    { elems := (List.range 32).map (fun k => some (elem i (32 * st + k))), scale := { val := FNum.ofInt 1, bad := 0 } }))

/-- UDESC (R191). -/
def execUdesc (f : FmtE) (s : State) : Host.Outcome State Fault Refusal :=
  s.word (.udesc f) f.guard (fun s =>
    match s.uniformAddr f.a.toNat with
    | .error e => failRes s none e
    | .ok a => match s.checkAccess (s.g.uniThread f.guard) .read a 32 16 with
      | .error e => failRes s none e
      | .ok ps =>
        if s.ownWriteWaits (s.g.threads f.guard) ps then .stall s .result
        else match s.askAll (readAsks 32 ps) (fun _ => true) with
          | .wait s1 => .stall s1 .result
          | .fail _ e => failRes s none e
          | .all =>
            let s1 := s.touchAll s.g.asid false ps
            let x := bytesNat (s1.gather 32 ps)
            if (Unfold.of (fun j => bitsOf x (32 * j) 32)).valid then .done { s1 with g := s1.g.wwN f.dst.toNat 8 x }
            else .trap s1 { cause := 0x17, detail := 0, lane := none })

/-- MMAU (R192). -/
def execMmau (f : FmtE) (s : State) : Host.Outcome State Fault Refusal :=
  s.tileWord (.mmau f) f.guard f.dst.toNat true (fun s => s.withFormat f .mmau (fun w =>
    let u := Unfold.of (fun j => (s.g.wr (f.a.toNat + j)).toNat)
    let lb := w.layoutB
    let b := s.g.wrN f.b.toNat 3
    if !u.valid then .trap s { cause := 0x17, detail := 0, lane := none }
    else match s.operandLoc u.base (u.bytes w.fa) with
      | .error e => failRes s none e
      | .ok pa => match s.operandLoc b lb.bytes with
        | .error e => failRes s none e
        | .ok pb => .done (s.multiply f.dst.toNat (f.imm.getLsbD 0) w.int w.cycles
            (u.runs (s.view u.base pa (u.bytes w.fa)) w.fa w.depth) ((s.view b pb lb.bytes).runs lb))))

/-! ### The end of an operation (R176) -/

/-- MATRIX_OP_COMPLETE (R176): its tile stops pending, in its group and in the records that wait for it (R264). -/
def execMatrixOpComplete (op : Nat) (s : State) : Host.Outcome State Fault Refusal :=
  .next (match s.matOps.find? (fun m => m.id == op) with
    | none => s
    | some m =>
      if s.matLeft m ≠ 0 then s
      else
        let owner : Option Nat := match s.groups.find? (fun g => g.tilePend.any (fun x => x.2 == op)) with
          | some g => some g.asid
          | none => (s.records.find? (fun r => r.tileSerials.contains op)).map (fun r => r.asid)
        let s1 := { s with matOps := s.matOps.filter (fun x => x.id != op) }.mapRecs
          (fun (r : Rec) => { r with tileSerials := r.tileSerials.filter (fun n => n != op) })
        let s2 := (s1.mapGroups (fun g => { g with tilePend := g.tilePend.filter (fun x => x.2 != op) })).settle
        match owner with
        | some a => s2.progress a
        | none => s2)

end Sys2Proof.Machine
end

