-- ==== Sys2Proof/Machine/Switch.lean ====
section
/-! DEFINITION. The switch of a context out of the device and back (R376, R382 to R385). -/

namespace Sys2Proof.Machine

/-! ### Out -/

/-- SWITCH_OUT (R369, R382): its first steps; the status follows with the last. -/
def execSwitchOut (cmd : MbxCmd) (asid : Nat) (s : State) : Host.Outcome State Fault Refusal :=
  s.command cmd (fun s =>
    let c := s.ctx asid
    if c.state = .off ∨ c.mbx.isSome then s.replyOpen cmd
    else if c.state = .out then s.reply cmd 0 0
    else (s.setCtx asid { c with mbx := some cmd }).beginSwitch asid)

/-- Rounds in flight on a context's mesh channels complete at once with the inputs that have arrived (R227, R382). -/
def State.flushMesh (s : State) (asid : Nat) : State :=
  { s with channels := s.channels.map (fun (x : Nat × Channel) => (x.1, if x.2.opened && x.2.asid == asid then x.2.flush else x.2)) }

/-- Steps 1 to 3 of R382 are over for a context. -/
def State.switchReady (s : State) (asid : Nat) : Bool :=
  (s.ctx asid).state == .switching && !s.groups.any (fun g => g.gid != 0 && g.asid == asid)
    && s.records.all (fun r => r.asid != asid || (r.tileSerials.isEmpty && r.durable))
    && !s.maintOps.any (fun o => o.asid == asid)

/-- A slot that could not be flushed is empty in the records that carry its handle (R401). -/
def State.clearSlot (s : State) (k : KeptTile) (t : Nat) : State :=
  let hit (r : Rec) : Bool := r.core == k.core && r.asid == k.asid && r.handles.get noMeeting t == k.handle
  let clear (r : Rec) : Rec := { r with klive := r.klive &&& ~~~(1#16 <<< t) }
  { s with records := updWhere hit clear s.records }

/-- Flush one kept tile of a record at a switch: whether the switch may go on, and the state. -/
def State.flushOut (s : State) (r : Rec) (t : Nat) (k : KeptTile) : Bool × State :=
  let drop (s : State) : State := { s with kept := s.kept.filter (fun x => x != k) }
  if !r.klive.getLsbD t then (true, s)
  else match s.flushKept k t with
    | (.done, s1) => (true, drop s1)
    | (.waits, s1) => (false, s1)
    | (.violation, s1) => (true, drop (s1.clearSlot k t))

/-- Flush the bound tiles of a context's records (step 5 of R382). -/
def State.flushAllOut (s : State) (asid : Nat) : Bool × State :=
  (s.records.filter (fun r => r.asid == asid)).foldl (fun x r =>
    if x.1 then (x.2.keptOf r).foldl (fun y tk => if y.1 then y.2.flushOut r tk.1 tk.2 else y) x else x) (true, s)

/-- The 64 bytes of a trap frame (R376), with ACTION as it stands at first. -/
def TrapFrame.toNat (f : TrapFrame) : Nat :=
  f.rid0 % 2 ^ 64 * 2 ^ 448 + f.nrec % 256 * 2 ^ 440 + (if f.nested then 2 else 0) * 2 ^ 432 + f.pc.toNat * 2 ^ 400
    + f.wix % 16 * 2 ^ 396 + f.cause % 2 ^ 16 * 2 ^ 368 + f.detail.toNat * 2 ^ 336
    + (if f.nested then f.origCause % 2 ^ 16 * 2 ^ 320 + f.origPc.toNat * 2 ^ 288 + f.origWix % 16 * 2 ^ 284 + 2 ^ 283 else 0)

/-- The save directory: the trap frames, in order (R376, R382). DEDUCED, log 107. -/
def State.writeFrames (s : State) (asid : Nat) : State :=
  let c := s.ctx asid
  (List.range c.frames.length).foldl (fun s i => match c.frames[i]? with
    | some f => s.vPoke asid (c.poolBase.toNat + 64 * i) (natBytes 64 f.toNat)
    | none => s) s

/-- Steps 4 to 8 of R382, once the bound tiles are flushed. -/
def State.finishOut (s : State) (asid : Nat) : State :=
  let s1 : State := { s with
    kept := s.kept.filter (fun k => k.asid != asid)
    blocks := s.blocks.map (fun (b : Block) => if b.asid == asid then s.saveBlock b else b)
    reserved := s.reserved.filter (fun r => r.asid != asid) }
  let s2 := s1.writeFrames asid
  let c := s2.ctx asid
  let s3 := (s2.setCtx asid { c with state := .out, mbx := none }).trace 0 0 asid 8 0 c.poolBase.toNat
  let last := !s3.ctxs.any (fun x => x.2.state == .running || x.2.state == .switching)
  let s4 := if last then s3.flushWear else s3
  match c.mbx with
  | some m => s4.reply m 0 0
  | none => s4

/-- SWITCH_OUT_DONE (R382). -/
def execSwitchOutDone (asid : Nat) (s : State) : Host.Outcome State Fault Refusal :=
  .next (
    if s.switchReady asid then
      let s1 := ((s.flushMesh asid).drainWcb (fun e => e.asid == asid)).setCtx asid { s.ctx asid with pins := [] }
      match s1.flushAllOut asid with
      | (true, s2) => s2.finishOut asid
      | (false, s2) => s2
    else s)

/-! ### In -/

/-- SWITCH_IN (R369, R385): status 5 where no saved state is there; otherwise the command waits for room. -/
def execSwitchIn (cmd : MbxCmd) (asid : Nat) (s : State) : Host.Outcome State Fault Refusal :=
  s.command cmd (fun s =>
    let c := s.ctx asid
    if c.state ≠ .out then s.reply cmd 5 0
    else if c.mbx.isSome then s.replyOpen cmd
    else s.setCtx asid { c with mbx := some cmd })

/-- The saved blocks of a context, in order. -/
def State.savedBlocks (s : State) (asid : Nat) : List Block := s.blocks.filter (fun b => b.asid == asid && b.saved)

/-- Blocks of one gang. -/
def Block.mates (a b : Block) : Bool :=
  a.asid == b.asid && a.launch == b.launch && a.gang == b.gang && a.num + b.gangIndex == b.num + a.gangIndex

/-- A saved block may go to a core (R385): its former core, or another live core of the die where a former core of its gang
is not live; there is a run of scratchpad and room for its hash tables. -/
def State.mayRestore (s : State) (all : List (Block × Nat)) (b : Block) (core : Nat) : Bool :=
  let gang := all.filter (fun x => x.1.mates b)
  s.coreLive core && (s.part (s.ctx b.asid).part).mask.getLsbD core && dieOf core == dieOf b.core
    && (core == b.core || gang.any (fun x => !s.coreLive x.1.core))
    && gang.all (fun x => x.2 / 4 == core / 4 && (decide (x.1.gangIndex < b.gangIndex) == decide (x.2 < core)))
    && (s.spadFind core b.spadSize).isSome && decide (s.claims core + b.claims ≤ Config.hashClaimBytes)

/-- A block with its image, records and engine operations takes its place again. -/
def State.restoreBlock (s : State) (all : List (Block × Nat)) (b : Block) (core : Nat) : State :=
  let base := (s.spadFind core b.spadSize).getD 0
  let a := spadLoc core base
  let cores := b.gangCores.map (fun c => match all.find? (fun x => x.1.mates b && x.1.core == c) with
    | some x => x.2
    | none => c)
  let nb := { b with core := core, spadBase := base, saved := false, image := [], imagePoison := [], gangCores := cores }
  let mine (asid launch num : Nat) : Bool := asid == b.asid && launch == b.launch && num == b.num
  { s with
    mem := overlayOf 0 s.mem a b.spadSize (b.image.map (fun c => (c.1 + a, c.2)))
    poison := overlayOf false s.poison (a / 32) (b.spadSize / 32) (b.imagePoison.map (fun c => (c.1 + a / 32, c.2)))
    blocks := updWhere (fun c => c.is b.asid b.launch b.num) (fun _ => nb) s.blocks
    records := s.records.map (fun r => if mine r.asid r.launch r.block then (r.rekey b core base).toCore core else r)
    engOps := s.engOps.map (fun (o : EngOp) => if mine o.asid o.launch o.block then { o with core := core } else o) }

/-- Restore blocks one after another; none where a core has no room. -/
def State.restoreBlocks (all : List (Block × Nat)) : List (Block × Nat) → State → Option State
  | [], s => some s
  | (b, core) :: rest, s =>
    if s.mayRestore all b core then State.restoreBlocks all rest (s.restoreBlock all b core) else none

/-- A record whose lanes at a trapping word go past it (R376). -/
def Rec.skipped (r : Rec) (f : TrapFrame) (binKey : W32 → BitVec 16) : Rec :=
  let hit (j : Nat) : Bool := r.live.getLsbD j && r.lstate.getD j 0 == 1 && r.lpcs.getD j 0 == f.pc && r.wix == f.wix
  let applied : BitVec 4 := r.applied &&& ~~~(maskOf 4 (below 4 hit))
  if f.wix + 1 < f.words then
    if (List.range 4).any hit then { r with wix := r.wix + 1, applied := applied } else r
  else
    let lpcs := (List.range 4).map (fun j => if hit j then f.after else r.lpcs.getD j 0)
    let lstate := (List.range 4).map (fun j => if hit j then 0 else r.lstate.getD j 0)
    let low := (below 4 (fun j => r.live.getLsbD j)).headD 0
    let all := (List.range 4).map (fun j => if r.helper.getLsbD j then lpcs.getD low 0 else lpcs.getD j 0)
    let runs := below 4 (fun j => r.live.getLsbD j && decide (lstate.getD j 0 < 2))
    let rpc := if runs.isEmpty then r.rpc
      else runs.foldl (fun m j => if (lpcs.getD j 0).toNat < m.toNat then lpcs.getD j 0 else m) noMeeting
    { r with lpcs := all, lstate := lstate, applied := applied, rpc := rpc, binKey := binKey rpc
             wix := if lstate.any (· == 1) then r.wix else 0 }

/-- ACTION of trap frame i as the save directory holds it; a nested frame reads 2, and 3 is treated as 2 (R376). -/
def State.frameAction (s : State) (asid i : Nat) (f : TrapFrame) : Nat :=
  if f.nested then 2 else min 2 (bitsOf (s.vPeekN asid ((s.ctx asid).poolBase.toNat + 64 * i) 64) 432 2)

/-- Apply the action of trap frame i to its records (R376). -/
def State.applyFrame (s : State) (asid i : Nat) (f : TrapFrame) : State :=
  let c := s.ctx asid
  let mine (r : Rec) : Bool := r.asid == asid && r.frame == some i
  let free (r : Rec) : Rec := { r with frame := none }
  match s.frameAction asid i f with
  | 0 => { s with records := updWhere mine free s.records }
  | 1 =>
    let key (pc : W32) : BitVec 16 := (c.segOf pc).elim 0 (fun x => x.binKey)
    { s with records := updWhere mine (fun r => free (r.skipped f key)) s.records }
  | _ =>
    let gone := s.records.filter mine
    let s1 := { s with records := s.records.filter (fun r => !mine r) }
    ((gone.map (fun r => r.launch)).eraseDups).foldl (fun s l => s.endBlocks asid l) s1

/-- Apply every trap frame of a context, in order. -/
def State.applyFrames (s : State) (asid : Nat) : State :=
  let fs := (s.ctx asid).frames
  let s1 := (List.range fs.length).foldl (fun s i => match fs[i]? with
    | some f => s.applyFrame asid i f
    | none => s) s
  s1.setCtx asid { s1.ctx asid with frames := [] }

/-- The queues of a context return to their saved states (R335, R385). -/
def State.resumeQueues (s : State) (asid : Nat) : State :=
  let back (x : WorkQueue) : WorkQueue :=
    if x.asid == asid && x.state == .paused then { x with state := x.saved, saved := .off } else x
  let s1 := { s with queues := s.queues.map (fun (x : Nat × WorkQueue) => (x.1, back x.2)) }
  (s1.queues.filter (fun x => x.2.asid == asid)).foldl (fun s x => s.settleQueue x.1) s1

/-- Suspended operations whose core is no longer enabled go on on another enabled core of its die (R212). -/
def State.rehome (s : State) (asid : Nat) : State :=
  let other (core : Nat) : Nat :=
    let l := below 64 (fun i => s.coreLive (64 * dieOf core + i))
    let mine := l.filter (fun i => (s.part (s.ctx asid).part).mask.getLsbD (64 * dieOf core + i))
    match mine ++ l with
    | i :: _ => 64 * dieOf core + i
    | [] => core
  { s with engOps := updWhere (fun (o : EngOp) => o.asid == asid && !s.coreLive o.core) (fun o => { o with core := other o.core }) s.engOps }

/-- SWITCH_IN_DONE (R385): the saved blocks go to the cores of `place`, in their order. -/
def execSwitchInDone (asid : Nat) (place : List Nat) (s : State) : Host.Outcome State Fault Refusal :=
  .next (
    let c := s.ctx asid
    let bs := s.savedBlocks asid
    match c.state, c.mbx with
    | .out, some m =>
      if place.length ≠ bs.length then s
      else match State.restoreBlocks (bs.zip place) (bs.zip place) s with
        | none => s
        | some s1 =>
          let s2 := s1.setCtx asid { s1.ctx asid with state := .running, mbx := none }
          let s3 := (s2.rehome asid).applyFrames asid
          let rebuilt (r : Rec) : Rec := if r.asid == asid then { r with readyAt := none, due := false } else r
          let s4 := ({ s3 with records := s3.records.map rebuilt }.settle).joinVt asid
          ((s4.resumeQueues asid).trace 0 0 asid 8 1 c.poolBase.toNat).reply m 0 0
    | _, _ => s)

end Sys2Proof.Machine
end

