-- ==== Sys2Proof/Machine/Registers.lean ====
section
/-! DEFINITION. The host's side of the device (R368): the device registers (R8, R9), the block-transfer aperture (R217),
and local memory through BAR4 (R307). -/

namespace Sys2Proof.Machine

/-! ### Registers: where they lie

A register is named by function × 2^30 + its offset in BAR0; the numbers from 2^34 on are the model's own, for registers
whose address the spec does not give. -/

/-- Function and offset of a register number. -/
def regFn (r : Nat) : Nat := r / 2 ^ 30
def regOff (r : Nat) : Nat := r % 2 ^ 30

/-- A register number in the model's own range: the migration engine of a tier, register j of it (R327). -/
def migReg (tier j : Nat) : Nat := 2 ^ 34 + 64 * tier + 8 * j
/-- The endpoint the supervisor expects on a port (R367). -/
def expectReg (port : Nat) : Nat := 2 ^ 34 + 4096 + 8 * port

/-- Index of an offset in a table of n entries of `step` bytes from `base`, with the offset within the entry. -/
def inTable (off base step n : Nat) : Option (Nat × Nat) :=
  if base ≤ off ∧ off < base + step * n then some ((off - base) / step, (off - base) % step) else none

/-- Mask of the fields of a register; the others are reserved, and a write of them is ignored (R9). -/
def keepBits (v mask : W64) : W64 := v &&& mask

/-! ### Writes -/

/-- A write of MBX_REQ (R369): ignored and counted while a command runs. -/
def State.writeMbx (s : State) (fn : Nat) (v : W64) : State :=
  let m := s.mailbox fn
  if !s.boot.ready then s
  else if m.req.isSome then { s with mbx := s.mbx.put Mailbox.idle fn { m with ignored := min (2 ^ 32 - 1) (m.ignored + 1) } }
  else { s with mbx := s.mbx.put Mailbox.idle fn { m with req := some (v.toNat / 64 * 64), done := false } }

/-- A write in a partition's block (R342). DEDUCED, log 110. -/
def State.writePart (s : State) (p o : Nat) (v : W64) : State :=
  let x := s.part p
  if o < 0x20 ∧ o % 8 = 0 then
    let hole : BitVec 256 := BitVec.ofNat 256 ((2 ^ 64 - 1) * 2 ^ (8 * o))
    s.setPart p { x with mask := (x.mask &&& ~~~hole) ||| BitVec.ofNat 256 (v.toNat * 2 ^ (8 * o)) }
  else if o = 0x20 then
    s.setPart p { x with pmWindow := bitsOf v.toNat 32 32, ageStep := bitsOf v.toNat 16 16, wcbAge := bitsOf v.toNat 0 16 }
  else if o = 0x28 then (if v.getLsbD 2 then s.unfreeze p else s)
  else s

/-- A write of FAB_CTL (R363): ignored as a whole where it would break the bounds of its timers. -/
def State.writeFabCtl (s : State) (v : W64) : State :=
  let x := keepBits v 0x0000FFFFFFFFFFFF#64
  if tLostUs x < 2 * pktLifeUs x ∨ tKeepUs x < 3 * tLostUs x + pktLifeUs x then s else { s with fabCtl := x }

/-- FAB_CTL_WRITE (R363). -/
def execFabCtlWrite (v : W64) (s : State) : Host.Outcome State Fault Refusal := .next (s.writeFabCtl v)

/-- A write of a die's soft-error counters (R381): CE_TH, or the two counts, which any write clears. -/
def State.writeErr (s : State) (die o : Nat) (v : W64) : State :=
  let c := s.errs.get ErrCount.zero die
  if o = 0 then { s with errs := s.errs.put ErrCount.zero die { c with ceTh := bitsOf v.toNat 32 32 } }
  else if o = 8 then { s with errs := s.errs.put ErrCount.zero die { c with ce := 0, ue := 0 } }
  else s

/-- A write of a range entry's doubleword (R354). -/
def State.writeRange (s : State) (i : Nat) (v : W64) : State :=
  let mask := if i % 2 = 0 then 0xFFFFFFFFF000000F#64 else 0xFFFF000FFFFFFFFF#64
  { s with ranges := s.ranges.put 0 i (keepBits v mask) }

/-- A write of register j of a migration engine (R327); MIG_NEXT lists tiers in fields of 4 bits, ended by 0xF. -/
def State.writeMig (s : State) (tier j : Nat) (v : W64) : State :=
  let m := s.mig tier
  let n := v.toNat
  match j with
  | 0 => s.setMig tier { m with freeList := n }
  | 1 => s.setMig tier { m with free := n }
  | 2 => s.setMig tier { m with low := n }
  | 3 => s.setMig tier { m with high := n }
  | 4 => s.setMig tier { m with next := ((List.range 16).map (fun i => bitsOf n (4 * i) 4)).takeWhile (· != 15) }
  | 5 => s.setMig tier { m with promoteHits := n }
  | _ => s

/-- A function sees a queue: function 0 every one, function k those of partition k − 1 (R368). -/
def State.seesQueue (s : State) (fn q : Nat) : Bool := fn == 0 || (s.ctx (s.queue q).asid).part + 1 == fn

/-- A write that only function 0 may make. DEDUCED, log 111. -/
def State.writeOwn (s : State) (o : Nat) (v : W64) : State :=
  match inTable o 0x100000 32 1, inTable o 0x200000 0x100 8, inTable o 0x400000 16 4, inTable o 0x600000 0x40 4
      , inTable o 0x30000000 8 131072 with
  | some (_, 0), _, _, _, _ => { s with tlbiLo := v }
  | some (_, 8), _, _, _, _ => { s with tlbiHi := keepBits v 0xFFFF#64 }
  | some (_, 16), _, _, _, _ => { s with tlbiLen := v }
  | some (_, 24), _, _, _, _ => s.writeTlbi v
  | _, some (p, x), _, _, _ => s.writePart p x v
  | _, _, some (d, x), _, _ => s.writeErr d x v
  | _, _, _, some (d, x), _ => if x < 0x20 ∧ x % 8 = 0 then { s with devRegs := s.devRegs.put 0 (traceReg d (x / 8)) v } else s
  | _, _, _, _, some (i, 0) => s.writeRange i v
  | _, _, _, _, _ =>
    if o = 0x300000 then s.writeFabCtl v
    else if o = 0x508008 then { s with devRead := v.toNat }
    else if o = 0x700008 then (if v.getLsbD 0 && s.boot.power then s.retryStart else s)
    else s

/-- A write to a register (R368); a write to a register that cannot be written is ignored (R8). -/
def State.writeReg (s : State) (r : Nat) (v : W64) : State :=
  let fn := regFn r
  let o := regOff r
  if !s.boot.power then s
  else if 2 ^ 34 ≤ r then
    match inTable r (2 ^ 34) 64 6, inTable r (2 ^ 34 + 4096) 8 16 with
    | some (t, x), _ => s.writeMig t (x / 8) v
    | _, some (p, _) => s.withPort p { s.port p with expected := if v.toNat < 1024 then some v.toNat else none }
    | _, _ => s
  else if 8 < fn then s
  else if o = 0x8000 then s.writeMbx fn v
  else match inTable o 0x10000000 8 Config.workQueues with
    | some (q, 0) => if s.boot.ready && s.seesQueue fn q then s.doorbell q (w32 v.toNat) else s
    | _ => if fn = 0 then s.writeOwn o v else s

/-- REGISTER_WRITE (R8, R9). -/
def execRegisterWrite (reg : Nat) (v : W64) (s : State) : Host.Outcome State Fault Refusal := .next (s.writeReg reg v)

/-! ### Reads -/

/-- Doubleword i of a list of bytes. -/
def dwordAt (l : List Byte) (i : Nat) : Nat := bytesNat ((l.drop (8 * i)).take 8)

/-- The bytes of the identity block (R394). -/
def State.identBytes (s : State) : List Byte :=
  natBytes 8 s.flash.partNo ++ natBytes 8 s.flash.serial.toNat ++ s.ident.defectMap ++ List.replicate 8 0
    ++ natBytes 8 s.ident.signature ++ fit 32 s.flash.fwDigest ++ natBytes 32 s.ident.coreLive.toNat

/-- The four doublewords of a wear block (R398). -/
def Wear.dword (w : Wear) (i : Nat) : Nat :=
  match i with
  | 0 => w.updates
  | 1 => w.starts + w.therm * 2 ^ 32
  | 2 => w.secLo + w.secHi * 2 ^ 32
  | _ => w.retrain

/-- The four doublewords of a slot's receiver state (R357); a counter's SEQ reads 0 until the counters have been given their
spans. DEDUCED, log 142. -/
def RecvState.dword (x : RecvState) (i : Nat) : Nat :=
  let cnt (k : Nat) : Nat :=
    (if x.begun then (x.current + BitVec.ofNat 8 k).toNat else 0) * 2 ^ 24 + (x.counter k).count % 2 ^ 24
  match i with
  | 0 => x.lastDone.toNat * 2 ^ 56 + x.gen.toNat * 2 ^ 54 + x.state % 4 * 2 ^ 52 + x.replays % 4 * 2 ^ 50
  | 1 => (maskOf 32 (below 4 (fun k => (x.counter k).flag.isSome))).toNat * 2 ^ 32
  | 2 => cnt 0 + cnt 1 * 2 ^ 32
  | _ => cnt 2 + cnt 3 * 2 ^ 32

/-- The newest entry of a ring of n whose place is i. -/
def ringEntry {α : Type} (l : List α) (n i : Nat) : Option α :=
  if i < l.length then l[i + (l.length - 1 - i) / n * n]? else none

/-- A read in a partition's block (R342). -/
def State.readPart (s : State) (p o : Nat) : Nat :=
  let x := s.part p
  if o < 0x20 then bitsOf x.mask.toNat (8 * o) 64
  else if o = 0x20 then x.pmWindow % 2 ^ 32 * 2 ^ 32 + x.ageStep % 65536 * 65536 + x.wcbAge % 65536
  else if o = 0x28 then x.stallTs % 2 ^ 56 * 256 + (if x.frozen then 4 else 0) + s.partState p
  else 0

/-- A read of a die's soft-error counters (R381). -/
def State.readErr (s : State) (die o : Nat) : Nat :=
  let c := s.errs.get ErrCount.zero die
  if o = 0 then c.ceTh * 2 ^ 32 else c.ce + c.ue * 2 ^ 32

/-- A doubleword of the protection log (R354): its entries hold the timestamp, then source, domain context and class, then
the address. -/
def State.readProt (s : State) (i o : Nat) : Nat :=
  match ringEntry s.protLog 256 i with
  | none => 0
  | some e => if o = 0 then e.ts else if o = 8 then e.src + e.dctx.toNat * 2 ^ 16 + e.cls * 2 ^ 32 else if o = 16 then e.addr else 0

/-- Register j of a migration engine (R327). -/
def Migrate.dword (m : Migrate) (j : Nat) : Nat :=
  match j with
  | 0 => m.freeList
  | 1 => m.free
  | 2 => m.low
  | 3 => m.high
  | 4 => (m.next ++ List.replicate 16 15).take 16 |>.foldr (fun t n => t + 16 * n) 0
  | _ => m.promoteHits

/-- The first of a list of answers. -/
def orElseList : List (Option Nat) → Option Nat
  | [] => none
  | some x :: _ => some x
  | none :: l => orElseList l

/-- What a register of function 0 reads as; none where the spec gives no register there. -/
def State.readOwn (s : State) (o : Nat) : Option Nat :=
  let at_ (base step n : Nat) (f : Nat → Nat → Nat) : Option Nat := (inTable o base step n).map (fun x => f x.1 x.2)
  let one (a x : Nat) : Option Nat := if o = a then some x else none
  orElseList
    [ one 0x100000 s.tlbiLo.toNat, one 0x100008 s.tlbiHi.toNat, one 0x100010 s.tlbiLen.toNat, one 0x100018 s.tlbiCtl.toNat
    , at_ 0x200000 0x100 8 s.readPart, one 0x300000 s.fabCtl.toNat, at_ 0x400000 16 4 s.readErr
    , at_ 0x500000 128 256 (fun i x => match ringEntry s.devFaults 256 i with
        | some f => (f.words.getD (x / 8) 0) % 2 ^ 64
        | none => 0)
    , one 0x508000 s.devFaults.length, one 0x508008 s.devRead
    , at_ 0x600000 0x40 4 (fun d x => (s.devRegs.get 0 (traceReg d (x / 8))).toNat)
    , one 0x700000 s.bootStat, one 0x700008 0
    , at_ 0x800000 0x20 12 (fun u x => (s.wear.get Wear.zero u).dword (x / 8))
    , at_ 0x900000 0x88 1 (fun _ x => dwordAt s.identBytes (x / 8))
    , at_ 0x30000000 8 131072 (fun i _ => (s.ranges.get 0 i).toNat)
    , at_ 0x30100000 8 16384 (fun i _ => bytesNat ((List.range 4).flatMap (fun k => natBytes 2 (s.owners.get 0xFFFF#16 (4 * i + k)).toNat)))
    , at_ 0x30200000 32 256 s.readProt
    , at_ 0x31000000 32 65536 (fun i x => (s.recvs.get RecvState.init i).dword (x / 8)) ]

/-- What a register reads as; none where the spec gives none there, or none that the function sees.
DESIGN CHOICE, log 94. -/
def State.readReg (s : State) (r : Nat) : Option Nat :=
  let m := s.mailbox (regFn r)
  if 2 ^ 34 ≤ r then
    match inTable r (2 ^ 34) 64 6, inTable r (2 ^ 34 + 4096) 8 16 with
    | some (t, x), _ => some ((s.mig t).dword (x / 8))
    | _, some (p, _) => some ((s.port p).expected.getD 1024)
    | _, _ => none
  else if regOff r = 0x8000 then some (m.req.getD 0)
  else if regOff r = 0x8008 then some ((if m.done then 1 else 0) + m.ignored * 2 ^ 32)
  else if regFn r = 0 then s.readOwn (regOff r)
  else none

/-! ### The block-transfer aperture (R217) -/

/-- A window that a copy started through the aperture may not name. -/
def spadWindow (a : Addr) : Bool := winOfAddr a == 0xFD || winOfAddr a == 0xFE

/-- Some row of a copy goes to a fabric-target page. -/
def State.toFabric (s : State) (asid : Nat) (p : CopyPlan) : Bool :=
  (List.range (p.rows * p.planes)).any (fun q =>
    (splitAt 65536 (p.rowb / 65536 + 2) (p.dstRow q) p.rowb).any (fun r => match s.translate asid (r.1 % 2 ^ 80) with
      | .leaf e _ _ => pteFt e
      | .notPresent e _ _ => pteFt e
      | _ => false))

/-- A template that a copy may start from, with patterns that stay in their windows (R213, R216). -/
def Template.startable (t : Template) : Bool :=
  let se := patternEnds t.plan.src.toNat t.plan t.plan.spstride t.plan.sstride
  let de := patternEnds t.plan.dst.toNat t.plan t.plan.dpstride t.plan.dstride
  t.ok && winInt se.1 == winOfAddr t.plan.src && winInt se.2 == winOfAddr t.plan.src && winInt de.1 == winOfAddr t.plan.dst
    && winInt de.2 == winOfAddr t.plan.dst

/-- The template an aperture store names, with the reason for which the store is rejected (R402), or none. -/
def State.apertureCheck (s : State) (asid : Nat) (off : BitVec 16) (x : W32) : Except Nat Template :=
  let core := off.toNat / 256
  let i := x.toNat % 4096
  if !s.coreLive core then .error 0
  else if off.toNat % 256 ≠ 0 then .error 1
  else if 4096 ≤ x.toNat then .error 2
  else if (s.ctx asid).tmplCount ≤ i then .error 3
  else match s.ctxRead asid (2 ^ 43 + asid) (((s.ctx asid).tmplBase.toNat + 64 * i) % 2 ^ 80) 64 with
    | .ok _ bs =>
      let t := Template.of (bytesNat bs)
      if !t.startable then .error 4
      else if !t.bar || spadWindow t.plan.src || spadWindow t.plan.dst || spadWindow t.barAddr then .error 5
      else if s.toFabric asid t.plan then .error 6
      else if 16 ≤ s.waiting core then .error 7
      else .ok t
    | _ => .error 4

/-- A rejected store is counted and reported (R217). -/
def State.rejectAperture (s : State) (asid : Nat) (off : BitVec 16) (x : W32) (reason : Nat) : State :=
  let c := s.ctx asid
  (s.setCtx asid { c with aperDrop := c.aperDrop + 1 }).imprecise asid 0x44
    [w64 (off.toNat / 256 + x.toNat % 4096 * 2 ^ 8 + reason * 2 ^ 20), w64 x.toNat] 0

/-- A store to the aperture of a context. -/
def State.storeAperture (s : State) (asid : Nat) (off : BitVec 16) (x : W32) : State :=
  if !s.boot.ready || (s.ctx asid).state == .off then s
  else match s.apertureCheck asid off x with
    | .error n => s.rejectAperture asid off x n
    | .ok t =>
      let core := off.toNat / 256
      let key := core * 16 + 1
      let n := s.engNext.get 0 key
      let o : EngOp :=
        { id := s.serial, engop := n, core := core, asid := asid, launch := 0xFFFFFFFF, block := 0xFFFFFF, gid := 0
          kind := .copy t.plan, tok := 0, bar := some t.barAddr, slot := 0, running := false, waits := none, curA := 0
          curB := 0, curN := 0, count0 := 0, aperture := true, seqAt := s.seqNum, dying := false, chain := none, found := [] }
      { s with serial := s.serial + 1, engNext := s.engNext.put 0 key ((n + 1) % 65536), apStarts := s.apStarts ++ [o] }.refill core

/-- APERTURE_STORE (R217): a store that a group has sent to its aperture takes effect, or one of the host's. -/
def execApertureStore (asid : Nat) (off : BitVec 16) (x : W32) (s : State) : Host.Outcome State Fault Refusal :=
  .next ({ s with apStores := s.apStores.erase (asid, off, x) }.storeAperture asid off x)

/-- A load from the aperture. -/
def State.loadAperture (s : State) (off : BitVec 16) : Nat :=
  if off.toNat % 256 = 0 then s.waiting (off.toNat / 256) else 0

/-! ### Memory through BAR4 (R307, R368) -/

/-- A local physical address that BAR4 reaches (R318, R368). DESIGN CHOICE, log 109. -/
def State.barMemory (s : State) (pa : Nat) : Bool := pa < s.hbmBytes || (0x10000000000 ≤ pa && pa < 0x20000000000)

/-- The record that lies at a location, of those in the pools, and the offset there (R261, R265). DESIGN CHOICE, log 47. -/
def State.recordAt (s : State) (loc : Nat) : Option (Rec × Nat) :=
  s.records.findSome? (fun r => match r.place with
    | .pool u => (List.range r.units).findSome? (fun k =>
        match s.locOf r.asid (((s.ctx r.asid).poolBase.toNat + 256 * (u + k)) % 2 ^ 80) with
        | some a => if a ≤ loc ∧ loc < a + 256 then some (r, 256 * k + (loc - a)) else none
        | none => none)
    | _ => none)

/-- The byte of a record that lies at a location. DESIGN CHOICE, log 47. -/
def State.recordByte (s : State) (loc : Nat) : Option Byte := (s.recordAt loc).bind (fun x => x.1.bytes[x.2]?)

/-- A record after the supervisor has written its bytes (R261, R265). -/
def Rec.rewritten (r : Rec) (bs : List Byte) : Rec :=
  let word (n i : Nat) : Nat := bytesNat ((bs.drop i).take n)
  let img : RecordImage :=
    { words := (List.range 32).map (fun i => w64 (word 8 (8 * i)))
      regs := (List.range (4 * bitsOf (word 8 32) 37 9)).map (fun i => w32 (word 4 (256 + 4 * i))), poison := r.regPoison, dctx := 0, digest := []
      value := if r.fired then some r.dval else none, block := none }
  let x := recOfImage img r.asid r.core r.dval
  { x with place := r.place, durable := r.durable, fired := r.fired, readyAt := r.readyAt, evSerial := r.evSerial
           tokens := x.tokens.mapIdx (fun e t => { t with serial := ((r.tokens[e]?).map (·.serial)).getD 0 })
           tileSerials := r.tileSerials, frame := r.frame, xfer := r.xfer, preferred := r.preferred
           overdue := r.overdue, due := r.due, away := r.away }

/-- A byte the host writes through BAR4: into a record of a pool, or into memory. -/
def State.hostPoke (s : State) (loc : Nat) (b : Byte) : State :=
  match s.recordAt loc with
  | some (r, i) =>
    { s with records := updWhere (fun (x : Rec) => x.rid == r.rid) (fun x => x.rewritten (x.bytes.set i b)) s.records }
  | none => s.outsideWrite loc [b]

/-- The bytes a host read answers; where nothing lies there, free values. -/
def State.hostBytes (s : State) (pa : Nat) : Nat → List Byte × State
  | 0 => ([], s)
  | n + 1 =>
    let (v, s1) := if s.barMemory pa then
        ((match s.recordByte pa with
          | some b => b
          | none => s.byteAt (s.homeDie pa) pa), s)
      else ((s.free).1.truncate 8, (s.free).2)
    let (l, s2) := s1.hostBytes (pa + 1) n
    (v :: l, s2)

/-- HOST_ACCESS (R217, R307, R368). -/
def execHostAccess (acc : HostAccess) (s : State) : Host.Outcome State Fault Refusal :=
  .next (
    if !s.boot.power then s
    else match acc with
      | .writeMem pa bs => bs.mapIdx (fun i b => (pa + i, b)) |>.foldl (fun s c => if s.barMemory c.1 then s.hostPoke c.1 c.2 else s) s
      | .readMem pa n =>
        let (l, s1) := s.hostBytes pa n
        s1.emit (.hostData l)
      | .writeReg r v => s.writeReg r v
      | .readReg r => match s.readReg r with
        | some x => s.emit (.hostData (natBytes 8 x))
        | none =>
          let (v, s1) := s.free
          s1.emit (.hostData (natBytes 8 v.toNat))
      | .aperture asid off x => s.storeAperture asid off x
      | .readAperture _ off => s.emit (.hostData (natBytes 4 (s.loadAperture off))))

end Sys2Proof.Machine
end

