-- ==== Sys2Proof/Machine/Ahead.lean ====
section
/-! DEFINITION. Running ahead (R282, steps 2 to 4): after a translation fault of an instruction, and before anything else
happens, the group goes on from the faulting word on a copy of the machine that is thrown away, to find the pages it
is going to miss. What it cannot know is marked: a marked register holds a poison marker. -/

namespace Sys2Proof.Machine

open Sys2Proof.Enc

/-- The run-ahead: the copy of the machine, the marked v, p and w registers (256 × lane + number, 8 × lane + number,
number), the instructions it may still issue, the pages found, and whether it has stopped. -/
structure Ahead where
  s : State
  v : SMap Bool
  p : SMap Bool
  w : SMap Bool
  left : Nat
  pages : List Nat
  ended : Bool

/-- Words that load: LD, LDW, LDX, UDESC, ALD. -/
def aheadLoad (opc : Nat) : Bool := [0x0C0, 0x0C2, 0x0C4, 0x103, 0x111].contains opc

/-- Words that store and are not performed, but translate their addresses: the stores, atomics, DCZ, AST and ASTS. -/
def aheadStore (opc : Nat) : Bool := [0x0C1, 0x0C3, 0x0C5, 0x0C6, 0x0C8, 0x0C9, 0x0D1, 0x112, 0x113].contains opc

/-- Words that are not performed at all: maintenance, locks, fences, barriers and queues; matrix and tile words but for
those that read a tile's rows; engine, mesh, fabric, hash and task words; TRAP, BKPT, ECALL. -/
def aheadIdle (opc : Nat) : Bool :=
  (0x0D0 ≤ opc && opc < 0x130 && opc != 0x116 && opc != 0x117) || (0x180 ≤ opc && opc < 0x1E0) || opc == 0x1E3
    || opc == 0x1E4 || (0x1E6 ≤ opc && opc < 0x200)

/-- Predicate registers a word reads, and those it writes. -/
def predRegs (i : Instr) : List Nat × List Nat :=
  match view i with
  | .word opc f => match rowFor opc f.mod, f with
    | some r, .a x => match r.fmt with
      | .a sp _ =>
        let rd (k : SrcKind) (s : Src) : List Nat := match k with
          | .pred _ | .cmp => [s.field.toNat % 8]
          | _ => []
        ((if opc = 0x088 then List.range 8 else rd sp.a x.a ++ rd sp.b x.b ++ rd sp.c x.c),
         (if opc = 0x089 then List.range 8
          else if opc = 0x003 ∨ opc = 0x004 then [x.c.field.toNat % 8]
          else if sp.dst = .pred then [x.dst.toNat % 8] else []))
      | _ => ([], [])
    | some r, .e x => match r.fmt with
      | .e sp _ =>
        ([], (if sp.dst x.mod.toNat x.imm.toNat = .pred then [x.dst.toNat % 8] else [])
          ++ (if sp.c x.mod.toNat x.imm.toNat = .found then [x.c.toNat % 8] else []))
      | _ => ([], [])
    | _, _ => ([], [])
  | _ => ([], [])

/-- The registers a memory word of format M takes its addresses from; all it reads, for another word. -/
def addrRegs (i : Instr) : WordRegs :=
  match view i with
  | .word opc (.m x) => match rowFor opc x.mod.toNat with
    | some r => match r.fmt with
      | .m sp _ => (fieldRegs x.ty false sp.a x.a).add (srcRegs .b32 offKind x.off)
      | _ => WordRegs.none
    | none => WordRegs.none
  | _ => wordRegs i

def wordGuard (i : Instr) : Guard :=
  match view i with
  | .word _ f => f.guard
  | _ => .always

/-- A result computed from these registers in a lane is a marker. -/
def Ahead.marked (a : Ahead) (r : WordRegs) (ps : List Nat) (L : Nat) : Bool :=
  r.vr.any (fun n => a.v.get false (256 * L + n)) || r.wr.any (fun n => a.w.get false n)
    || ps.any (fun n => a.p.get false (8 * L + n))

/-- Set or clear the marks of what a word writes: in some lanes, and of its w registers. -/
def Ahead.mark (a : Ahead) (i : Instr) (ls : List Nat) (on : Nat → Bool) (onW : Bool) : Ahead :=
  let keys (k : Nat) (ns : List Nat) : List (Nat × Nat) := ls.flatMap (fun L => ns.map (fun n => (k * L + n, L)))
  { a with
    v := (keys 256 (wordRegs i).vw).foldl (fun m x => m.put false x.1 (on x.2)) a.v
    p := (keys 8 (predRegs i).2).foldl (fun m x => m.put false x.1 (on x.2)) a.p
    w := (wordRegs i).ww.foldl (fun m n => m.put false n onW) a.w }

/-- Lanes stop. -/
def Ahead.stopLanes (a : Ahead) (ls : List Nat) : Ahead :=
  { a with s := { a.s with g := a.s.g.mapLanes ls (fun _ x => { x with status := .absent }) } }

/-- The group goes on behind the word of a clause. -/
def Ahead.goOn (a : Ahead) (r : Run) (g : Group) : Ahead :=
  let g1 := { g with stall := none, waitBatch := none }
  { a with
    left := a.left - 1
    s := { a.s with g := if r.wix + 1 < r.words.length then { g1 with run := some { r with wix := r.wix + 1 } } else g1.endClause r } }

/-- How a word went on the copy: it retired, it met missing pages, or it trapped or stalled. -/
inductive AheadRes where
  | ok (s : State)
  | pages (ps : List Nat)
  | no

/-- Run a word in some of the lanes of the clause. -/
def Ahead.tryWord (a : Ahead) (run : Instr → State → Host.Outcome State Fault Refusal) (r : Run) (i : Instr) (ls : List Nat) :
    AheadRes :=
  let s := { a.s with g := { a.s.g with run := some { r with mask := r.mask &&& maskOf 32 ls, words := r.words ++ [0] } } }
  match run i s with
  | .next t =>
    if t.g.gid = s.g.gid ∧ t.g.issued = s.g.issued + 1 then .ok t
    else if s.batches.length < t.batches.length then
      .pages (match t.batches.getLast? with | some b => b.pages | none => [])
    else .no
  | _ => .no

/-- Pages are found, up to 32. -/
def Ahead.found (a : Ahead) (ps : List Nat) : Ahead := { a with pages := (a.pages ++ ps).eraseDups.take 32 }

/-- One word, whose guard no running lane's marker decides. -/
def Ahead.word (a : Ahead) (run : Instr → State → Host.Outcome State Fault Refusal) (r : Run) (i : Instr) : Ahead :=
  let opc := opcodeOf i
  let g := a.s.g
  let act := g.active (wordGuard i)
  let exe := g.executing (wordGuard i)
  let all (a : Ahead) : Ahead := a.mark i exe (fun _ => true) true
  if act.isEmpty then a.goOn r g
  else if aheadLoad opc || aheadStore opc then
    let regs := addrRegs i
    let known (L : Nat) : Bool := !(a.marked regs [] L)
    let ls := below 32 known
    if !(act.any known) then (all a).goOn r g
    else match a.tryWord run r i ls with
      | .ok t =>
        if aheadStore opc then (all a).goOn r g
        else ({ a with s := t }.mark i exe (fun L => !known L) false).goOn r (if opc = 0x111 then g else t.g)
      | .pages ps => ((all a).found ps).goOn r g
      | .no => (all a).goOn r g
  else if aheadIdle opc then (all a).goOn r g
  else
    let src := a.marked (wordRegs i) (predRegs i).1
    if isTransfer opc && act.any src then
      let a1 := a.stopLanes (act.filter src)
      { a1 with s := { a1.s with g := if (below 32 a1.s.g.runs).isEmpty then { a1.s.g with run := none } else a1.s.g } }
    else match a.tryWord run r i (below 32 (fun _ => true)) with
      | .ok t =>
        let cross := decide (0x090 ≤ opc) && decide (opc ≤ 0x0A0) && exe.any src
        let a1 := { a with s := t }.mark i exe (fun L => cross || src L) (act.any src)
        if t.g.run.isNone then { a1 with left := a.left - 1 } else a1.goOn r t.g
      | .pages ps => ((all a).found ps).goOn r g
      | .no => if isTransfer opc then (a.stopLanes act).goOn r (a.stopLanes act).s.g else (all a).goOn r g

/-- The lanes whose guard depends on a marker. -/
def Ahead.unsure (a : Ahead) (i : Instr) : List Nat :=
  match wordGuard i with
  | .always => []
  | .on _ p => below 32 (fun L => a.s.g.runs L && a.p.get false (8 * L + p.toNat))

/-- One instruction of the run-ahead, or the start of its next clause. -/
def Ahead.step (a : Ahead) (run : Instr → State → Host.Outcome State Fault Refusal) : Ahead :=
  if a.ended || a.left = 0 || decide (32 ≤ a.pages.length) || a.s.g.empty then { a with ended := true }
  else match a.s.g.run with
    | none => match run .clauseStart { a.s with g := { a.s.g with yieldReq := false, yieldAt := none } } with
      | .next t => if t.g.gid = a.s.g.gid ∧ t.g.run.isSome then { a with s := t } else { a with ended := true }
      | _ => { a with ended := true }
    | some r => match r.words[r.wix]? with
      | none => { a with s := { a.s with g := a.s.g.endClause r } }
      | some w => match decodeWord r.lits w with
        | .error _ => a.goOn r a.s.g
        | .ok i =>
          if isSegEnd (opcodeOf i) then { a with ended := true }
          else
            let a1 := a.stopLanes (a.unsure i)
            if (below 32 a1.s.g.runs).isEmpty then { a1 with s := { a1.s with g := { a1.s.g with run := none } } }
            else a1.word run r i

def Ahead.steps (run : Instr → State → Host.Outcome State Fault Refusal) : Nat → Ahead → Ahead
  | 0, a => a
  | n + 1, a => if a.ended then a else Ahead.steps run n (a.step run)

/-- Run ahead for a batch from its checkpoint: at most 256 instructions, up to a segment-ending word, until every LIVE
lane has stopped or 32 pages are found. The batch then holds the pages, and nothing else has changed. DEDUCED, log 122. -/
def State.runAhead (s : State) (run : Instr → State → Host.Outcome State Fault Refusal) (b : Batch) : State :=
  match b.ahead with
  | none => s
  | some g =>
    let a := Ahead.steps run 1024
      { s := { s with g := g, others := [] }, v := [], p := [], w := [], left := 256, pages := b.pages.take 32, ended := false }
    let set (x : Batch) : Batch := if x.id = b.id then { x with pages := a.pages, ahead := none } else x
    { s with batches := s.batches.map set }.reportInvalid b.asid b.id a.pages

/-- The batch whose group has still to run ahead. -/
def State.aheadDue (s : State) : Option Batch := s.batches.find? (fun b => b.ahead.isSome)

end Sys2Proof.Machine
end

