-- ==== Sys2Proof/Machine/Sched.lean ====
section
/-! DEFINITION. What happens next: the outside world's and the scheduler's choices as the agenda lists them, and a default
where it lists none (R10, R129, R343, R346). How an instruction word comes from the clause a group runs, with the trap of
a word that fails its checks (R42, R58), and how a word is put there for the host's question. -/

namespace Sys2Proof.Machine

/-! ### Groups -/

/-- The machine runs work: it has power and is READY (R389). -/
def State.alive (s : State) : Bool := s.boot.power && s.boot.ready

/-- A group that may issue now: it is in the middle of a clause, or its issue slot chooses it at the boundary (R42, R346). -/
def State.turnFor (s : State) (g : Group) : Bool := s.runnable g && (g.run.isSome || (!s.slotTaken g && s.slotFirst g))

/-- A group whose word may be tried again. -/
def State.retriable (s : State) (g : Group) : Bool :=
  s.mayIssue g && !s.waitsFor g && g.stall.isSome && (g.run.isSome || (!s.slotTaken g && s.slotFirst g))

/-- Another resident group takes its turn. -/
def State.turnTo (s : State) (gid : Nat) : State :=
  match s.others.find? (fun g => g.gid == gid) with
  | none => s
  | some g =>
    let rest := s.others.filter (fun x => x.gid != gid)
    { s with g := g, others := if s.g.gid = 0 then rest else rest ++ [s.g] }

/-! ### The word a group issues next (R42, R58) -/

/-- A step to take: an instruction on a state, or a state that is the next one. -/
inductive Turn where
  | run (i : Instr) (s : State)
  | rest (s : State)

/-- The illegal-instruction trap of a word that fails check n of R58. -/
def State.badWord (s : State) (w : W64) (n : Nat) : State :=
  s.takeTrap { cause := 0x02, detail := opcOf w + n * 2 ^ 10, lane := none }

/-- The word of the clause that the issuing group runs, decoded. -/
def State.fetched (s : State) (r : Run) : Turn :=
  match r.words[r.wix]? with
  | none => .rest { s with g := s.g.endClause r }
  | some w => match decodeWord r.lits w with
    | .ok i => .run i s
    | .error n => .rest (s.badWord w n)

/-- The issuing group's turn. -/
def State.groupTurn (s : State) : Turn :=
  match s.g.run with
  | some r => s.fetched r
  | none => .run .clauseStart s

/-! ### Events that are due -/

/-- The cores of a gang that would start on the cluster of a core: the lowest with room. -/
def State.gangCores (s : State) (l : Launch) (core : Nat) : List Nat :=
  if l.gang = 0 then [core] else ((clusterCores core).filter (fun c => s.blockRoom c l)).take (l.gang + 1)

/-- What the scheduler would start on a core. -/
def State.startOn (s : State) (core : Nat) : Option Instr :=
  match s.chosen core with
  | none => none
  | some c =>
    if c.isBlock then (s.launchOf c.asid c.launch).map (fun l => .blockStart (c.asid * 2 ^ 32 + c.launch) (s.gangCores l core))
    else some (.binDrain c.rid core)

/-- What can become of the issuing group while it waits. -/
def groupEvents : List Instr := [.implicitPark, .parkingStallRetry, .recordPoolExhausted, .fullSpill]

/-- The device's own activities that could come next, in an order of the model's choice. DESIGN CHOICE, log 1. -/
def State.candidates (s : State) : List Instr :=
  (s.matOps.map (fun o => Instr.matrixOpComplete o.id)) ++ (s.engOps.map (fun o => Instr.engineOpStart o.id))
    ++ (s.engOps.map (fun o => Instr.engineChunk o.id)) ++ (s.engOps.map (fun o => Instr.mrcvResultWrite o.id))
    ++ (s.maintOps.map (fun o => Instr.maintOpComplete o.id)) ++ (s.flagOps.map (fun o => Instr.xflagSend o.id))
    ++ (s.batches.map (fun b => Instr.batchFire b.id))
    ++ [.replicaWriteApplied 0, .replicaWriteApplied 1, .replicaWriteApplied 2, .replicaWriteApplied 3, .tlbiComplete, .timerWake]
    ++ groupEvents
    ++ (s.channels.flatMap (fun x => x.2.flight.map (fun p => Instr.meshPacketArrive (x.1 / 16) (x.1 % 16) p.2.1 p.1)))
    ++ (s.channels.flatMap (fun x => x.2.rounds.flatMap (fun r => (x.2.nodes.map some ++ [none]).map (fun n =>
      Instr.meshNodeTimeout (x.1 / 16) (x.1 % 16) r.num n))))
    ++ (s.records.map (fun r => Instr.emergencyRecordCopy r.rid)) ++ (s.records.map (fun r => Instr.binAgeExpiry r.rid))
    ++ (s.queues.map (fun x => Instr.launchFetch x.1))
    ++ ((below 256 s.coreLive).filterMap s.startOn)
    ++ (s.wcb.map (fun e => Instr.wcbAgeExpiry e.core e.id))
    ++ (s.ctxs.map (fun x => Instr.switchOutDone x.1))
    ++ ((below 8 (fun p => (s.part p).mask != 0)).map (fun p => Instr.pmWindowExpiry p))
    ++ (s.records.map (fun r => Instr.externalDeadline r.rid))
    ++ (s.apStores.map (fun x => Instr.apertureStore x.1 x.2.1 x.2.2))
    ++ (s.hier.moves.map (fun m => Instr.migrationDemote m.asid (BitVec.ofNat 80 m.va) m.frame m.tier))

/-- The first activity that changes something. -/
def State.due (s : State) (run : Instr → State → Host.Outcome State Fault Refusal) : List Instr → Option Instr
  | [] => none
  | i :: is => match run i s with
    | .next t => if t = s then s.due run is else some i
    | _ => s.due run is

/-- The first other group that waits and for which something is due, as the issuing group. -/
def State.dueElsewhere (s : State) (run : Instr → State → Host.Outcome State Fault Refusal) : List Group → Option (Instr × State)
  | [] => none
  | g :: gs =>
    let t := s.turnTo g.gid
    match t.due run groupEvents with
    | some i => some (i, t)
    | none => s.dueElsewhere run gs

/-! ### The turn -/

/-- An agenda entry may only name a device event: instruction words come from the clauses of groups. -/
def agendaEvent (i : Instr) : Bool := !i.isWord

/-- The entry at the head of the agenda (`s` is the state without it). -/
def State.act (s : State) : Action → Turn
  | .event i => if agendaEvent i then .run i s else .rest s
  | .issue gid => .rest (s.turnTo gid)
  | .tick ns => .rest { s with now := s.now + ns }
  | .dropTlb key => .rest { s with hier := s.hier.dropPage (key / 2 ^ 64) (key % 2 ^ 64 * 65536) }
  | .writeBack core line => .rest { s with hier := s.hier.evict s.pinTest core line }

/-- One nanosecond passes. DESIGN CHOICE, log 2. -/
def State.tick (s : State) : State := { s with now := s.now + 1 }

/-- What comes next where the agenda says nothing: the clause that the issuing group runs; at its end an activity that is
due, of the device or of a group that waits; else the choice of an issue slot (R346), a nanosecond later, slots in the
order of their last turns; else a stalled word is tried again; else time passes. DESIGN CHOICE, log 1. -/
def State.defaultTurn (s : State) (run : Instr → State → Host.Outcome State Fault Refusal) : Turn :=
  if !s.alive then .rest (if s.boot.power then s.tick else s)
  else if s.runnable s.g && s.g.run.isSome then s.groupTurn
  else match s.due run s.candidates with
    | some i => .run i s
    | none => match s.dueElsewhere run s.others with
      | some (i, t) => .run i t
      | none => match (s.others ++ [s.g]).find? s.turnFor with
        | some g => (s.tick.turnTo g.gid).groupTurn
        | none => match (s.others ++ [s.g]).find? s.retriable with
          | some g => (s.tick.turnTo g.gid).groupTurn
          | none => .rest s.tick

/-- The next turn: a group that has to run ahead does so before anything else (R282). -/
def State.turn (s : State) (run : Instr → State → Host.Outcome State Fault Refusal) : Turn :=
  match s.aheadDue with
  | some b => .rest (s.runAhead run b)
  | none => match s.agenda with
    | a :: rest => { s with agenda := rest }.act a
    | [] => s.defaultTurn run

/-! ### A word placed for the next step -/

/-- Lane 0 of a group, as it runs a word. -/
def placedLane (x : Lane) : Lane := { x with status := .live, hold := .none, mid := false }

/-- The group with one word in the clause it runs, and nothing that keeps it from issuing. -/
def Group.withWord (g : Group) (w : W64) : Group :=
  { g.mapLanes [0] (fun _ x => placedLane x) with
    gid := max 1 g.gid, run := some { pc := (g.lane 0).pc, wix := 0, words := [w], lits := [], next := (g.lane 0).pc + 16, mask := 1 }
    stall := none, parkStall := none, waitBatch := none, bound := max 8 g.bound }

/-- The machine with the issuing group able to issue: power and READY, its core live, its context running, its partition
not frozen, and an empty agenda. -/
def State.readyToIssue (s : State) : State :=
  let c := s.ctx s.g.asid
  let p := s.part c.part
  { s with
    boot := { s.boot with power := true, ready := true }
    ident := { s.ident with coreLive := s.ident.coreLive ||| (1#256 <<< s.g.core) }
    ctxs := s.ctxs.put Ctx.off s.g.asid { c with state := if c.state = .switching then .switching else .running }
    parts := s.parts.put Part.init c.part { p with frozen := false }
    batches := s.batches.map (fun (b : Batch) => { b with ahead := none })
    agenda := [] }

/-- The machine about to run a word (the low `nbits` bits of w). DESIGN CHOICE, log 9. -/
def State.placeWord (s : State) (nbits w : Nat) : State :=
  let t := s.readyToIssue
  { t with g := t.g.withWord (BitVec.ofNat 64 (w % 2 ^ min nbits 64)) }

end Sys2Proof.Machine
end

