-- ==== Sys2Proof/Machine/Dispatch.lean ====
section
/-! DEFINITION. One arm per constructor of Instr: each calls the meaning of its own. -/

namespace Sys2Proof.Machine

/-- What a step of the opcode table does. -/
def exec (i : Instr) (s : State) : Host.Outcome State Fault Refusal :=
  match i with
  | .iadd f => Sys2Proof.Machine.execIadd f s
  | .isub f => Sys2Proof.Machine.execIsub f s
  | .iaddc f => Sys2Proof.Machine.execIaddc f s
  | .isubb f => Sys2Proof.Machine.execIsubb f s
  | .imul f => Sys2Proof.Machine.execImul f s
  | .imulh f => Sys2Proof.Machine.execImulh f s
  | .imad f => Sys2Proof.Machine.execImad f s
  | .imad64 f => Sys2Proof.Machine.execImad64 f s
  | .imin f => Sys2Proof.Machine.execImin f s
  | .imax f => Sys2Proof.Machine.execImax f s
  | .iabs f => Sys2Proof.Machine.execIabs f s
  | .ineg f => Sys2Proof.Machine.execIneg f s
  | .dot4 f => Sys2Proof.Machine.execDot4 f s
  | .and f => Sys2Proof.Machine.execAnd f s
  | .or f => Sys2Proof.Machine.execOr f s
  | .xor f => Sys2Proof.Machine.execXor f s
  | .andn f => Sys2Proof.Machine.execAndn f s
  | .not f => Sys2Proof.Machine.execNot f s
  | .shl f => Sys2Proof.Machine.execShl f s
  | .shr f => Sys2Proof.Machine.execShr f s
  | .sar f => Sys2Proof.Machine.execSar f s
  | .rotl f => Sys2Proof.Machine.execRotl f s
  | .popc f => Sys2Proof.Machine.execPopc f s
  | .clz f => Sys2Proof.Machine.execClz f s
  | .ctz f => Sys2Proof.Machine.execCtz f s
  | .brev f => Sys2Proof.Machine.execBrev f s
  | .bfx f => Sys2Proof.Machine.execBfx f s
  | .bfi f => Sys2Proof.Machine.execBfi f s
  | .prmt f => Sys2Proof.Machine.execPrmt f s
  | .sel f => Sys2Proof.Machine.execSel f s
  | .mov f => Sys2Proof.Machine.execMov f s
  | .movi f => Sys2Proof.Machine.execMovi f s
  | .movw f => Sys2Proof.Machine.execMovw f s
  | .wmov f => Sys2Proof.Machine.execWmov f s
  | .aadd f => Sys2Proof.Machine.execAadd f s
  | .asub f => Sys2Proof.Machine.execAsub f s
  | .adiff f => Sys2Proof.Machine.execAdiff f s
  | .acmp f => Sys2Proof.Machine.execAcmp f s
  | .amovi f => Sys2Proof.Machine.execAmovi f s
  | .sptest f => Sys2Proof.Machine.execSptest f s
  | .spcast f => Sys2Proof.Machine.execSpcast f s
  | .fadd f => Sys2Proof.Machine.execFadd f s
  | .fsub f => Sys2Proof.Machine.execFsub f s
  | .fmul f => Sys2Proof.Machine.execFmul f s
  | .ffma f => Sys2Proof.Machine.execFfma f s
  | .fmin f => Sys2Proof.Machine.execFmin f s
  | .fmax f => Sys2Proof.Machine.execFmax f s
  | .frcp f => Sys2Proof.Machine.execFrcp f s
  | .frsq f => Sys2Proof.Machine.execFrsq f s
  | .fsqrt f => Sys2Proof.Machine.execFsqrt f s
  | .fex2 f => Sys2Proof.Machine.execFex2 f s
  | .flg2 f => Sys2Proof.Machine.execFlg2 f s
  | .fsin f => Sys2Proof.Machine.execFsin f s
  | .fcos f => Sys2Proof.Machine.execFcos f s
  | .ftanh f => Sys2Proof.Machine.execFtanh f s
  | .fclass f => Sys2Proof.Machine.execFclass f s
  | .frnd f => Sys2Proof.Machine.execFrnd f s
  | .fscale f => Sys2Proof.Machine.execFscale f s
  | .fcvt f => Sys2Proof.Machine.execFcvt f s
  | .icvt f => Sys2Proof.Machine.execIcvt f s
  | .ficvt f => Sys2Proof.Machine.execFicvt f s
  | .pkadd f => Sys2Proof.Machine.execPkadd f s
  | .pkmul f => Sys2Proof.Machine.execPkmul f s
  | .pkfma f => Sys2Proof.Machine.execPkfma f s
  | .pkcvt f => Sys2Proof.Machine.execPkcvt f s
  | .icmp f => Sys2Proof.Machine.execIcmp f s
  | .fcmp f => Sys2Proof.Machine.execFcmp f s
  | .pset f => Sys2Proof.Machine.execPset f s
  | .pand f => Sys2Proof.Machine.execPand f s
  | .por f => Sys2Proof.Machine.execPor f s
  | .pxor f => Sys2Proof.Machine.execPxor f s
  | .pnot f => Sys2Proof.Machine.execPnot f s
  | .pmov f => Sys2Proof.Machine.execPmov f s
  | .ppack f => Sys2Proof.Machine.execPpack f s
  | .punpk f => Sys2Proof.Machine.execPunpk f s
  | .punpkMask f => Sys2Proof.Machine.execPunpkMask f s
  | .qswz f => Sys2Proof.Machine.execQswz f s
  | .qxch f => Sys2Proof.Machine.execQxch f s
  | .qred f => Sys2Proof.Machine.execQred f s
  | .qdiff f => Sys2Proof.Machine.execQdiff f s
  | .qhelp f => Sys2Proof.Machine.execQhelp f s
  | .gvote f => Sys2Proof.Machine.execGvote f s
  | .gballot f => Sys2Proof.Machine.execGballot f s
  | .gshfl f => Sys2Proof.Machine.execGshfl f s
  | .gbcst f => Sys2Proof.Machine.execGbcst f s
  | .gred f => Sys2Proof.Machine.execGred f s
  | .gscan f => Sys2Proof.Machine.execGscan f s
  | .gmatch f => Sys2Proof.Machine.execGmatch f s
  | .gtopk f => Sys2Proof.Machine.execGtopk f s
  | .gcount f => Sys2Proof.Machine.execGcount f s
  | .nop f => Sys2Proof.Machine.execNop f s
  | .bra f => Sys2Proof.Machine.execBra f s
  | .brc f => Sys2Proof.Machine.execBrc f s
  | .brx f => Sys2Proof.Machine.execBrx f s
  | .call f => Sys2Proof.Machine.execCall f s
  | .callx f => Sys2Proof.Machine.execCallx f s
  | .ret f => Sys2Proof.Machine.execRet f s
  | .meet f => Sys2Proof.Machine.execMeet f s
  | .meetClear f => Sys2Proof.Machine.execMeetClear f s
  | .exit f => Sys2Proof.Machine.execExit f s
  | .park f => Sys2Proof.Machine.execPark f s
  | .yield f => Sys2Proof.Machine.execYield f s
  | .hint0 bits => Sys2Proof.Machine.execHint0 bits s
  | .hint1 bits => Sys2Proof.Machine.execHint1 bits s
  | .hintUnimplemented n bits => Sys2Proof.Machine.execHintUnimplemented n bits s
  | .ld f => Sys2Proof.Machine.execLd f s
  | .st f => Sys2Proof.Machine.execSt f s
  | .ldw f => Sys2Proof.Machine.execLdw f s
  | .stw f => Sys2Proof.Machine.execStw f s
  | .ldx f => Sys2Proof.Machine.execLdx f s
  | .stx f => Sys2Proof.Machine.execStx f s
  | .nibst f => Sys2Proof.Machine.execNibst f s
  | .atom f => Sys2Proof.Machine.execAtom f s
  | .atomw f => Sys2Proof.Machine.execAtomw f s
  | .pref f => Sys2Proof.Machine.execPref f s
  | .dcz f => Sys2Proof.Machine.execDcz f s
  | .llock f => Sys2Proof.Machine.execLlock f s
  | .lulock f => Sys2Proof.Machine.execLulock f s
  | .cwb f => Sys2Proof.Machine.execCwb f s
  | .cinv f => Sys2Proof.Machine.execCinv f s
  | .icinv f => Sys2Proof.Machine.execIcinv f s
  | .fence f => Sys2Proof.Machine.execFence f s
  | .await f => Sys2Proof.Machine.execAwait f s
  | .tbinit f => Sys2Proof.Machine.execTbinit f s
  | .tbarv f => Sys2Proof.Machine.execTbarv f s
  | .tbexp f => Sys2Proof.Machine.execTbexp f s
  | .tbwait f => Sys2Proof.Machine.execTbwait f s
  | .tbphase f => Sys2Proof.Machine.execTbphase f s
  | .qinit f => Sys2Proof.Machine.execQinit f s
  | .qpush f => Sys2Proof.Machine.execQpush f s
  | .qpop f => Sys2Proof.Machine.execQpop f s
  | .qtryPop f => Sys2Proof.Machine.execQtryPop f s
  | .qtryPush f => Sys2Proof.Machine.execQtryPush f s
  | .qgrant f => Sys2Proof.Machine.execQgrant f s
  | .qstat f => Sys2Proof.Machine.execQstat f s
  | .mma f => Sys2Proof.Machine.execMma f s
  | .mmau f => Sys2Proof.Machine.execMmau f s
  | .mmas f => Sys2Proof.Machine.execMmas f s
  | .udesc f => Sys2Proof.Machine.execUdesc f s
  | .aclr f => Sys2Proof.Machine.execAclr f s
  | .ald f => Sys2Proof.Machine.execAld f s
  | .aldSparse f => Sys2Proof.Machine.execAldSparse f s
  | .ast f => Sys2Proof.Machine.execAst f s
  | .asts f => Sys2Proof.Machine.execAsts f s
  | .acvt f => Sys2Proof.Machine.execAcvt f s
  | .aquant f => Sys2Proof.Machine.execAquant f s
  | .atopk f => Sys2Proof.Machine.execAtopk f s
  | .aredr f => Sys2Proof.Machine.execAredr f s
  | .abind f => Sys2Proof.Machine.execAbind f s
  | .aunbind f => Sys2Proof.Machine.execAunbind f s
  | .aunbindFlush f => Sys2Proof.Machine.execAunbindFlush f s
  | .aflush f => Sys2Proof.Machine.execAflush f s
  | .kset f => Sys2Proof.Machine.execKset f s
  | .ksetMask f => Sys2Proof.Machine.execKsetMask f s
  | .kand f => Sys2Proof.Machine.execKand f s
  | .kor f => Sys2Proof.Machine.execKor f s
  | .knot f => Sys2Proof.Machine.execKnot f s
  | .ktest f => Sys2Proof.Machine.execKtest f s
  | .ktestMask f => Sys2Proof.Machine.execKtestMask f s
  | .matrixOpComplete op => Sys2Proof.Machine.execMatrixOpComplete op s
  | .xtmpl f => Sys2Proof.Machine.execXtmpl f s
  | .xcopy f => Sys2Proof.Machine.execXcopy f s
  | .xgath f => Sys2Proof.Machine.execXgath f s
  | .xscat f => Sys2Proof.Machine.execXscat f s
  | .sinter f => Sys2Proof.Machine.execSinter f s
  | .smerge f => Sys2Proof.Machine.execSmerge f s
  | .mred f => Sys2Proof.Machine.execMred f s
  | .mrcv f => Sys2Proof.Machine.execMrcv f s
  | .mrselOpen f => Sys2Proof.Machine.execMrselOpen f s
  | .mrselClose f => Sys2Proof.Machine.execMrselClose f s
  | .xslot f => Sys2Proof.Machine.execXslot f s
  | .xstc f => Sys2Proof.Machine.execXstc f s
  | .xflag f => Sys2Proof.Machine.execXflag f s
  | .xflagSend op => Sys2Proof.Machine.execXflagSend op s
  | .htclaim f => Sys2Proof.Machine.execHtclaim f s
  | .htfree f => Sys2Proof.Machine.execHtfree f s
  | .htins f => Sys2Proof.Machine.execHtins f s
  | .htprobe f => Sys2Proof.Machine.execHtprobe f s
  | .htdel f => Sys2Proof.Machine.execHtdel f s
  | .htacc f => Sys2Proof.Machine.execHtacc f s
  | .htdrain f => Sys2Proof.Machine.execHtdrain f s
  | .htstat f => Sys2Proof.Machine.execHtstat f s
  | .sread f => Sys2Proof.Machine.execSread f s
  | .swrite f => Sys2Proof.Machine.execSwrite f s
  | .tstamp f => Sys2Proof.Machine.execTstamp f s
  | .trap f => Sys2Proof.Machine.execTrap f s
  | .bkpt f => Sys2Proof.Machine.execBkpt f s
  | .tret f => Sys2Proof.Machine.execTret f s
  | .tretSkip f => Sys2Proof.Machine.execTretSkip f s
  | .ecall f => Sys2Proof.Machine.execEcall f s
  | .ecallReply op reply => Sys2Proof.Machine.execEcallReply op reply s
  | .launch f => Sys2Proof.Machine.execLaunch f s
  | .tkrsv f => Sys2Proof.Machine.execTkrsv f s
  | .tkpub f => Sys2Proof.Machine.execTkpub f s
  | .tksig f => Sys2Proof.Machine.execTksig f s
  | .clauseStart => Sys2Proof.Machine.execClauseStart s
  | .implicitPark => Sys2Proof.Machine.execImplicitPark s
  | .parkingStallRetry => Sys2Proof.Machine.execParkingStallRetry s
  | .recordPoolExhausted => Sys2Proof.Machine.execRecordPoolExhausted s
  | .emergencyRecordCopy rid => Sys2Proof.Machine.execEmergencyRecordCopy rid s
  | .engineOpStart op => Sys2Proof.Machine.execEngineOpStart op s
  | .engineChunk op => Sys2Proof.Machine.execEngineChunk op s
  | .timerWake => Sys2Proof.Machine.execTimerWake s
  | .binAgeExpiry rid => Sys2Proof.Machine.execBinAgeExpiry rid s
  | .binDrain rid core => Sys2Proof.Machine.execBinDrain rid core s
  | .binForward rid target => Sys2Proof.Machine.execBinForward rid target s
  | .recordTransferArrive src img => Sys2Proof.Machine.execRecordTransferArrive src img s
  | .recordAcceptance rid accepted => Sys2Proof.Machine.execRecordAcceptance rid accepted s
  | .yieldRequest asid gid => Sys2Proof.Machine.execYieldRequest asid gid s
  | .fullSpill => Sys2Proof.Machine.execFullSpill s
  | .batchFire batch => Sys2Proof.Machine.execBatchFire batch s
  | .migrationFetch batch va frame data => Sys2Proof.Machine.execMigrationFetch batch va frame data s
  | .migrationDemote asid va frame tier => Sys2Proof.Machine.execMigrationDemote asid va frame tier s
  | .migrationPromote asid va frame => Sys2Proof.Machine.execMigrationPromote asid va frame s
  | .wcbAgeExpiry core key => Sys2Proof.Machine.execWcbAgeExpiry core key s
  | .doorbellWrite q t => Sys2Proof.Machine.execDoorbellWrite q t s
  | .launchFetch q => Sys2Proof.Machine.execLaunchFetch q s
  | .blockStart launch cores => Sys2Proof.Machine.execBlockStart launch cores s
  | .agePromotionReclaim core => Sys2Proof.Machine.execAgePromotionReclaim core s
  | .pmWindowExpiry part => Sys2Proof.Machine.execPmWindowExpiry part s
  | .partUnfreeze part => Sys2Proof.Machine.execPartUnfreeze part s
  | .externalDeadline rid => Sys2Proof.Machine.execExternalDeadline rid s
  | .apertureStore asid off x => Sys2Proof.Machine.execApertureStore asid off x s
  | .tlbiStart ctl => Sys2Proof.Machine.execTlbiStart ctl s
  | .tlbiComplete => Sys2Proof.Machine.execTlbiComplete s
  | .fabCtlWrite v => Sys2Proof.Machine.execFabCtlWrite v s
  | .registerWrite reg v => Sys2Proof.Machine.execRegisterWrite reg v s
  | .maintOpComplete op => Sys2Proof.Machine.execMaintOpComplete op s
  | .mrcvResultWrite op => Sys2Proof.Machine.execMrcvResultWrite op s
  | .meshPacketArrive die ch round core => Sys2Proof.Machine.execMeshPacketArrive die ch round core s
  | .meshNodeTimeout die ch round node => Sys2Proof.Machine.execMeshNodeTimeout die ch round node s
  | .countedPacketArrive pkt => Sys2Proof.Machine.execCountedPacketArrive pkt s
  | .flagArrive pkt => Sys2Proof.Machine.execFlagArrive pkt s
  | .replayRequest ep slot => Sys2Proof.Machine.execReplayRequest ep slot s
  | .replayRequestArrive ep slot span gen => Sys2Proof.Machine.execReplayRequestArrive ep slot span gen s
  | .replayGone ep slot => Sys2Proof.Machine.execReplayGone ep slot s
  | .sendLogExpiry ep slot span => Sys2Proof.Machine.execSendLogExpiry ep slot span s
  | .protectionNotice pkt => Sys2Proof.Machine.execProtectionNotice pkt s
  | .remoteRequestArrive req => Sys2Proof.Machine.execRemoteRequestArrive req s
  | .remoteResponseArrive id status bytes => Sys2Proof.Machine.execRemoteResponseArrive id status bytes s
  | .pathHoldExpiry line => Sys2Proof.Machine.execPathHoldExpiry line s
  | .timeBeaconSend => Sys2Proof.Machine.execTimeBeaconSend s
  | .timeBeaconArrive ts => Sys2Proof.Machine.execTimeBeaconArrive ts s
  | .linkTraining port => Sys2Proof.Machine.execLinkTraining port s
  | .linkStateWordArrive port word sigOk => Sys2Proof.Machine.execLinkStateWordArrive port word sigOk s
  | .linkTrainTimeout port => Sys2Proof.Machine.execLinkTrainTimeout port s
  | .cxlLinkDown port => Sys2Proof.Machine.execCxlLinkDown port s
  | .hostAccess acc => Sys2Proof.Machine.execHostAccess acc s
  | .registerCtx cmd desc => Sys2Proof.Machine.execRegisterCtx cmd desc s
  | .deregisterCtx cmd asid => Sys2Proof.Machine.execDeregisterCtx cmd asid s
  | .loadCode cmd asid obj size => Sys2Proof.Machine.execLoadCode cmd asid obj size s
  | .queueEnable cmd q ring log2n task asid => Sys2Proof.Machine.execQueueEnable cmd q ring log2n task asid s
  | .queueDisable cmd q => Sys2Proof.Machine.execQueueDisable cmd q s
  | .switchOut cmd asid => Sys2Proof.Machine.execSwitchOut cmd asid s
  | .switchOutDone asid => Sys2Proof.Machine.execSwitchOutDone asid s
  | .switchIn cmd asid => Sys2Proof.Machine.execSwitchIn cmd asid s
  | .switchInDone asid place => Sys2Proof.Machine.execSwitchInDone asid place s
  | .endpointSet cmd ep => Sys2Proof.Machine.execEndpointSet cmd ep s
  | .slotAssign cmd peer slot dctx => Sys2Proof.Machine.execSlotAssign cmd peer slot dctx s
  | .slotReset cmd peer slot receiver value => Sys2Proof.Machine.execSlotReset cmd peer slot receiver value s
  | .setTimeMaster cmd ep => Sys2Proof.Machine.execSetTimeMaster cmd ep s
  | .linkEnable cmd port => Sys2Proof.Machine.execLinkEnable cmd port s
  | .attest cmd asid nonce report => Sys2Proof.Machine.execAttest cmd asid nonce report s
  | .coreFence cmd core => Sys2Proof.Machine.execCoreFence cmd core s
  | .fenceClear cmd => Sys2Proof.Machine.execFenceClear cmd s
  | .softErrorDetect err => Sys2Proof.Machine.execSoftErrorDetect err s
  | .powerGood => Sys2Proof.Machine.execPowerGood s
  | .bootStageDone out => Sys2Proof.Machine.execBootStageDone out s
  | .bootTimeout => Sys2Proof.Machine.execBootTimeout s
  | .retry => Sys2Proof.Machine.execRetry s
  | .powerOff => Sys2Proof.Machine.execPowerOff s
  | .thermalThrottle unit temp => Sys2Proof.Machine.execThermalThrottle unit temp s
  | .thermalRelease unit temp => Sys2Proof.Machine.execThermalRelease unit temp s
  | .thermalTrip unit => Sys2Proof.Machine.execThermalTrip unit s
  | .wearFlush => Sys2Proof.Machine.execWearFlush s
  | .reservedOpcode word => Sys2Proof.Machine.execReservedOpcode word s
  | .portLinkLoss port => Sys2Proof.Machine.execPortLinkLoss port s
  | .replicaWriteApplied die => Sys2Proof.Machine.execReplicaWriteApplied die s
  | .unitTemperatureChange unit temp secs => Sys2Proof.Machine.execUnitTemperatureChange unit temp secs s
  | .modulePowerCap unit watts => Sys2Proof.Machine.execModulePowerCap unit watts s

end Sys2Proof.Machine
end

