-- ==== Sys2Proof/Machine/Step.lean ====
section
/-! DEFINITION. The step of the machine, and the placing of a word for the next step. -/

namespace Sys2Proof.Machine

/-- One step: the next turn is an instruction or device event, or it is a state. -/
def step (s : State) : Host.Outcome State Fault Refusal :=
  match s.turn exec with
  | .run i t => exec i t
  | .rest t => .next t

/-- A state whose next step runs an instruction word. -/
def State.withFetchWord (s : State) (nbits w : Nat) : State := s.placeWord nbits w

end Sys2Proof.Machine
end

