-- ==== Sys2Proof/Machine/Consistency.lean ====
section
/-! DEFINITION. The memory consistency model (R286 to R307): which candidate executions of several parties are allowed. An
execution is plain data: the byte events of all parties, what each read returns, and the orders the rules speak of. The
machine itself runs one event after another; State.peek and State.poke show some of the executions allowed here. -/

namespace Sys2Proof.Machine.Consistency

open Sys2Proof

/-! ### Parties and events -/

/-- A party (R287): a thread, an engine thread with the number of its operation, or a host agent; those of other endpoints of
the domain are parties as well. -/
structure Party where
  host : Bool
  engine : Option Nat
deriving DecidableEq, Repr

/-- Where a party stands at an event: its endpoint and die, and the gang, block, group and quad it is in, numbered apart over
all devices. A group lasts from a resume to the next segment end, so a thread's change as it goes on (R291); an engine
thread has its issuer's, and no quad. -/
structure Place where
  endpoint : Nat
  die : Nat
  gang : Option Nat
  block : Option Nat
  group : Option Nat
  quad : Option Nat
deriving DecidableEq, Repr

/-- A party that takes part in an event. -/
structure Actor where
  party : Nat
  place : Place
deriving DecidableEq, Repr

/-- Page kinds (R144, R288). -/
inductive PageKind where
  | so | rc | uo
deriving DecidableEq, Repr

/-- Kinds of FENCE (R161). -/
inductive FenceKind where
  | acq | rel | acqrel | all
deriving DecidableEq, Repr

/-- The rows of the table of R299: an engine operation's fork and join, barriers, queues, a segment's end and resume, the
issue of a span's flag and its delivery, the delivery and what observes it, tasks, launches and copies, service requests,
and the work of a block before and after it is forwarded. -/
inductive SyncRow where
  | fork | join | barrier | queue | segment | span | delivered | task | launch | ecall | forward
deriving DecidableEq, Repr

/-- What an event is (R288): an access of one byte, a fence, or a side of a row of R299. The key names what the two sides
have in common: the operation, the barrier's phase, the queue's entry, the record, the span, the slot, the launch, the
request, the block. -/
inductive EvKind where
  | read | write | rmw
  | fence (k : FenceKind)
  | sync (row : SyncRow) (release : Bool) (key : Nat)
deriving DecidableEq, Repr

/-- An event. `actors` are the parties in whose program order it stands: each active lane of an instruction that acts once for
the group (R287). `scratch` says that the location is a byte of a scratchpad, `replicated` that it lies on a replicated page
(R303), `home` and `homeDie` where its memory and the memory's controller are. `acc` joins the bytes of one single-copy
atomic part of an access (R142, R290), 0 for a byte alone; `op` joins the lanes of one ATOM, 0 for another event (R301);
`span` is the counted span of a remote write, `flag` the span whose flag a write is (R299); `table` is the hash table of a
key step (R302). `ret` is the write whose value a read returns, none for the initial value. -/
structure Ev where
  actors : List Actor
  kind : EvKind
  page : PageKind
  loc : Nat
  scratch : Bool
  home : Nat
  homeDie : Nat
  replicated : Bool
  ord : Ord
  scope : Scope
  acc : Nat
  op : Nat
  span : Option Nat
  flag : Option Nat
  table : Option Nat
  ret : Option Nat
deriving DecidableEq, Repr

/-- A candidate execution: events by number, those of a party in its program order; the coherence order of all writes (of
which the order at a location is a part, and which is the sequence order of replicated writes); the order of the SO
accesses (R297), of FENCE .all (R298), of the remote writes as they are sent (R305) and of the key steps (R302); the order an
engine thread's description gives its events (R287); and the dependences (R296). -/
structure Execution where
  parties : List Party
  events : List Ev
  co : List Nat
  so : List Nat
  fences : List Nat
  sent : List Nat
  steps : List Nat
  engineOrder : List (Nat × Nat)
  deps : List (Nat × Nat)
deriving DecidableEq, Repr

def Place.none : Place := { endpoint := 0, die := 0, gang := .none, block := .none, group := .none, quad := .none }

namespace Execution

def party (x : Execution) (n : Nat) : Party := x.parties.getD n { host := false, engine := .none }

def ev (x : Execution) (i : Nat) : Ev :=
  x.events.getD i { actors := [], kind := .sync .fork false 0, page := .rc, loc := 0, scratch := false, home := 0, homeDie := 0
                    replicated := false, ord := .plain, scope := .none, acc := 0, op := 0, span := none, flag := none
                    table := none, ret := none }

def ids (x : Execution) : List Nat := List.range x.events.length

end Execution

/-! ### What an event is -/

def Ev.isAccess (e : Ev) : Bool := match e.kind with | .read | .write | .rmw => true | _ => false
def Ev.writes (e : Ev) : Bool := match e.kind with | .write | .rmw => true | _ => false
def Ev.reads (e : Ev) : Bool := match e.kind with | .read | .rmw => true | _ => false

/-- Where the event is made. -/
def Ev.place (e : Ev) : Place := match e.actors with
  | a :: _ => a.place
  | [] => Place.none

/-- An event of a host agent. -/
def Execution.byHost (x : Execution) (e : Ev) : Bool := e.actors.any (fun a => (x.party a.party).host)

/-- The engine operation whose thread makes an event. -/
def Execution.engineOf (x : Execution) (e : Ev) : Option Nat := e.actors.findSome? (fun a => (x.party a.party).engine)

/-- A release (R293). -/
def Ev.isRelease (e : Ev) : Bool :=
  match e.kind with
  | .fence k => k != .acq
  | .sync _ r _ => r
  | _ => e.ord == .release || e.ord == .acqrel

/-- An acquire (R293); a host's read acts as one at system scope (R307). -/
def Execution.isAcquire (x : Execution) (e : Ev) : Bool :=
  match e.kind with
  | .fence k => k != .rel
  | .sync _ r _ => !r
  | .read => e.ord == .acquire || e.ord == .acqrel || x.byHost e
  | _ => e.ord == .acquire || e.ord == .acqrel

/-- The scope an event names. -/
def Execution.scopeOf (x : Execution) (e : Ev) : Scope := if x.byHost e then .system else e.scope

/-! ### The events of an instruction (R288) -/

/-- The kind of page an access is made through (R144, R288): the scratchpad windows are RC, another has the ORD of its
page's entry (R320). -/
def pageKind (va : Nat) (e : W64) : PageKind :=
  if 0xFD ≤ bitsOf va 72 8 ∧ bitsOf va 72 8 ≤ 0xFE then .rc
  else match pteOrd e with
    | 0 => .so
    | 1 => .rc
    | _ => .uo

/-- The kind of the byte events of a memory instruction: reads, writes, and the read-modify-writes of R288. -/
def accessKind : Instr → Option EvKind
  | .ld _ | .ldw _ | .ldx _ | .ald _ | .aldSparse _ => some .read
  | .st _ | .stw _ | .stx _ | .dcz _ | .ast _ | .asts _ => some .write
  | .nibst _ | .atom _ | .atomw _ | .tbinit _ | .tbarv _ | .tbexp _ | .tbwait _ | .tbphase _ | .qinit _ | .qpush _ | .qpop _
  | .qtryPop _ | .qtryPush _ | .qgrant _ | .qstat _ | .htprobe _ | .htins _ | .htdel _ | .htacc _ => some .rmw
  | _ => none

/-- ORD and SCOPE of a memory instruction (R54, R144). -/
def ordering : Instr → Ord × Scope
  | .ld f | .st f | .ldw f | .stw f | .ldx f | .stx f | .nibst f | .atom f | .atomw f | .dcz f => (f.ord, f.scope)
  | _ => (.plain, .none)

/-- The events of one single-copy atomic part of an access (R142): one for each byte, joined where there are several. -/
def partEvents (i : Instr) (proto : Ev) (acc : Nat) (locs : List Nat) : List Ev :=
  match accessKind i with
  | some k => locs.map (fun a => { proto with
      kind := k, loc := a, acc := if locs.length = 1 then 0 else acc, ord := (ordering i).1, scope := (ordering i).2 })
  | none => []

/-- The rows of R299 whose release side an instruction's issue can be. -/
def releaseRows : Instr → List SyncRow
  | .xcopy _ | .xgath _ | .xscat _ | .sinter _ | .smerge _ | .xtmpl _ | .htdrain _ | .mrcv _ => [.fork]
  | .tbarv _ => [.barrier]
  | .qpush _ => [.queue, .segment]
  | .qtryPush _ => [.queue]
  | .park _ | .yield _ | .await _ | .tbwait _ | .qpop _ => [.segment]
  | .xflag _ => [.span]
  | .tkrsv _ | .tkpub _ | .tksig _ => [.task]
  | .launch _ => [.launch]
  | .ecall _ => [.ecall]
  | _ => []

/-- The rows whose acquire side an instruction can be where it does not park. -/
def acquireRows : Instr → List SyncRow
  | .await _ => [.join, .ecall]
  | .tbwait _ | .tbphase _ => [.barrier]
  | .qpop _ | .qtryPop _ => [.queue]
  | _ => []

/-! ### Scopes (R291, R292) -/

def sameSome (a b : Option Nat) : Bool := a.isSome && a == b

/-- Q lies in P's instance of a scope. -/
def Place.inInstance (s : Scope) (hosts : Bool) (p q : Place) : Bool :=
  match s with
  | .quad => sameSome p.quad q.quad
  | .group => sameSome p.group q.group
  | .block => sameSome p.block q.block
  | .gang => sameSome p.gang q.gang
  | .package => !hosts && p.endpoint == q.endpoint
  | .domain => !hosts
  | .system => true
  | .none => false

/-- A party of each event lies in the other's instance, of the scope named for each. -/
def Execution.within (x : Execution) (s t : Scope) (a b : Ev) : Bool :=
  let hosts := x.byHost a || x.byHost b
  a.actors.any (fun p => b.actors.any (fun q => p.place.inInstance s hosts q.place && q.place.inInstance t hosts p.place))

/-- A release and an acquire pair at their scopes. -/
def Execution.pairs (x : Execution) (a b : Ev) : Bool := x.within (x.scopeOf a) (x.scopeOf b) a b

/-! ### Synchronisation events (R299) -/

/-- The scope of a row; none where its two sides name their own, that of R167 or of R172. An engine thread and its group are
on one device, and the instance that includes two cores is the domain at most. DEDUCED, log 124. -/
def SyncRow.scope : SyncRow → Option Scope
  | .barrier | .queue => none
  | .fork | .join | .task => some .package
  | .segment | .forward | .span | .delivered => some .domain
  | .launch | .ecall => some .system

/-- Two events are the sides of a row. -/
def Execution.rowSides (x : Execution) (a b : Ev) : SyncRow → Bool
  | .fork => match a.kind with
    | .sync .fork true k => x.engineOf b == some k
    | _ => false
  | .join => match b.kind with
    | .sync .join false k => x.engineOf a == some k
    | _ => false
  | .span => match b.kind with
    | .sync .span false k => a.kind == .sync .span true k || (a.writes && a.span == some k)
    | _ => false
  | .delivered => match a.kind with
    | .sync .delivered true k => b.kind == .sync .delivered false k
        || (b.reads && x.isAcquire b && (x.scopeOf b == .domain || x.scopeOf b == .system) && (match b.ret with
          | some w => (x.ev w).flag == some k
          | none => false))
    | _ => false
  | r => match a.kind, b.kind with
    | .sync p true k, .sync q false l => p == r && q == r && k == l
    | _, _ => false

/-- The rows of the table. -/
def rows : List SyncRow := [.fork, .join, .barrier, .queue, .segment, .span, .delivered, .task, .launch, .ecall, .forward]

/-- Two events are the sides of a row, and its scope holds both. -/
def Execution.synced (x : Execution) (a b : Ev) : Bool :=
  rows.any (fun r => x.rowSides a b r && (match r.scope with
    | some s => x.within s s a b
    | none => x.pairs a b))

/-! ### Orders -/

/-- i stands before j in a list. -/
def before (l : List Nat) (i j : Nat) : Bool := l.contains i && l.contains j && decide (l.idxOf i < l.idxOf j)

namespace Execution

/-- Program order of a party of both events: of a thread or host the events' order, of an engine thread what its description
gives (R287). -/
def po (x : Execution) (i j : Nat) : Bool :=
  (x.ev i).actors.any (fun a => (x.ev j).actors.any (fun b => a.party == b.party))
    && (if (x.engineOf (x.ev i)).isSome then x.engineOrder.contains (i, j) else decide (i < j))

/-- Coherence order of two writes to one location (R289). -/
def coBefore (x : Execution) (i j : Nat) : Bool := (x.ev i).loc == (x.ev j).loc && before x.co i j

/-- A write is coherence-before, or is, another; none is the initial value. -/
def coLe (x : Execution) (i : Option Nat) (j : Option Nat) : Bool :=
  match i, j with
  | none, _ => true
  | some _, none => false
  | some i, some j => i == j || x.coBefore i j

/-- A write of another endpoint's memory: an event at the target when the target applies it (R305). -/
def remoteWrite (x : Execution) (e : Ev) : Bool := !x.byHost e && e.kind == .write && e.home != e.place.endpoint

/-- w belongs to the release sequence of the write a (R294). -/
def inSequence (x : Execution) (a w : Nat) : Bool :=
  a == w || (x.coBefore a w
    && x.co.all (fun v => !(x.coBefore a v && (v == w || x.coBefore v w)) || (x.ev v).kind == .rmw))

/-- The writes that stand for a release: its own, or for a fence the writes that follow it. -/
def releaseWrites (x : Execution) (a : Nat) : List Nat :=
  match (x.ev a).kind with
  | .fence _ => x.ids.filter (fun w => x.po a w && (x.ev w).writes)
  | _ => if (x.ev a).writes then [a] else []

/-- The reads that stand for an acquire: its own, or for a fence the reads that precede it. -/
def acquireReads (x : Execution) (b : Nat) : List Nat :=
  match (x.ev b).kind with
  | .fence _ => x.ids.filter (fun r => x.po r b && (x.ev r).reads)
  | _ => if (x.ev b).reads then [b] else []

/-- Synchronises-with (R294): a release and an acquire that reads from it, or a pair of R299. -/
def sw (x : Execution) (a b : Nat) : Bool :=
  x.synced (x.ev a) (x.ev b)
    || ((x.ev a).isRelease && x.isAcquire (x.ev b) && x.pairs (x.ev a) (x.ev b)
        && (x.releaseWrites a).any (fun w => (x.acquireReads b).any (fun r => match (x.ev r).ret with
          | some v => x.inSequence w v
          | none => false)))

/-- The table of R295: an ordering point orders an access of its party. -/
def orders (p a : Ev) : Bool :=
  a.isAccess && (match p.kind with
    | .sync _ _ _ | .fence .all => true
    | _ => a.page != .uo)

/-- Ordered-before within one party (R295, R307). A release waits for a remote write to leave, not for its application, so
it does not order it (R305); the writes of a span are themselves paired with the delivery (R299). -/
def ob (x : Execution) (i j : Nat) : Bool :=
  let a := x.ev i
  let b := x.ev j
  x.po i j
    && ((a.isAccess && b.isAccess && a.page == .so && b.page == .so)
        || (b.isRelease && ((orders b a && !x.remoteWrite a) || a.isRelease || x.isAcquire a))
        || (x.isAcquire a && (orders a b || b.isRelease || x.isAcquire b))
        || (x.byHost a && a.kind == .write))

/-- Two FENCE .all events are ordered by their total order when each one's instance holds the other's party (R298). -/
def fenceBefore (x : Execution) (i j : Nat) : Bool := before x.fences i j && x.pairs (x.ev i) (x.ev j)

/-- What the order of FENCE .all puts before: every access before the first, every access after the second. -/
def acrossFences (x : Execution) (a b : Nat) : Bool :=
  (x.ev a).isAccess && (x.ev b).isAccess
    && x.fences.any (fun f => x.po a f && x.fences.any (fun g => x.fenceBefore f g && x.po g b))

def edge (x : Execution) (i j : Nat) : Bool := x.ob i j || x.sw i j || x.acrossFences i j

/-- Events reached by n edges or fewer from some events. -/
def reach (x : Execution) : Nat → List Nat → List Nat
  | 0, l => l
  | n + 1, l => reach x n (l ++ x.ids.filter (fun j => !l.contains j && l.any (fun i => x.edge i j)))

/-- Happens-before (R295, R298). -/
def hb (x : Execution) (i j : Nat) : Bool :=
  (x.reach x.events.length (x.ids.filter (x.edge i))).contains j

/-! ### What is allowed -/

/-- An event as such: it has its parties, all of one place but for their quads, a scratchpad byte is RC (R144), and only an
ATOM's read-modify-writes are joined as its lanes (R301). -/
def formed (x : Execution) (e : Ev) : Bool :=
  !e.actors.isEmpty
    && e.actors.all (fun a => decide (a.party < x.parties.length) && { a.place with quad := none } == { e.place with quad := none })
    && (!(e.isAccess && e.scratch) || e.page == .rc) && (e.op == 0 || e.kind == .rmw)

/-- The data is an execution: reads return writes to their locations, the orders list what they order, once each. -/
def shaped (x : Execution) : Bool :=
  x.ids.all (fun i =>
    let e := x.ev i
    x.formed e
      && (match e.ret with
          | none => true
          | some w => e.reads && decide (w < x.events.length) && (x.ev w).writes && (x.ev w).loc == e.loc && w != i)
      && e.writes == x.co.contains i
      && (e.isAccess && e.page == .so) == x.so.contains i
      && (e.kind == .fence .all) == x.fences.contains i
      && x.remoteWrite e == x.sent.contains i
      && (e.isAccess && e.table.isSome) == x.steps.contains i)
    && x.co.Nodup && x.so.Nodup && x.fences.Nodup && x.sent.Nodup && x.steps.Nodup
    && (x.co ++ x.so ++ x.fences ++ x.sent ++ x.steps).all (fun i => decide (i < x.events.length))
    && x.ids.all (fun i => x.ids.all (fun j => (x.ev i).loc != (x.ev j).loc || !(x.ev i).isAccess || !(x.ev j).isAccess
        || (x.ev i).replicated == (x.ev j).replicated))

/-- The rules of coherence (R289), and the order in which the lanes of one ATOM reach a location (R301). -/
def coherent (x : Execution) : Bool :=
  x.ids.all (fun i =>
    let a := x.ev i
    -- the write of a read-modify-write follows at once the write it read
    (a.kind != .rmw || (x.coLe a.ret (some i)
        && x.co.all (fun w => (x.ev w).loc != a.loc || w == i || x.coLe (some w) a.ret || x.coBefore i w)))
      && x.ids.all (fun j =>
        let b := x.ev j
        !(x.po i j && a.loc == b.loc)
          || ((!(a.writes && b.writes) || x.coBefore i j)
              && (!(a.writes && b.reads) || x.coLe (some i) b.ret)
              && (!(a.reads && b.reads) || x.coLe a.ret b.ret)
              && (!(a.reads && b.writes) || (x.coLe a.ret (some j) && a.ret != some j))))
      && x.ids.all (fun j =>
        !(a.op != 0 && a.op == (x.ev j).op && a.loc == (x.ev j).loc && decide (i < j)) || x.coBefore i j))

/-- A single-copy atomic write is seen whole or not at all by a single-copy atomic read (R290): where they overlap, either
every byte read is that write's or later in coherence order, or every one is earlier. DEDUCED, log 124. -/
def atomic (x : Execution) : Bool :=
  let part (i j : Nat) : Bool := i == j || ((x.ev i).acc != 0 && (x.ev i).acc == (x.ev j).acc)
  x.ids.all (fun w => !(x.ev w).writes || x.ids.all (fun r => !(x.ev r).reads || (x.ev r).loc != (x.ev w).loc || part w r
    || x.ids.all (fun w' => !(x.ev w').writes || !part w w' || x.ids.all (fun r' => !(x.ev r').reads || !part r r' || (x.ev r').loc != (x.ev w').loc
      || (x.coLe (some w) (x.ev r).ret == x.coLe (some w') (x.ev r').ret)))))

/-- The conditions of R296: no cycle, no read of a later or of an overwritten value, no value out of thin air. -/
def justified (x : Execution) : Bool :=
  let from_ (i j : Nat) : Bool := x.deps.contains (i, j) || (x.ev j).ret == some i
  let rec depReach : Nat → List Nat → List Nat
    | 0, l => l
    | n + 1, l => depReach n (l ++ x.ids.filter (fun j => !l.contains j && l.any (fun i => from_ i j)))
  x.ids.all (fun i =>
    !x.hb i i
      && !(depReach x.events.length (x.ids.filter (from_ i))).contains i
      && (!(x.ev i).reads || ((match (x.ev i).ret with | some w => !x.hb i w | none => true)
          && x.co.all (fun w => (x.ev w).loc != (x.ev i).loc || !x.hb w i || x.coLe (some w) (x.ev i).ret))))

/-- The order of SO accesses (R297): program order and happens-before agree with it, and a location that every party
reaches through SO mappings only reads the last write before. -/
def strong (x : Execution) : Bool :=
  x.so.all (fun i => x.so.all (fun j =>
      (!x.po i j || before x.so i j) && (!x.hb i j || before x.so i j)))
    && x.so.all (fun r =>
      let e := x.ev r
      let here := x.ids.filter (fun j => (x.ev j).isAccess && (x.ev j).loc == e.loc)
      !e.reads || !(here.all (fun j => (x.ev j).page == .so))
        || e.ret == (x.so.filter (fun w => (x.ev w).writes && (x.ev w).loc == e.loc && before x.so w r)).getLast?)

/-- The order of FENCE .all agrees with happens-before (R298). -/
def fenced (x : Execution) : Bool :=
  x.fences.all (fun i => x.fences.all (fun j => !(x.pairs (x.ev i) (x.ev j) && x.hb i j) || before x.fences i j))

/-- A release that drains write-combining buffers (R161, R306). -/
def drains (x : Execution) (e : Ev) : Bool :=
  e.isRelease && (match e.kind with
    | .sync r _ _ => r == .span || r == .launch || r == .ecall
    | _ => x.scopeOf e == .domain || x.scopeOf e == .system)

/-- Remote writes (R305): one endpoint's to a location are applied in the order sent; and a write that a draining release
follows has left before whatever comes after the release is sent. -/
def inSentOrder (x : Execution) : Bool :=
  x.sent.all (fun i => x.sent.all (fun j =>
    (!(before x.sent i j && (x.ev i).place.endpoint == (x.ev j).place.endpoint && (x.ev i).loc == (x.ev j).loc) || x.coBefore i j)
      && (!(x.ids.any (fun r => x.drains (x.ev r) && x.po i r && (x.hb r j || x.po r j))) || before x.sent i j)))

/-- Key steps (R302): those of a table lie in one order, with which program order and coherence order agree, and a step
reads the table as the steps before left it. -/
def keyed (x : Execution) : Bool :=
  x.steps.all (fun i => x.steps.all (fun j =>
    (x.ev i).table != (x.ev j).table
      || ((!x.po i j || before x.steps i j)
        && (!(before x.steps i j && (x.ev i).loc == (x.ev j).loc)
          || ((!((x.ev i).writes && (x.ev j).writes) || x.coBefore i j)
            && (!((x.ev i).writes && (x.ev j).reads) || x.coLe (some i) (x.ev j).ret)
            && (!((x.ev i).reads && (x.ev j).writes) || (x.coLe (x.ev i).ret (some j) && (x.ev i).ret != some j)))))))

/-- The replica a read is served by: that of its core's die, and for a host's or a remote read that of the die whose
controller is the line's home (R303). -/
def replicaOf (x : Execution) (e : Ev) : Nat × Nat :=
  (e.home, if x.byHost e || e.home != e.place.endpoint then e.homeDie else e.place.die)

/-- How many replicated writes, in sequence order, a die has applied at least and at most when a read returns its value
(R303). -/
def replicas (x : Execution) : List Nat := x.co.filter (fun w => (x.ev w).replicated)
def atLeast (x : Execution) (r : Nat) : Nat :=
  match (x.ev r).ret with
  | some w => x.replicas.idxOf w + 1
  | none => 0
def atMost (x : Execution) (r : Nat) : Nat :=
  match x.replicas.find? (fun w => (x.ev w).loc == (x.ev r).loc && !x.coLe (some w) (x.ev r).ret) with
  | some w => x.replicas.idxOf w
  | none => x.replicas.length

/-- Replicated pages (R303, R304): the sequence order agrees with program order and happens-before; a party's reads that
are ordered and served by one replica see ever more of it; and a write that happens before a read has been applied. -/
def replicated (x : Execution) : Bool :=
  x.replicas.all (fun i => x.replicas.all (fun j => !(x.po i j || x.hb i j) || before x.replicas i j))
    && x.ids.all (fun r => !((x.ev r).kind == .read && (x.ev r).replicated)
      || (x.ids.all (fun q => !((x.ev q).kind == .read && (x.ev q).replicated && x.ob r q
            && x.replicaOf (x.ev r) == x.replicaOf (x.ev q)) || decide (x.atLeast r ≤ x.atMost q))
          && x.replicas.all (fun w => !x.hb w r || decide (x.replicas.idxOf w < x.atMost r))))

/-- The execution is allowed. -/
def allowed (x : Execution) : Bool :=
  x.shaped && x.coherent && x.atomic && x.justified && x.strong && x.fenced && x.inSentOrder && x.keyed && x.replicated

/-! ### Executions of one event after another -/

/-- The last write to a location before an event. -/
def lastWrite (x : Execution) (i : Nat) : Option Nat :=
  ((List.range i).filter (fun w => (x.ev w).writes && (x.ev w).loc == (x.ev i).loc)).getLast?

/-- Every event takes its place in the order of the events, as in the machine of this model: a read returns the last write
before it, the bytes of one access stand together, and what waits for another event comes after it. -/
def sequential (x : Execution) : Bool :=
  x.co == x.ids.filter (fun i => (x.ev i).writes)
    && x.so == x.ids.filter (fun i => (x.ev i).isAccess && (x.ev i).page == .so)
    && x.fences == x.ids.filter (fun i => (x.ev i).kind == .fence .all)
    && x.sent == x.ids.filter (fun i => x.remoteWrite (x.ev i))
    && x.steps == x.ids.filter (fun i => (x.ev i).isAccess && (x.ev i).table.isSome)
    && x.ids.all (fun i => x.formed (x.ev i)
        && (x.ev i).ret == (if (x.ev i).reads then x.lastWrite i else none))
    && x.ids.all (fun i => x.ids.all (fun j => !x.synced (x.ev i) (x.ev j) || decide (i < j)))
    && x.ids.all (fun i => x.ids.all (fun j => (x.ev i).loc != (x.ev j).loc || !(x.ev i).isAccess || !(x.ev j).isAccess
        || (x.ev i).replicated == (x.ev j).replicated))
    && (x.engineOrder ++ x.deps).all (fun p => decide (p.1 < p.2))
    && x.ids.all (fun i => x.ids.all (fun j => x.ids.all (fun k =>
        !(decide (i < j) && decide (j < k) && (x.ev i).acc != 0 && (x.ev i).acc == (x.ev k).acc) || (x.ev j).acc == (x.ev i).acc)))

end Execution

end Sys2Proof.Machine.Consistency
end

