-- ==== Sys2Proof/Safety.lean ====
section
/-! DEFINITION. What counts as a safe run, and the terms statements about the machine are phrased in: memory in its one
canonical form, a word whose operands are there, what a word leaves as it was, and where the bytes of backing slots and
page-table entries lie. -/

namespace Sys2Proof.Machine

/-! ### Safe runs -/

/-- Memory is in its canonical form: addresses strictly rising, no entry that holds what an unlisted address reads as. -/
abbrev Memory.wf (m : List Host.Cell) : Bool := SMap.wf (0 : Byte) m

/-- The invariant of the machine's memory. -/
def State.MemInv (s : State) : Prop := Memory.wf s.mem = true

/-- A step goes on. -/
def State.GoesOn (s : State) : Prop := ∃ t, step s = .next t

/-- An instruction or event completes, and the next state has a property. -/
def Completes (i : Instr) (s : State) (P : State → Prop) : Prop := ∃ t, exec i s = .next t ∧ P t

/-! ### The start of a word -/

/-- The issuing group runs a clause, and some lane is active for a word with this guard (R14, R46). -/
abbrev State.Active (s : State) (gd : Guard) : Prop := s.g.run.isSome = true ∧ s.g.active gd ≠ []

/-- The operands of a word are there: no register it names holds a pending token (R20), no source of an active lane is
poisoned (R380), and the backing slots of the registers at or above B translate (R17). -/
abbrev State.OperandsThere (s : State) (i : Instr) (gd : Guard) : Prop :=
  s.g.tokenWait (opcodeOf i) (wordRegs i) = false ∧ s.g.poisonRead (s.g.active gd) (wordRegs i) = none
    ∧ (s.checkBacking (s.backing (s.g.active gd) (wordRegs i))).isOk = true

/-- A word that is to execute: active lanes, and its operands there. -/
abbrev State.Ready (s : State) (i : Instr) (gd : Guard) : Prop := s.Active gd ∧ s.OperandsThere i gd

/-- The state in which a ready word takes its own checks and effects: the translations of its backing slots made, the keep
latch filled (R17, R59). It is the state itself, but for the latch, where every register named lies below B. -/
def State.opened (s : State) (i : Instr) (gd : Guard) : State :=
  match s.checkBacking (s.backing (s.g.active gd) (wordRegs i)) with
  | .ok s1 => { s1 with g := s1.g.fillKeep i (s.g.active gd) }
  | .error _ => s

/-! ### What a word leaves as it was -/

/-- Runs of bytes by their first location and length: an address lies in none of them. -/
abbrev Outside (a : Nat) (rs : List (Nat × Nat)) : Prop := ∀ r ∈ rs, a < r.1 ∨ r.1 + r.2 ≤ a

/-- Where an access of one page can change memory beside the bytes it stores: its page-table entry, whose A and D bits
are set (R323), and its frame where that is to be zero-filled (R315). -/
def leafReach (e : W64) (addr : Nat) : List (Nat × Nat) := [(addr, 8), (pteFrame e, if pteZf e then 65536 else 0)]

/-- What the translation of a piece can change. -/
def Piece.reach (p : Piece) : List (Nat × Nat) :=
  match p.pte with
  | some (e, _, addr) => leafReach e addr
  | none => []

/-- Where the backing slots of a word lie, with what their translations can change: nothing where every register it
names lies below B (R17). -/
def State.slotReach (s : State) (i : Instr) (gd : Guard) : List (Nat × Nat) :=
  (s.backing (s.g.active gd) (wordRegs i)).flatMap (fun x => match s.lookup s.g.asid x.2.1 with
    | .leaf e lvl addr => (leafPa e lvl x.2.1, 4) :: leafReach e addr
    | _ => [])

/-- The issuing group but for its lanes, w registers and tile predicates, and the rest of the machine's architectural
state, are as before. -/
structure RestKept (s t : State) : Prop where
  handles : t.g.handles = s.g.handles
  fmtDefault : t.g.fmtDefault = s.g.fmtDefault
  slotSel : t.g.slotSel = s.g.slotSel
  trap : t.g.trap = s.g.trap
  bound : t.g.bound = s.g.bound
  pend : t.g.pend = s.g.pend
  others : t.others = s.others
  acc : t.acc = s.acc
  accPoison : t.accPoison = s.accPoison
  ctxs : t.ctxs = s.ctxs

/-- Everything of a lane but its PC, v registers, predicates and generator is as before. -/
structure LaneKept (x y : Lane) : Prop where
  status : y.status = x.status
  threadId : y.threadId = x.threadId
  mr : y.mr = x.mr
  hold : y.hold = x.hold
  ypc : y.ypc = x.ypc

/-- The registers of the issuing group but for those a word may change: `vs` are (lane, register) pairs, `ps` (lane,
predicate) pairs, `ws` w registers, `rs` lanes whose generator may step. -/
structure RegFrame (s t : State) (vs ps : Nat → Nat → Prop) (ws rs : Nat → Prop) : Prop where
  v : ∀ L n, ¬ vs L n → (t.g.lane L).vr n = (s.g.lane L).vr n
  p : ∀ L n, n < 8 → ¬ ps L n → (t.g.lane L).pred n = (s.g.lane L).pred n
  w : ∀ n, ¬ ws n → t.g.wr n = s.g.wr n
  rng : ∀ L, ¬ rs L → (t.g.lane L).rng = (s.g.lane L).rng
  k : t.g.k = s.g.k
  lane : ∀ L, LaneKept (s.g.lane L) (t.g.lane L)

/-- The frame of a word: the registers, the rest of the machine, and all of memory but the runs `ms` it may change beside
backing slots. -/
structure WordFrame (s t : State) (i : Instr) (gd : Guard) (vs ps : Nat → Nat → Prop) (ws rs : Nat → Prop)
    (ms : List (Nat × Nat)) : Prop extends RegFrame s t vs ps ws rs where
  rest : RestKept s t
  mem : ∀ a, Outside a (ms ++ s.slotReach i gd) → t.mem.get 0 a = s.mem.get 0 a

/-- No register, no predicate of any lane. -/
def noRegs : Nat → Nat → Prop := fun _ _ => False
/-- No register, no lane. -/
def none1 : Nat → Prop := fun _ => False
/-- Registers dst to dst + k − 1 of some lanes. -/
def regsOf (ls : List Nat) (dst k : Nat) : Nat → Nat → Prop := fun L n => L ∈ ls ∧ dst ≤ n ∧ n < dst + k

/-! ### Words that compute in the executing lanes -/

/-- A word that writes k registers from DST in its executing lanes: it completes, each executing lane holds its value
there, and nothing else has changed (R14, R59, R104). -/
def LaneWord (s : State) (i : Instr) (gd : Guard) (dst k : Nat) (val : Nat → Nat) : Prop :=
  s.Ready i gd → Completes i s (fun t =>
    (∀ L ∈ s.g.executing gd, (t.g.lane L).vrN dst k = val L % 2 ^ (32 * k))
      ∧ WordFrame s t i gd (regsOf (s.g.executing gd) dst k) noRegs none1 none1 [])

/-- A word that writes one predicate in its executing lanes. -/
def PredWord (s : State) (i : Instr) (gd : Guard) (p : Nat) (val : Nat → Bool) : Prop :=
  s.Ready i gd → Completes i s (fun t =>
    (∀ L ∈ s.g.executing gd, (t.g.lane L).pred p = val L)
      ∧ WordFrame s t i gd noRegs (regsOf (s.g.executing gd) p 1) none1 none1 [])

/-- A word that writes k w registers from DST once for the group (R19, R112). -/
def UniformWord (s : State) (i : Instr) (gd : Guard) (dst k val : Nat) : Prop :=
  s.Ready i gd → Completes i s (fun t =>
    t.g.wrN dst k = val % 2 ^ (32 * k)
      ∧ WordFrame s t i gd noRegs noRegs (fun n => dst ≤ n ∧ n < dst + k) none1 [])

/-- A word that rounds n times in each executing lane: under rs (R86, R93) the lane's generator takes one step for each,
and the draws are those of R94; otherwise no generator steps. -/
def RoundWord (s : State) (i : Instr) (gd : Guard) (code n dst k : Nat) (val : List Nat → Nat → Nat) : Prop :=
  s.Ready i gd → Completes i s (fun t =>
    (∀ L ∈ s.g.executing gd,
        (s.g.rm code = .rs → (t.g.lane L).vrN dst k = val (draws n (s.g.lane L).rng).1 L % 2 ^ (32 * k)
          ∧ (t.g.lane L).rng = (draws n (s.g.lane L).rng).2)
        ∧ (s.g.rm code ≠ .rs → (t.g.lane L).vrN dst k = val [] L % 2 ^ (32 * k)))
      ∧ WordFrame s t i gd (regsOf (s.g.executing gd) dst k) noRegs none1 (fun L => s.g.rm code = .rs ∧ L ∈ s.g.executing gd) [])

/-! ### Traps -/

/-- The state a precise trap finds: the destinations as they were, with the translations of backing slots made and the
keep latch filled. -/
def SameButSlots (s t : State) : Prop :=
  t = { s with mem := t.mem, hier := t.hier, g := { s.g with keep := t.g.keep } }

/-- A word raises a precise trap before it has written anything (R104, R371). -/
def Traps (i : Instr) (s : State) (t : Trap) : Prop := ∃ s1, SameButSlots s s1 ∧ exec i s = .next (s1.takeTrap t)

/-- The trap of the lowest-numbered active lane that fails a check (R373). -/
def TrapsLowest (i : Instr) (s : State) (gd : Guard) (bad : Nat → Option (Nat × Nat)) : Prop :=
  ∀ L c, s.Ready i gd → L ∈ s.g.active gd → bad L = some c → (∀ M ∈ s.g.active gd, M < L → bad M = none) →
    Traps i s { cause := c.1, detail := c.2, lane := some L }

/-- A word with a check in each active lane: it completes where every active lane passes, and raises the trap of the
lowest that fails. -/
def CheckedWord (s : State) (i : Instr) (gd : Guard) (dst k : Nat) (bad : Nat → Option (Nat × Nat)) (val : Nat → Nat) : Prop :=
  ((∀ L ∈ s.g.active gd, bad L = none) → LaneWord s i gd dst k val) ∧ TrapsLowest i s gd bad

/-! ### Words with effects beyond their registers -/

/-- The effects of a word leave `u`: the v registers it wrote go to their backing slots, and the next word follows. -/
def Ends (i : Instr) (s : State) (gd : Guard) (u : State) : Prop :=
  exec i s = .next (u.saveTo (s.slotPieces (s.g.active gd) (wordRegs i).vw)).advance

/-- A control transfer: the lanes have their PCs, and the clause is over (R129). -/
def Transfers (i : Instr) (s : State) (gd : Guard) (u : State) : Prop :=
  exec i s = .next (u.saveTo (s.slotPieces (s.g.active gd) (wordRegs i).vw)).endTransfer

/-- The local bytes that storing `bs` to the pieces of an access writes, with their locations (R5, R142). -/
def storeCells : List Piece → List Byte → List (Nat × Byte)
  | [], _ => []
  | p :: ps, bs =>
    (if p.ep.isNone then (bs.take p.len).mapIdx (fun j b => (p.loc + j, b)) else []) ++ storeCells ps (bs.drop p.len)

/-- The stores into apertures that storing `bs` to the pieces of an access makes: the context, the offset and the value
(R217). -/
def apertureCells : List Piece → List Byte → List (Nat × BitVec 16 × W32)
  | [], _ => []
  | p :: ps, bs =>
    (match p.ep, p.pte, apertureOf p.loc with
      | none, some (e, _, _), some (a, off) =>
        if pteRep e = false ∧ (bs.take p.len).length = 4 ∧ off % 4 = 0 then
          [(a, BitVec.ofNat 16 off, w32 (bytesNat (bs.take 4)))] else []
      | _, _, _ => []) ++ apertureCells ps (bs.drop p.len)

/-- A piece of local memory that no CXL link that is down covers, and no aperture (R217, R370). -/
abbrev State.PlainPiece (s : State) (p : Piece) : Prop :=
  p.ep = none ∧ s.cxlLost p.loc = false ∧ apertureOf p.loc = none

/-- Where storing to the pieces of an access, and translating it, can change memory. -/
def storeReach (ps : List Piece) : List (Nat × Nat) := ps.map (fun p => (p.loc, p.len)) ++ ps.flatMap Piece.reach

/-- A release has no replica to wait for, and the state it continues in (R161, R304). -/
def State.released (s : State) (f : FmtM) : State := if ordReleases f.ord then s.releaseDrain f.scope else s

/-- A release at a scope need not wait: no replica is behind, and at domain and system scope what the core sends has left
the device (R161, R304, R305). -/
abbrev State.releaseFree (s : State) (sc : Scope) : Prop :=
  s.releaseWaits sc = false ∧ (sc = .domain ∨ sc = .system → (s.releaseDrain sc).notLeft s.g.core = false)

/-- A memory word need not wait for what its ORD orders. -/
abbrev State.orderFree (s : State) (f : FmtM) : Prop := ordReleases f.ord = true → s.releaseFree f.scope

/-- Bytes may be stored to these pieces: the remote ones find the buffer free, none of the pages is moving, and one into an
aperture is a release at system scope that need not wait (R217, R229, R329). -/
abbrev State.mayStore (s : State) (ps : List Piece) : Prop :=
  s.storeWaits ps = false ∧ ((∃ p ∈ ps, p.ep = none ∧ (apertureOf p.loc).isSome = true) → s.releaseFree .system)

/-- A store need not wait: its ORD lets it go, and its bytes may be stored. -/
abbrev State.storeFree (s : State) (f : FmtM) (ps : List Piece) : Prop := s.orderFree f ∧ (s.released f).mayStore ps

/-- A token is pending in w register `wd`: the group waits for the operation of that serial number (R20). -/
def TokenMade (s t : State) (wd unit : Nat) : Prop :=
  t.g.pend.get 0 wd = s.serial ∧ (∀ n, n ≠ wd → t.g.pend.get 0 n = s.g.pend.get 0 n)
    ∧ (∃ o, { serial := s.serial, core := s.g.core, unit := unit, op := o } ∈ t.toks) ∧ s.serial < t.serial

/-- Bytes stored from a location, where no backing slot of the word lies. -/
def Stored (s t : State) (i : Instr) (gd : Guard) (loc : Nat) (bs : List Byte) : Prop :=
  ∀ j, j < bs.length → Outside (loc + j) (s.slotReach i gd) → t.mem.get 0 (loc + j) = bs.getD j 0

/-- The frame of a word that acts on blocks, records, engines or the fabric: the issuing group's registers but those named,
its other fields, the tile accumulators, and all of memory but the runs `ms` and backing slots. -/
structure OwnFrame (s t : State) (i : Instr) (gd : Guard) (vs : Nat → Nat → Prop) (ws : Nat → Prop)
    (ms : List (Nat × Nat)) : Prop extends RegFrame s t vs noRegs ws none1 where
  handles : t.g.handles = s.g.handles
  fmtDefault : t.g.fmtDefault = s.g.fmtDefault
  slotSel : t.g.slotSel = s.g.slotSel
  trap : t.g.trap = s.g.trap
  bound : t.g.bound = s.g.bound
  acc : t.acc = s.acc
  accPoison : t.accPoison = s.accPoison
  mem : ∀ a, Outside a (ms ++ s.slotReach i gd) → t.mem.get 0 a = s.mem.get 0 a

/-- The traps of a group: no lane is named. -/
def TrapsGroup (i : Instr) (s : State) (gd : Guard) (c d : Nat) : Prop :=
  s.Ready i gd → Traps i s { cause := c, detail := d, lane := none }

/-! ### Segments that end -/

/-- The word the group runs, as its clause holds it. -/
def State.Issues (s : State) (r : Run) (i : Instr) : Prop :=
  s.g.run = some r ∧ decodeWord [] (r.words.getD r.wix 0) = .ok i

/-- Every LIVE lane of the group runs the word, no lane is held, no record of it waits to be written, and no trap handler
runs. -/
abbrev State.AllActive (s : State) (gd : Guard) (r : Run) : Prop :=
  s.g.gid ≠ 0 ∧ s.g.trap = none ∧ s.g.held = [] ∧ s.g.parkStall = none
    ∧ ∀ L, L < 32 → (s.g.lane L).isLive = true → L ∈ s.g.active gd ∧ (s.g.lane L).pc = r.pc

/-- The quads of the group that hold a thread. -/
def Group.liveQuads (g : Group) : List Nat := below 8 (fun q => !(g.quadLive q).isEmpty)

/-- The record pool has room for the records of every quad, n registers each (R261, R265). -/
abbrev State.ParkRoom (s : State) (n : Nat) : Prop :=
  (s.poolFind s.g.asid (s.g.liveQuads.length * recUnits n)).isSome = true

/-- The group has left its core, and each of its quads is a durable record that satisfies P, with the time, the threads,
resume PCs, meetings and first n registers of its lanes; one that its backing slot holds is copied from there, as `u` has
it, where the trace of parks does not write memory in between (R17, R260, R261, R386). The other groups stay as they are;
where the word `wakes` records, only those a parking-stalled group has yet to write may be woken (R265, R266). -/
def Parks (wakes : Prop) (s u t : State) (n : Nat) (lpc : Nat → W32) (P : Rec → Prop) : Prop :=
  t.g = Group.off ∧ (¬ wakes → t.others = s.others) ∧ t.acc = s.acc
    ∧ t.others.map (fun g => { g with parkStall := none }) = s.others.map (fun g => { g with parkStall := none })
    ∧ ∀ q, q < 8 → s.g.quadLive q ≠ [] → ∃ r ∈ t.records,
        P r ∧ r.asid = s.g.asid ∧ r.launch = s.g.launch ∧ r.nlive = n ∧ r.durable = true ∧ r.tstamp = s.now
          ∧ ∀ j, j < 4 → r.live.getLsbD j = (s.g.lane (4 * q + j)).isLive
            ∧ ((s.g.lane (4 * q + j)).isLive = true →
                r.tids.getD j 0 = (s.g.lane (4 * q + j)).threadId ∧ r.lpcs.getD j 0 = lpc (4 * q + j)
                  ∧ r.mrs.getD j 0 = (s.g.lane (4 * q + j)).mr
                  ∧ ∀ m, m < n → m < s.g.bound ∨ (s.devRegs.get 0 (traceReg (dieOf s.g.core) 3)).getLsbD 0 = false →
                      r.regs.get 0 (4 * m + j) = u.recordReg (4 * q + j) m)

/-- The user-level trap handler has been entered for a trap at a resume point: the TRAP_ registers tell it, the handler
lanes go to TRAP_PC with what they left saved, and nothing else of the group has changed (R374). -/
def HandlerEntered (s t : State) (x : Trap) (pc : W32) (wix : Nat) : Prop :=
  t.g.trap = some { cause := w32 x.cause, detail := w32 x.detail, pc := pc, wix := w32 wix
                    lane := match x.lane with | some L => w32 L | none => 0xFFFFFFFF#32
                    words := (s.clauseShape pc).1, after := (s.clauseShape pc).2 }
    ∧ t.g.run = none
    ∧ (∀ L, t.g.lane L = if L < 32 ∧ s.g.handlerLane x.cause pc L = true then
          { s.g.lane L with saved := some { pc := (s.g.lane L).pc, mr := (s.g.lane L).mr, hold := (s.g.lane L).hold }
                            pc := s.cx.trapPc, mr := 0xFFFFFFFF#32, hold := .none, mid := false }
        else s.g.lane L)
    ∧ t.g.w = s.g.w ∧ t.g.k = s.g.k ∧ t.g.handles = s.g.handles ∧ t.g.pend = s.g.pend ∧ t.others = s.others
    ∧ t.acc = s.acc ∧ t.ctxs = s.ctxs
    ∧ ((s.devRegs.get 0 (traceReg (dieOf s.g.core) 3)).getLsbD 5 = false → t.mem = s.mem)

/-- The local bytes that stores to the pieces of several accesses leave, one after another: each access's bytes, unless a
later one stores there too, a CXL link that is down loses them, or they go to an aperture (R142, R217, R370). -/
def StoredIn (s t : State) (acc : List (Nat × List Piece)) (data : Nat → List Byte) : Prop :=
  ∀ x ∈ acc, ∀ c ∈ storeCells x.2 (data x.1), ((storeCells x.2 (data x.1)).map (·.1)).Nodup →
    (∀ y ∈ acc, x.1 < y.1 → ∀ d ∈ storeCells y.2 (data y.1), d.1 ≠ c.1) →
    (∀ p ∈ x.2, p.ep = none → s.PlainPiece p) → t.mem.get 0 c.1 = c.2

/-! ### Tiles -/

/-- A tile word acts on its slot: the slot is in the group's allocation, not pending, loaded, and its tile predicate is
set (R175, R176, R205). -/
abbrev State.TileReady (s : State) (n : Nat) : Prop :=
  s.g.tilePend.get 0 n = 0 ∧ s.g.reload.getLsbD n = false ∧ n < s.g.tiles ∧ s.g.kr n = true

/-- Entry (i, c) of slot n of the issuing group. -/
def State.entry (s : State) (n i c : Nat) : W32 := s.acc.get 0 (s.g.tileKey n + 32 * i + c)

/-- No entry of slot n is poisoned. -/
abbrev State.TileClean (s : State) (n : Nat) : Prop := ∀ j, j < 1024 → s.accPoison.get false (s.g.tileKey n + j) = false

/-- Slot n holds the entries given, none of them poisoned; the entries of every other tile are as before. -/
def TileIs (s t : State) (n : Nat) (val : Nat → Nat → W32) : Prop :=
  (∀ i c, i < 32 → c < 32 → t.acc.get 0 (s.g.tileKey n + 32 * i + c) = val i c
      ∧ t.accPoison.get false (s.g.tileKey n + 32 * i + c) = false)
    ∧ ∀ k, k < s.g.tileKey n ∨ s.g.tileKey n + 1024 ≤ k →
        t.acc.get 0 k = s.acc.get 0 k ∧ t.accPoison.get false k = s.accPoison.get false k

/-- The frame of a tile word beside its slot's entries: registers, bindings but those of `hs`, tokens, and memory but the
runs `ms`. -/
structure TileFrame (s t : State) (i : Instr) (gd : Guard) (vs : Nat → Nat → Prop) (ws rs hs : Nat → Prop)
    (ms : List (Nat × Nat)) : Prop extends RegFrame s t vs noRegs ws rs where
  handles : ∀ n, ¬ hs n → t.g.handles.get noMeeting n = s.g.handles.get noMeeting n
  fmtDefault : t.g.fmtDefault = s.g.fmtDefault
  slotSel : t.g.slotSel = s.g.slotSel
  trap : t.g.trap = s.g.trap
  bound : t.g.bound = s.g.bound
  pend : t.g.pend = s.g.pend
  others : t.others = s.others
  ctxs : t.ctxs = s.ctxs
  mem : ∀ a, Outside a (ms ++ s.slotReach i gd) → t.mem.get 0 a = s.mem.get 0 a

/-! ### Engines -/

/-- An operation of the issuing group has entered the queue of a unit, at its start: with a token in w register `wd`, or
without one (R20, R207). -/
def Started (s t : State) (unit : Nat) (wd : Option Nat) (bar : Option Addr) (kind : EngKind) : Prop :=
  (∃ o, t.engOps = s.engOps ++ [o] ∧ o.kind = kind ∧ o.bar = bar ∧ o.core = s.g.core ∧ o.asid = s.g.asid
      ∧ o.launch = s.g.launch ∧ o.block = s.g.block ∧ o.slot = s.g.slotSel.toNat ∧ o.running = false ∧ o.waits = none
      ∧ o.curA = 0 ∧ o.curB = 0 ∧ o.curN = 0 ∧ o.tok = if wd = none then 0 else s.serial)
    ∧ match wd with
      | some d => TokenMade s t d unit
      | none => t.g.pend = s.g.pend

/-- The unit has room for an operation, and the group for its token where it takes one. -/
abbrev State.EngineRoom (s : State) (copy : Bool) (wd : Option Nat) : Prop :=
  (s.engHeld s.g.core copy).length < (if copy then 64 else 8) ∧ (wd = none ∨ s.g.pend.length < 8)

/-- Serial numbers rise: no token of the issuing group carries the next one. -/
abbrev State.SerialFresh (s : State) : Prop := s.serial ≠ 0 ∧ ∀ x ∈ s.g.pend, x.2 < s.serial

/-! ### The mailbox -/

/-- A mailbox command has been answered: its status lies in its block, DONE is set, and vector 0 was sent (R369). -/
def Replied (t : State) (cmd : MbxCmd) (status : Nat) : Prop :=
  (t.mailbox cmd.fn).req = none ∧ (t.mailbox cmd.fn).done = true ∧ t.out.head? = some (.msix 0)
    ∧ ∀ j, j < 4 → t.mem.get 0 (hostLoc (cmd.block + 128) + j) = (natBytes 4 status).getD j 0

end Sys2Proof.Machine
end

