-- ==== Sys2Proof/Certificates/Slice0/Obligations.lean ====
section
/-! DEFINITION. The statements about the machine, for the provers. -/

open Sys2Proof Sys2Proof.Machine

/-! ### Computing words -/

/-- R106 to R108. The integer words complete whenever their operands are there: each executing lane's DST holds the exact
result under the type, modulo 2^w, or clamped to the type's range where SAT is set; IMAD64 and DOT4 accumulate at 64
and at 32 bits. Nothing else changes. -/
def Obligations.IntegerArithmetic : Prop :=
  ∀ (s : State) (f : FmtA),
    let a (L : Nat) := s.g.srcVal f.ty f.a L
    let b (L : Nat) := s.g.srcVal f.ty f.b L
    let r (x : Nat → Int) (L : Nat) := tyFit f.ty f.sat (tyBits f.ty) (x L)
    let d := f.dst.toNat
    let k := tyRegs f.ty
    let acc : Ty := if f.ty.isSigned then .s32 else .n32
    LaneWord s (.iadd f) f.guard d k (r (fun L => a L + b L))
      ∧ LaneWord s (.isub f) f.guard d k (r (fun L => a L - b L))
      ∧ LaneWord s (.imul f) f.guard d k (r (fun L => a L * b L))
      ∧ LaneWord s (.imulh f) f.guard d k (r (fun L => a L * b L / 2 ^ 32))
      ∧ LaneWord s (.imad f) f.guard d 1 (fun L => tyFit f.ty f.sat 32 (a L * b L + s.g.srcVal f.ty f.c L))
      ∧ LaneWord s (.imin f) f.guard d k (r (fun L => min (a L) (b L)))
      ∧ LaneWord s (.imax f) f.guard d k (r (fun L => max (a L) (b L)))
      ∧ LaneWord s (.iabs f) f.guard d k (r (fun L => ((a L).natAbs : Int)))
      ∧ LaneWord s (.ineg f) f.guard d k (r (fun L => -a L))
      ∧ LaneWord s (.imad64 f) f.guard d 2 (fun L =>
          tyFit (wideTy f.ty) f.sat 64 (a L * b L + tyVal (wideTy f.ty) (s.g.srcInt f.ty 2 f.c L)))
      ∧ LaneWord s (.dot4 f) f.guard d 1 (fun L =>
          let e (x i : Nat) : Int := if f.ty.isSigned then sextN (x / 2 ^ (8 * i)) 8 else zextN (x / 2 ^ (8 * i)) 8
          let x := s.g.src32 f.ty f.a L
          let y := s.g.src32 f.ty f.b L
          tyFit acc f.sat 32 (tyVal acc (s.g.src32 f.ty f.c L)
            + (e x 0 * e y 0 + e x 1 * e y 1 + e x 2 * e y 2 + e x 3 * e y 3)))

/-- R109. IADDC and ISUBB complete whenever their operands are there: with q the carry predicate in field C, each
executing lane's DST holds the sum or difference modulo 2^32 and q its carry or borrow. Nothing else changes. A word that
is accepted has type .n32, SAT 0 and a carry predicate that is not negated. -/
def Obligations.CarryChain : Prop :=
  ∀ (s : State) (f : FmtA),
    let q := f.c.field.toNat % 8
    let a (L : Nat) := s.g.srcVal .n32 f.a L
    let b (L : Nat) := s.g.srcVal .n32 f.b L
    let c (L : Nat) : Int := if (s.g.lane L).pred q then 1 else 0
    let ok (i : Instr) (x : Nat → Int) (cy : Int → Prop) : Prop :=
      s.Ready i f.guard → Completes i s (fun t =>
        (∀ L ∈ s.g.executing f.guard, ((t.g.lane L).vr f.dst.toNat).toNat = wrapTo 32 (x L)
            ∧ ((t.g.lane L).pred q = true ↔ cy (x L)))
          ∧ WordFrame s t i f.guard (regsOf (s.g.executing f.guard) f.dst.toNat 1)
              (regsOf (s.g.executing f.guard) q 1) none1 none1 [])
    ok (.iaddc f) (fun L => a L + b L + c L) (fun x => 2 ^ 32 ≤ x)
      ∧ ok (.isubb f) (fun L => a L - b L - c L) (fun x => x < 0)
      ∧ (∀ w, (encode (.iaddc f) = some w → opcOf w = 0x003) ∧ (encode (.isubb f) = some w → opcOf w = 0x004))
      ∧ ∀ lits, (Instr.iaddc f).wf lits = true ∨ (Instr.isubb f).wf lits = true →
          f.ty = .n32 ∧ f.sat = false ∧ f.mod = 0 ∧ f.c.cls = 0 ∧ f.c.field.toNat < 8

/-- R110. The logic and shift words complete whenever their operands are there; n is b as an unsigned number. Their words
have the opcodes of the table, and one that is accepted has MOD 0, SAT 0 and the row's type. -/
def Obligations.LogicAndShifts : Prop :=
  ∀ (s : State) (f : FmtA),
    let a (L : Nat) : W32 := w32 (s.g.src32 f.ty f.a L)
    let b (L : Nat) : W32 := w32 (s.g.src32 f.ty f.b L)
    let n (L : Nat) : Nat := (b L).toNat
    let ok (i : Instr) (x : Nat → Nat) : Prop := LaneWord s i f.guard f.dst.toNat 1 x
    let row (i : Instr) (opc : Nat) (ty : Ty) : Prop :=
      (∀ w, encode i = some w → opcOf w = opc) ∧ ∀ lits, i.wf lits = true → f.mod = 0 ∧ f.sat = false ∧ f.ty = ty
    ok (.and f) (fun L => (a L &&& b L).toNat)
      ∧ ok (.or f) (fun L => (a L ||| b L).toNat)
      ∧ ok (.xor f) (fun L => (a L ^^^ b L).toNat)
      ∧ ok (.andn f) (fun L => (a L &&& ~~~(b L)).toNat)
      ∧ ok (.not f) (fun L => 2 ^ 32 - 1 - (a L).toNat)
      ∧ ok (.shl f) (fun L => if n L < 32 then (a L).toNat * 2 ^ n L % 2 ^ 32 else 0)
      ∧ ok (.shr f) (fun L => if n L < 32 then (a L).toNat / 2 ^ n L else 0)
      ∧ ok (.sar f) (fun L => wrapTo 32 ((a L).toInt / 2 ^ min (n L) 31))
      ∧ ok (.rotl f) (fun L => ((a L).rotateLeft (n L % 32)).toNat)
      ∧ ok (.popc f) (fun L => popCount (a L))
      ∧ ok (.clz f) (fun L => 32 - (if a L = 0 then 0 else Nat.log2 (a L).toNat + 1))
      ∧ ok (.ctz f) (fun L => zerosBefore ((List.range 32).map (fun j => (a L).getLsbD j)))
      ∧ ok (.brev f) (fun L => (a L).reverse.toNat)
      ∧ row (.and f) 0x010 .b32 ∧ row (.or f) 0x011 .b32 ∧ row (.xor f) 0x012 .b32 ∧ row (.andn f) 0x013 .b32
      ∧ row (.not f) 0x014 .b32 ∧ row (.shl f) 0x015 .b32 ∧ row (.shr f) 0x016 .b32 ∧ row (.sar f) 0x017 .s32
      ∧ row (.rotl f) 0x018 .b32 ∧ row (.popc f) 0x019 .b32 ∧ row (.clz f) 0x01A .b32 ∧ row (.ctz f) 0x01B .b32
      ∧ row (.brev f) 0x01C .b32

/-- R111. BFX, BFI and PRMT complete whenever their operands are there, with the field from bit pos = b[7:0] of length
b[15:8], cut at bit 31. Their words have the opcodes of the rule, and one that is accepted has MOD 0, SAT 0 and a type
that the rule names. -/
def Obligations.BitFields : Prop :=
  ∀ (s : State) (f : FmtA),
    let a (L : Nat) : Nat := s.g.src32 f.ty f.a L
    let b (L : Nat) : Nat := s.g.src32 f.ty f.b L
    let c (L : Nat) : Nat := s.g.src32 f.ty f.c L
    let pos (L : Nat) : Nat := b L % 256
    let len (L : Nat) : Nat := min (b L / 256 % 256) (32 - pos L)
    let inField (L : Nat) : W32 := BitVec.ofNat 32 ((2 ^ len L - 1) * 2 ^ pos L)
    let row (i : Instr) (opc : Nat) (tys : List Ty) : Prop :=
      (∀ w, encode i = some w → opcOf w = opc) ∧ ∀ lits, i.wf lits = true → f.mod = 0 ∧ f.sat = false ∧ f.ty ∈ tys
    LaneWord s (.bfx f) f.guard f.dst.toNat 1 (fun L =>
        if 32 ≤ pos L ∨ len L = 0 then 0
        else wrapTo 32 (if f.ty.isSigned then sextN (a L / 2 ^ pos L) (len L) else zextN (a L / 2 ^ pos L) (len L)))
      ∧ LaneWord s (.bfi f) f.guard f.dst.toNat 1 (fun L =>
          if 32 ≤ pos L ∨ len L = 0 then (w32 (a L)).toNat
          else ((w32 (a L) &&& ~~~inField L) ||| ((w32 (c L) <<< pos L) &&& inField L)).toNat)
      ∧ LaneWord s (.prmt f) f.guard f.dst.toNat 1 (fun L =>
          let x := a L + b L * 2 ^ 32
          let byte (j : Nat) : Nat :=
            let sel := c L / 16 ^ j % 16
            let v := x / 256 ^ (sel % 8) % 256
            if sel < 8 then v else if v < 128 then 0 else 255
          byte 0 + 256 * (byte 1 + 256 * (byte 2 + 256 * byte 3)))
      ∧ row (.bfx f) 0x01D [.n32, .s32] ∧ row (.bfi f) 0x01E [.b32] ∧ row (.prmt f) 0x01F [.b32]

/-- R112. SEL, MOV, MOVI, MOVW and WMOV complete whenever their operands are there; MOVW's register must hold no pending
token in an executing lane (R20), reads 0 past w63, and WMOV writes once, from the lowest-numbered active lane. -/
def Obligations.Moves : Prop :=
  ∀ (s : State) (f : FmtA) (g : FmtW),
    let d := f.dst.toNat
    let k := tyRegs f.ty
    let idx (L : Nat) := f.a.field.toNat + s.g.src32 f.ty f.b L % 64
    LaneWord s (.sel f) f.guard d k (fun L =>
        if (s.g.lane L).predField f.c then s.g.srcInt f.ty k f.a L else s.g.srcInt f.ty k f.b L)
      ∧ LaneWord s (.mov f) f.guard d k (fun L => s.g.srcInt f.ty k f.a L)
      ∧ LaneWord s (.movi g) g.guard g.dst.toNat 1 (fun _ =>
          if g.mod = 0 then g.imm.toNat else if g.mod = 1 then wrapTo 32 g.imm.toInt else g.imm.toNat * 16)
      ∧ ((∀ L ∈ s.g.executing f.guard, s.g.pend.get 0 (idx L) = 0) →
          LaneWord s (.movw f) f.guard d 1 (fun L => if idx L ≤ 63 then (s.g.wr (idx L)).toNat else 0))
      ∧ UniformWord s (.wmov f) f.guard d k (s.g.srcInt f.ty k f.a ((s.g.active f.guard).headD 0))

/-- R113 and R115, with the lowest trapping lane of R373. AADD, ASUB, ADIFF and AMOVI complete where no active lane fails
their checks, each executing lane's DST holding the 80-bit sum or difference, the 64-bit difference, or the address;
the lowest active lane that fails a check raises the address-format trap, SPCAST under .self the foreign-scratchpad
trap as well. The model's own choices and readings: log 32. -/
def Obligations.AddressArithmetic : Prop :=
  ∀ (s : State) (f : FmtA),
    let a (L : Nat) := s.g.srcTriple f.a L
    let b (L : Nat) := s.g.srcTriple f.b L
    let win (x : Nat) := x / 2 ^ 72 % 256
    let carries (n x : Nat) (y : Int) : Prop := (x % 2 ^ n : Nat) + y < 0 ∨ 2 ^ n ≤ (x % 2 ^ n : Nat) + y
    let bad (y : Nat → Int) (L : Nat) : Prop :=
      2 ^ 80 ≤ a L ∨ win (wrapTo 80 (a L + y L)) ≠ win (a L)
        ∨ ((win (a L) = 0xFE ∨ win (a L) = 0xFD) ∧ carries 24 (a L) (y L)) ∨ (win (a L) = 0xFC ∧ carries 32 (a L) (y L))
    let sum (i : Instr) (y : Nat → Int) : Prop :=
      ((∀ L ∈ s.g.active f.guard, ¬ bad y L) →
          LaneWord s i f.guard f.dst.toNat 3 (fun L => wrapTo 80 ((a L % 2 ^ 80 : Nat) + y L)))
        ∧ ∀ L, s.Ready i f.guard → L ∈ s.g.active f.guard → bad y L → (∀ M ∈ s.g.active f.guard, M < L → ¬ bad y M) →
            Traps i s { cause := 0x06, detail := 0, lane := some L }
    sum (.aadd f) (fun L => s.g.srcVal f.ty f.b L)
      ∧ sum (.asub f) (fun L => -s.g.srcVal f.ty f.b L)
      ∧ CheckedWord s (.adiff f) f.guard f.dst.toNat 2
          (fun L => if 2 ^ 80 ≤ a L ∨ 2 ^ 80 ≤ b L ∨ win (a L) ≠ win (b L) then some (0x06, 0) else none)
          (fun L => tyFit .s64 f.sat 64 ((a L % 2 ^ 80 : Nat) - (b L % 2 ^ 80 : Nat) : Int))
      ∧ CheckedWord s (.amovi f) f.guard f.dst.toNat 3 (fun L => if 2 ^ 80 ≤ a L then some (0x06, 0) else none)
          (fun L => a L % 2 ^ 80)
      ∧ TrapsLowest (.spcast f) s f.guard (fun L => match spCast s.g.core f.mod.toNat (a L) with
          | .error e => some e
          | .ok _ => none)
      ∧ (s.Ready (.spcast f) f.guard → (∀ L ∈ s.g.active f.guard, ∃ x, spCast s.g.core f.mod.toNat (a L) = .ok x) →
          Completes (.spcast f) s (fun t =>
            (∀ L ∈ s.g.executing f.guard, ∀ x, spCast s.g.core f.mod.toNat (a L) = .ok x →
                (t.g.lane L).vrN f.dst.toNat 3 = x % 2 ^ 96)
              ∧ WordFrame s t (.spcast f) f.guard (regsOf (s.g.executing f.guard) f.dst.toNat 3) noRegs none1 none1 []))

/-- R113 and R114. ACMP compares the two addresses as 80-bit unsigned numbers, and traps where a triple is no address;
SPTEST tests the window of the triple, and the reach of `decode` under .local, and never traps.
The model's own choices and readings: log 32, 145. -/
def Obligations.AddressTests : Prop :=
  ∀ (s : State) (f : FmtA),
    let a (L : Nat) := s.g.srcTriple f.a L
    let b (L : Nat) := s.g.srcTriple f.b L
    let win (L : Nat) := a L / 2 ^ 72 % 256
    f.dst.toNat < 8 →
    ((∀ L ∈ s.g.active f.guard, a L < 2 ^ 80 ∧ b L < 2 ^ 80) → PredWord s (.acmp f) f.guard f.dst.toNat (fun L =>
        let x := a L % 2 ^ 80
        let y := b L % 2 ^ 80
        match f.mod.toNat with
        | 0 => x == y
        | 1 => x != y
        | 2 => decide (x < y)
        | 3 => decide (x ≤ y)
        | 4 => decide (y < x)
        | _ => decide (y ≤ x)))
      ∧ TrapsLowest (.acmp f) s f.guard (fun L => if 2 ^ 80 ≤ a L ∨ 2 ^ 80 ≤ b L then some (0x06, 0) else none)
      ∧ PredWord s (.sptest f) f.guard f.dst.toNat (fun L =>
          decide (a L < 2 ^ 80) && match f.mod.toNat with
          | 0 => win L == 0xFE
          | 1 => win L == 0xFD
          | 2 => win L == 0xFC
          | 3 => win L != 0xFE && win L != 0xFD && win L != 0xFC
          | _ => s.spTest 4 (a L))

/-- R116 and R117. The floating-point words complete whenever their operands are there: each executing lane's DST holds
the exact result rounded once under RM, every rounding under rs taking one step of the lane's generator; FMIN and FMAX
round nothing. -/
def Obligations.FloatArithmetic : Prop :=
  ∀ (s : State) (f : FmtA),
    let a (L : Nat) := s.g.srcNum f.ty f.a L
    let b (L : Nat) := s.g.srcNum f.ty f.b L
    let c (L : Nat) := s.g.srcNum f.ty f.c L
    let code := f.mod.toNat % 8
    let m := s.g.rm code
    let d := f.dst.toNat
    let one (i : Instr) (x : Nat → FNum) : Prop :=
      RoundWord s i f.guard code 1 d 1 (fun us L => roundF (fmtOf f.ty) m (us.headD 0) f.sat (x L))
    one (.fadd f) (fun L => FNum.add m (a L) (b L))
      ∧ one (.fsub f) (fun L => FNum.add m (a L) (b L).neg)
      ∧ one (.fmul f) (fun L => (a L).mul (b L))
      ∧ one (.ffma f) (fun L => FNum.add m ((a L).mul (b L)) (c L))
      ∧ one (.fscale f) (fun L => (a L).scale (s.g.srcVal .s32 f.b L))
      ∧ RoundWord s (.frnd f) f.guard f.mod.toNat 1 d 1 (fun us L =>
          roundF (fmtOf f.ty) .rz 0 false ((a L).integral (s.g.rm f.mod.toNat) (us.headD 0)))
      ∧ LaneWord s (.fmin f) f.guard d 1 (fun L =>
          fminmax (fmtOf f.ty) false (f.mod.getLsbD 3) (s.g.srcEnc f.ty f.a L) (s.g.srcEnc f.ty f.b L))
      ∧ LaneWord s (.fmax f) f.guard d 1 (fun L =>
          fminmax (fmtOf f.ty) true (f.mod.getLsbD 3) (s.g.srcEnc f.ty f.a L) (s.g.srcEnc f.ty f.b L))

/-- R118 and R119. The function words complete whenever their operands are there: FRCP and FSQRT are rounded to the type
under RM; the others are rounded to FP32 under rne, and from there to the type; FCLASS sets one bit.
The model's own choices and readings: log 33. -/
def Obligations.FloatFunctions : Prop :=
  ∀ (s : State) (f : FmtA),
    let a (L : Nat) := s.g.srcNum f.ty f.a L
    let code := f.mod.toNat % 8
    let d := f.dst.toNat
    let fn (i : Instr) (x : FNum → FNum) : Prop := LaneWord s i f.guard d 1 (fun L =>
      let y := roundF (fmtOf .f32) .rne 0 false (x (a L))
      if f.ty = .f32 then y else roundF (fmtOf f.ty) .rne 0 false (decodeF (fmtOf .f32) y))
    RoundWord s (.frcp f) f.guard code 1 d 1 (fun us L => roundF (fmtOf f.ty) (s.g.rm code) (us.headD 0) f.sat (a L).recip)
      ∧ RoundWord s (.fsqrt f) f.guard code 1 d 1 (fun us L =>
          roundF (fmtOf f.ty) (s.g.rm code) (us.headD 0) f.sat (a L).sqrt)
      ∧ fn (.frsq f) FNum.rsqrt ∧ fn (.fex2 f) FNum.exp2 ∧ fn (.flg2 f) FNum.log2 ∧ fn (.fsin f) FNum.sin
      ∧ fn (.fcos f) FNum.cos ∧ fn (.ftanh f) FNum.tanh
      ∧ LaneWord s (.fclass f) f.guard d 1 (fun L => 2 ^ fclassBit (fmtOf f.ty) (s.g.srcEnc f.ty f.a L))

/-- R120 to R122. The conversions and packed words complete whenever their operands are there: one rounding to the target
type, two for the packed words, element 0 first; an ICVT between integer types takes no step; a narrow PKCVT keeps the
other half of its destination. -/
def Obligations.ConversionsAndPacked : Prop :=
  ∀ (s : State) (f : FmtA),
    let m := s.g.rm f.mod.toNat
    let d := f.dst.toNat
    let src := Enc.cTyOf f.c
    let ival (L : Nat) : Int := tyVal src (s.g.srcInt src (tyRegs src) f.a L)
    let pk (i : Instr) (x : Nat → Nat → FNum) : Prop := RoundWord s i f.guard f.mod.toNat 2 d 1 (fun us L =>
      roundF (fmtOf f.ty) m (us.getD 0 0) f.sat (x 0 L) + 2 ^ 16 * roundF (fmtOf f.ty) m (us.getD 1 0) f.sat (x 1 L))
    RoundWord s (.fcvt f) f.guard f.mod.toNat 1 d 1 (fun us L =>
        roundF (fmtOf f.ty) m (us.headD 0) f.sat (s.g.srcNum src f.a L))
      ∧ (f.ty.isFloat = true → RoundWord s (.icvt f) f.guard f.mod.toNat 1 d 1 (fun us L =>
          roundF (fmtOf f.ty) m (us.headD 0) f.sat (FNum.ofInt (ival L))))
      ∧ (f.ty.isFloat = false → LaneWord s (.icvt f) f.guard d (tyRegs f.ty) (fun L =>
          wrapTo 64 (tyVal f.ty (tyFit f.ty f.sat (tyBits f.ty) (ival L)))))
      ∧ RoundWord s (.ficvt f) f.guard f.mod.toNat 1 d (tyRegs f.ty) (fun us L =>
          wrapTo 64 (cvtFI f.ty m (us.headD 0) (s.g.srcNum src f.a L)))
      ∧ pk (.pkadd f) (fun e L => FNum.add m (s.g.srcPacked f.ty f.a e L) (s.g.srcPacked f.ty f.b e L))
      ∧ pk (.pkmul f) (fun e L => (s.g.srcPacked f.ty f.a e L).mul (s.g.srcPacked f.ty f.b e L))
      ∧ pk (.pkfma f) (fun e L =>
          FNum.add m ((s.g.srcPacked f.ty f.a e L).mul (s.g.srcPacked f.ty f.b e L)) (s.g.srcPacked f.ty f.c e L))
      ∧ RoundWord s (.pkcvt f) f.guard (f.mod.toNat % 8) 2 d 1 (fun us L =>
          let r := s.g.rm (f.mod.toNat % 8)
          let x := roundF (fmtOf f.ty) r (us.getD 0 0) f.sat (s.g.srcNum .f32 f.a L)
          let y := roundF (fmtOf f.ty) r (us.getD 1 0) f.sat (s.g.srcNum .f32 f.b L)
          let old := ((s.g.lane L).vr d).toNat
          if tyBits f.ty = 16 then x + 2 ^ 16 * y
          else if f.mod.getLsbD 3 then old % 2 ^ 16 + 2 ^ 16 * (x + 2 ^ 8 * y)
          else old / 2 ^ 16 * 2 ^ 16 + (x + 2 ^ 8 * y))

/-- R123. ICMP and FCMP complete whenever their operands are there: the predicate in each executing lane is the
comparison that MOD names, combined with a predicate as field C says; −0 equals +0, and a NaN operand makes every
condition but ne and unord false. -/
def Obligations.Compares : Prop :=
  ∀ (s : State) (f : FmtA),
    let q (L : Nat) : Bool := xor ((s.g.lane L).pred (f.c.field.toNat % 8)) (f.c.field.getLsbD 5)
    let comb (cmp : Bool) (L : Nat) : Bool := match f.c.field.toNat / 8 % 4 with
      | 0 => cmp
      | 1 => cmp && q L
      | 2 => cmp || q L
      | _ => xor cmp (q L)
    let a (L : Nat) := s.g.srcVal f.ty f.a L
    let b (L : Nat) := s.g.srcVal f.ty f.b L
    let x (L : Nat) := s.g.srcNum f.ty f.a L
    let y (L : Nat) := s.g.srcNum f.ty f.b L
    let un (L : Nat) : Bool := (x L).isNan || (y L).isNan
    f.dst.toNat < 8 →
    PredWord s (.icmp f) f.guard f.dst.toNat (fun L => comb (match f.mod.toNat with
        | 0 => a L == b L
        | 1 => a L != b L
        | 2 => decide (a L < b L)
        | 3 => decide (a L ≤ b L)
        | 4 => decide (b L < a L)
        | _ => decide (b L ≤ a L)) L)
      ∧ PredWord s (.fcmp f) f.guard f.dst.toNat (fun L => comb (match f.mod.toNat with
        | 0 => !un L && (x L).cmp (y L) == .eq
        | 1 => un L || (x L).cmp (y L) != .eq
        | 2 => !un L && (x L).cmp (y L) == .lt
        | 3 => !un L && (x L).cmp (y L) != .gt
        | 4 => !un L && (x L).cmp (y L) == .gt
        | 5 => !un L && (x L).cmp (y L) != .lt
        | 6 => !un L
        | 7 => un L
        | n => condFloat n (x L) (y L)) L)

/-- R124. The predicate words complete whenever their operands are there, the guard being evaluated before PUNPK writes
the predicates. Their words have the opcodes of the table, and one that is accepted has the row's MOD, type code 0 and
SAT 0; PSET and PUNPK accept operands of every class. -/
def Obligations.PredicateWords : Prop :=
  ∀ (s : State) (f : FmtA),
    let pa (L : Nat) := (s.g.lane L).predField f.a
    let pb (L : Nat) := (s.g.lane L).predField f.b
    let pw (i : Instr) (x : Nat → Bool) : Prop := f.dst.toNat < 8 → PredWord s i f.guard f.dst.toNat x
    let unpack (i : Instr) (m : Nat → Nat) : Prop := s.Ready i f.guard → Completes i s (fun t =>
      (∀ L ∈ s.g.executing f.guard, ∀ n, n < 8 → (t.g.lane L).pred n
          = if (m L).testBit n then (s.g.src32 f.ty f.a L).testBit n else (s.g.lane L).pred n)
        ∧ WordFrame s t i f.guard noRegs (regsOf (s.g.executing f.guard) 0 8) none1 none1 [])
    let row (i : Instr) (opc md : Nat) : Prop :=
      (∀ w, encode i = some w → opcOf w = opc)
        ∧ ∀ lits, i.wf lits = true → f.mod.toNat = md ∧ f.sat = false ∧ f.ty.code.toNat = 0
    let operand (lits : List W64) (x : Src) : Prop := match x with
      | .v _ => True
      | .imm _ => True
      | .w n => n.toNat < 64
      | .lit n => n.toNat < 8 ∧ n.toNat < lits.length
    pw (.pset f) (fun L => decide (s.g.src32 f.ty f.a L ≠ 0))
      ∧ pw (.pand f) (fun L => pa L && pb L)
      ∧ pw (.por f) (fun L => pa L || pb L)
      ∧ pw (.pxor f) (fun L => pa L != pb L)
      ∧ pw (.pnot f) (fun L => !pa L)
      ∧ pw (.pmov f) pa
      ∧ LaneWord s (.ppack f) f.guard f.dst.toNat 1 (fun L => (s.g.lane L).p.toNat)
      ∧ unpack (.punpk f) (fun _ => 255)
      ∧ unpack (.punpkMask f) (fun L => s.g.src32 f.ty f.b L)
      ∧ row (.pset f) 0x082 0 ∧ row (.pand f) 0x083 0 ∧ row (.por f) 0x084 0 ∧ row (.pxor f) 0x085 0
      ∧ row (.pnot f) 0x086 0 ∧ row (.pmov f) 0x087 0 ∧ row (.ppack f) 0x088 0 ∧ row (.punpk f) 0x089 0
      ∧ row (.punpkMask f) 0x089 1
      ∧ ∀ lits, f.ty = .b32 → f.sat = false → f.c = .v 0 → operand lits f.a →
          (f.mod = 0 → f.b = .v 0 → f.dst.toNat < 8 → (Instr.pset f).wf lits = true)
            ∧ (f.mod = 0 → f.b = .v 0 → f.dst = 0 → (Instr.punpk f).wf lits = true)
            ∧ (f.mod = 1 → operand lits f.b → f.dst = 0 → (Instr.punpkMask f).wf lits = true)

/-- R125. The quad words complete whenever their operands are there; QRED counts the active positions of the lane's quad
alone. -/
def Obligations.QuadWords : Prop :=
  ∀ (s : State) (f : FmtA),
    let at' (L j : Nat) : Nat := 4 * (L / 4) + j
    let act (L : Nat) : List Nat := (s.g.active f.guard).filter (fun M => M / 4 == L / 4)
    let m := s.g.rm (f.mod.toNat % 8)
    let bit := if f.mod.getLsbD 3 then 2 else 1
    LaneWord s (.qswz f) f.guard f.dst.toNat 1 (fun L => s.g.src32 f.ty f.a (at' L (f.b.field.toNat / 4 ^ (L % 4) % 4)))
      ∧ LaneWord s (.qxch f) f.guard f.dst.toNat 1 (fun L => s.g.src32 f.ty f.a (at' L (L % 4 ^^^ (f.mod.toNat + 1))))
      ∧ LaneWord s (.qred f) f.guard f.dst.toNat 1 (fun L => redFold f.mod.toNat f.ty ((act L).map (s.g.srcRed f.ty f.a)))
      ∧ RoundWord s (.qdiff f) f.guard (f.mod.toNat % 8) 1 f.dst.toNat 1 (fun us L =>
          roundF (fmtOf .f32) m (us.headD 0) false (FNum.add m (s.g.srcNum .f32 f.a (at' L (L % 4 ||| bit)))
            (s.g.srcNum .f32 f.a (at' L (L % 4 &&& (3 - bit)))).neg))
      ∧ (f.dst.toNat < 8 → PredWord s (.qhelp f) f.guard f.dst.toNat (fun L => (s.g.lane L).isHelper))

/-- R126 to R128. The group words complete whenever their operands are there. Common results go to every executing lane;
a per-lane result of a HELPER lane is that of the lowest-numbered active lane of its quad; reductions and scans fold the
active lanes in ascending order, and GTOPK picks the first k in its order.
The model's own choices and readings: log 35. -/
def Obligations.GroupWords : Prop :=
  ∀ (s : State) (f : FmtA),
    let act := s.g.active f.guard
    let votes := act.filter (fun L => (s.g.lane L).predField f.a)
    let low := act.headD 0
    let me (L : Nat) : Nat := if (s.g.lane L).isHelper then (act.filter (fun M => M / 4 == L / 4)).headD L else L
    let d := f.dst.toNat
    let k := tyRegs f.ty
    let aOf (L : Nat) := s.g.srcInt f.ty k f.a L
    (d < 8 → PredWord s (.gvote f) f.guard d (fun _ => match f.mod.toNat with
        | 0 => decide (votes.length = act.length)
        | 1 => decide (votes ≠ [])
        | _ => decide (votes.length = act.length ∨ votes = [])))
      ∧ LaneWord s (.gballot f) f.guard d 1 (fun _ => (maskOf 32 votes).toNat)
      ∧ LaneWord s (.gcount f) f.guard d 1 (fun _ => votes.length)
      ∧ LaneWord s (.gshfl f) f.guard d k (fun L =>
          let b := s.g.src32 f.ty f.b (me L)
          let src : Int := match f.mod.toNat with
            | 0 => (b % 32 : Nat)
            | 1 => (me L : Int) - b
            | 2 => (me L : Int) + b
            | _ => (me L ^^^ (b % 32) : Nat)
          aOf (if 0 ≤ src ∧ src.toNat ∈ act then src.toNat else me L))
      ∧ LaneWord s (.gbcst f) f.guard d k (fun _ =>
          let b := s.g.src32 f.ty f.b low % 32
          aOf (if b ∈ act then b else low))
      ∧ LaneWord s (.gred f) f.guard d 1 (fun _ => redFold f.mod.toNat f.ty (act.map (s.g.srcRed f.ty f.a)))
      ∧ LaneWord s (.gscan f) f.guard d 1 (fun L =>
          redFold (f.mod.toNat % 8) f.ty ((act.filter (fun M =>
            if f.mod.getLsbD 3 then decide (M < me L) else decide (M ≤ me L))).map (s.g.srcRed f.ty f.a)))
      ∧ LaneWord s (.gmatch f) f.guard d 1 (fun L => (maskOf 32 (act.filter (fun M => aOf M == aOf (me L)))).toNat)
      ∧ LaneWord s (.gtopk f) f.guard d 1 (fun _ =>
          (maskOf 32 ((topOrder f.ty (f.mod.getLsbD 0) (s.g.srcRed f.ty f.a) act).take
            (s.g.src32 (if f.ty = .n32 then .n32 else .s32) f.b low))).toNat)

/-! ### Control -/

/-- R129, R131 and R132. The control transfers complete whenever their operands are there: an active lane goes where the
word sends it, every other lane that ran the clause goes to the next clause, the clause is over, and nothing else has
changed but BRC's counter and the link register v31 of CALL and CALLX, with their backing slots (R17). An indirect target that is not a multiple of 8
raises the branch-target trap of the lowest such lane. The model's own choices and readings: log 31. -/
def Obligations.ControlTransfers : Prop :=
  ∀ (s : State) (j : FmtJ) (e : FmtE) (r : Run), s.g.run = some r →
    let branches (i : Instr) (gd : Guard) (f : Lane → Lane) : Prop :=
      s.Ready i gd → Completes i s (fun t =>
        (∀ L, ∃ slots, t.g.lane L = { (if L ∈ s.g.active gd then f (s.g.lane L)
            else if s.g.runs L then { s.g.lane L with pc := r.next } else s.g.lane L) with inSlot := slots })
          ∧ t.g.run = none ∧ t.g.w = s.g.w ∧ t.g.k = s.g.k ∧ RestKept s t
          ∧ ∀ a, Outside a (s.slotReach i gd) → t.mem.get 0 a = s.mem.get 0 a)
    let target : W32 := BitVec.ofInt 32 ((r.pc.toNat : Int) + 8 * j.off.toInt)
    let indirect (i : Instr) (n : Nat) (f : Lane → Lane) : Prop :=
      ((∀ L ∈ s.g.active e.guard, ((s.g.lane L).vr n).toNat % 8 = 0) → branches i e.guard f)
        ∧ TrapsLowest i s e.guard (fun L => if ((s.g.lane L).vr n).toNat % 8 = 0 then none else some (0x04, L))
    branches (.bra j) j.guard (fun x => { x with pc := target })
      ∧ branches (.brc j) j.guard (fun x =>
          let n := x.vr j.dst.toNat - 1
          { x.vw j.dst.toNat n with pc := if n = 0 then r.next else target })
      ∧ branches (.call j) j.guard (fun x => { x.vw 31 r.next with pc := target })
      ∧ indirect (.brx e) e.a.toNat (fun x => { x with pc := x.vr e.a.toNat })
      ∧ indirect (.callx e) e.a.toNat (fun x => { x.vw 31 r.next with pc := x.vr e.a.toNat })
      ∧ indirect (.ret e) 31 (fun x => { x with pc := x.vr 31 })

/-- R131, R133, R63 and R64. MEET writes the MR of the active lanes with the target of its word, MEET.clear with "no
meeting"; NOP and the hints a device does not implement change nothing; HINT 0 marks the quads of the active lanes;
HINT 1 answers the number of groups resident on the core. -/
def Obligations.MeetingsAndHints : Prop :=
  ∀ (s : State) (j : FmtJ) (e : FmtE) (r : Run) (n : BitVec 6) (b : BitVec 54), s.g.run = some r →
    let lanesTo (i : Instr) (gd : Guard) (f : Lane → Lane) (p : BitVec 8) : Prop :=
      s.Ready i gd → Completes i s (fun t =>
        (∀ L, ∃ pc, t.g.lane L = { (if L ∈ s.g.active gd then f (s.g.lane L) else s.g.lane L) with pc := pc })
          ∧ t.g.w = s.g.w ∧ t.g.k = s.g.k ∧ t.g.preferred = p ∧ RestKept s t
          ∧ ∀ a, Outside a (s.slotReach i gd) → t.mem.get 0 a = s.mem.get 0 a)
    let quads (gd : Guard) : BitVec 8 := maskOf 8 ((s.g.active gd).map (· / 4))
    lanesTo (.meet j) j.guard (fun x => { x with mr := BitVec.ofInt 32 ((r.pc.toNat : Int) + 8 * j.off.toInt) }) s.g.preferred
      ∧ lanesTo (.meetClear j) j.guard (fun x => { x with mr := 0xFFFFFFFF#32 }) s.g.preferred
      ∧ lanesTo (.nop e) e.guard id s.g.preferred
      ∧ lanesTo (.hintUnimplemented n b) .always id s.g.preferred
      ∧ lanesTo (.hint0 b) (hintGuard b) id (s.g.preferred ||| quads (hintGuard b))
      ∧ LaneWord s (.hint1 b) (hintGuard b) (b.extractLsb' 36 8).toNat 1 (fun _ =>
          1 + (s.others.filter (fun x => x.core == s.g.core && !x.empty)).length)

/-- R13 and R134. EXIT outside a user-level trap handler, no lane being held elsewhere: an active lane becomes HELPER where
its quad keeps a LIVE lane, and a quad that keeps none becomes ABSENT; the lanes that stay LIVE keep their registers. -/
def Obligations.ExitEndsThreads : Prop :=
  ∀ (s : State) (f : FmtE), s.Ready (.exit f) f.guard → s.g.trap = none → s.g.held = [] →
    let stays (L : Nat) : Bool := (s.g.lane L).isLive && !(s.g.active f.guard).contains L
    Completes (.exit f) s (fun t => ∀ L, L < 32 →
      (t.g.lane L).status = (if (quadLanes (L / 4)).any stays
          then (if L ∈ s.g.active f.guard then .helper else (s.g.lane L).status) else .absent)
        ∧ (stays L = true → ∀ n, (t.g.lane L).vr n = (s.g.lane L).vr n))

/-! ### Memory words -/

/-- R140, R141, R148 to R150. LD, LDX and LDW complete where every active lane passes its checks, no own write to a
replicated page is waited for, and remote bytes have been answered: DST of each executing lane holds the bytes its
pieces lead to, extended under the type; a HELPER lane that fails a check reads zeros. Memory changes only in the
page-table entries of the pages read, and their frames where those are to be zero-filled.
The model's own choices and readings: log 3, 26, 100, 134. -/
def Obligations.Loads : Prop :=
  ∀ (s : State) (f : FmtM),
    let n := accSize f.ty
    let lanes (i : Instr) (scale n k : Nat) (val : List Byte → Nat) : Prop :=
      let s1 := s.opened i f.guard
      let chk (L : Nat) := s1.laneAccess .read f scale n 1 L
      let acc := passing (s.g.executing f.guard) chk
      let s2 := s1.touchLanes false acc
      s.Ready i f.guard → (∀ L ∈ s.g.active f.guard, ∃ ps, chk L = .ok ps) →
      (∀ x ∈ acc, s1.ownWriteWaits [(s.g.lane x.1).threadId] x.2 = false) →
      s1.askAll (acc.flatMap (fun x => readAsks x.1 x.2)) (fun L => (s.g.active f.guard).contains L) = .all →
      Completes i s (fun t =>
        (∀ L ∈ s.g.executing f.guard, (t.g.lane L).vrN f.dst.toNat k = val (match chk L with
            | .ok ps => s2.gather L ps
            | .error _ => List.replicate n 0) % 2 ^ (32 * k))
          ∧ WordFrame s t i f.guard (regsOf (s.g.executing f.guard) f.dst.toNat k) noRegs none1 none1
              (acc.flatMap (fun x => x.2.flatMap Piece.reach)))
    lanes (.ld f) n n (tyRegs f.ty) (loadVal f.ty)
      ∧ lanes (.ldx f) 4 (4 * wideCount f.mod.toNat) (wideCount f.mod.toNat) bytesNat
      ∧ (let s1 := s.opened (.ldw f) f.guard
         ∀ ps, s.Ready (.ldw f) f.guard → s1.uniAccess f .read n 1 = .ok ps →
          s1.ownWriteWaits (s.g.threads f.guard) ps = false → s1.askAll (readAsks 32 ps) (fun _ => true) = .all →
          Completes (.ldw f) s (fun t =>
            t.g.wrN f.dst.toNat (tyRegs f.ty)
                = loadVal f.ty ((s1.touchAll s.g.asid false ps).gather 32 ps) % 2 ^ (32 * tyRegs f.ty)
              ∧ WordFrame s t (.ldw f) f.guard noRegs noRegs
                  (fun m => f.dst.toNat ≤ m ∧ m < f.dst.toNat + tyRegs f.ty) none1 (ps.flatMap Piece.reach)))

/-- R140, R148 to R150. ST, STX and STW complete where every active lane passes its checks and nothing is waited for. Each
local byte of a lane's pieces holds the lane's byte, a higher lane's where two store to one; no register changes, and
memory changes only in those bytes, the page-table entries of the pages, and frames to be zero-filled. A store behind a
CXL link that is down is lost (R370); one into an aperture, a release at system scope, goes to its channel (R217).
The model's own choices and readings: log 3, 26, 46, 134. -/
def Obligations.Stores : Prop :=
  ∀ (s : State) (f : FmtM),
    let lanes (i : Instr) (scale n k : Nat) : Prop :=
      let s1 := s.opened i f.guard
      let chk (L : Nat) := s1.laneAccess .write f scale n 1 L
      let acc := passing (s.g.active f.guard) chk
      s.Ready i f.guard → (∀ L ∈ s.g.active f.guard, ∃ ps, chk L = .ok ps) → s1.storeFree f (acc.flatMap (·.2)) →
      Completes i s (fun t =>
        StoredIn s t acc (fun L => natBytes n ((s.g.lane L).vrN f.b.toNat k))
          ∧ t.apStores = s.apStores ++ acc.flatMap (fun x => apertureCells x.2 (natBytes n ((s.g.lane x.1).vrN f.b.toNat k)))
          ∧ WordFrame s t i f.guard noRegs noRegs none1 none1 (acc.flatMap (fun x => storeReach x.2)))
    lanes (.st f) (accSize f.ty) (accSize f.ty) (tyRegs f.ty)
      ∧ lanes (.stx f) 4 (4 * wideCount f.mod.toNat) (wideCount f.mod.toNat)
      ∧ (let s1 := s.opened (.stw f) f.guard
         ∀ ps, s.Ready (.stw f) f.guard → s1.uniAccess f .write (accSize f.ty) 1 = .ok ps → s1.storeFree f ps →
          Completes (.stw f) s (fun t =>
            let bs := natBytes (accSize f.ty) (s.g.wrN f.b.toNat (tyRegs f.ty))
            StoredIn s t [(0, ps)] (fun _ => bs) ∧ t.apStores = s.apStores ++ apertureCells ps bs
              ∧ WordFrame s t (.stw f) f.guard noRegs noRegs none1 none1 (storeReach ps)))

/-- R140, R142, R147 and R371. A memory word whose lowest failing lane fails a check by a trap raises that trap, with its
cause and detail and that lane, and has changed nothing but what translating its addresses changes; a uniform word's trap
names no lane. For ATOM these are its checks 1 to 4. The model's own choices and readings: log 39, 50, 134. -/
def Obligations.MemoryTraps : Prop :=
  ∀ (s : State) (f : FmtM),
    let n := accSize f.ty
    let fails {α : Type} (i : Instr) (chk : Nat → Except Fail α) : Prop :=
      ∀ L c d, s.Ready i f.guard → L ∈ s.g.active f.guard → chk L = .error (.trap c d) →
        (∀ M ∈ s.g.active f.guard, M < L → ∃ ps, chk M = .ok ps) →
        Traps i s { cause := c, detail := d, lane := some L }
    let lanes (i : Instr) (acc : Acc) (scale n align : Nat) : Prop := fails i ((s.opened i f.guard).laneAccess acc f scale n align)
    let uniform (i : Instr) (acc : Acc) (align : Nat) : Prop :=
      ∀ c d, s.Ready i f.guard → (s.opened i f.guard).uniAccess f acc n align = .error (.trap c d) →
        Traps i s { cause := c, detail := d, lane := none }
    lanes (.ld f) .read n n 1 ∧ lanes (.st f) .write n n 1
      ∧ lanes (.ldx f) .read 4 (4 * wideCount f.mod.toNat) 1 ∧ lanes (.stx f) .write 4 (4 * wideCount f.mod.toNat) 1
      ∧ lanes (.nibst f) .rmw 1 1 1 ∧ fails (.dcz f) ((s.opened (.dcz f) f.guard).dczAccess f)
      ∧ ((∀ L ∈ s.g.active f.guard, (s.g.lane L).applied = false) → fails (.atom f) ((s.opened (.atom f) f.guard).atomPlace f))
      ∧ uniform (.ldw f) .read 1 ∧ uniform (.stw f) .write 1 ∧ uniform (.atomw f) .rmw n

/-- R151 to R154. NIBST replaces one half of each lane's byte, lane by lane; an ATOM of one active lane and an ATOMW on
local memory write the new value, and answer the old one unless the word says not to.
The model's own choices and readings: log 52, 134, 135. -/
def Obligations.ReadModifyWrite : Prop :=
  ∀ (s : State) (f : FmtM),
    let n := accSize f.ty
    let k := tyRegs f.ty
    let op := f.mod.toNat % 8
    (let s1 := s.opened (.nibst f) f.guard
     let chk (L : Nat) := s1.laneAccess .rmw f 1 1 1 L
     let acc := passing (s.g.active f.guard) chk
     let s3 := (s1.released f).touchLanes true acc
     let code (x : Nat × List Piece) : W32 := (s.g.lane x.1).vr f.b.toNat
     s.Ready (.nibst f) f.guard → s1.orderFree f →
      (∀ L ∈ s.g.active f.guard, ∃ p, chk L = .ok [p] ∧ s.PlainPiece p ∧ (s1.released f).moving p = false) →
      Completes (.nibst f) s (fun t =>
        (∀ a, t.mem.get 0 a = (acc.filter (fun x => x.2.any (fun p => p.loc == a))).foldl
            (fun old x => nibbleByte old ((code x).getLsbD 4) ((code x).extractLsb' 0 4)) (s3.mem.get 0 a))
          ∧ RegFrame s t noRegs noRegs none1 none1 ∧ RestKept s t))
      ∧ (let s1 := s.opened (.atom f) f.guard
         let s2 := s1.released f
         ∀ L pl key p, s.g.active f.guard = [L] → (s.g.lane L).applied = false → s.Ready (.atom f) f.guard → s1.orderFree f →
          s1.atomPlace f L = .ok (pl, key) → s2.checkPages s.g.asid (s.g.lane L).threadId .rmw pl n = .ok [p] →
          s.PlainPiece p → p.len = n → (s2.touch s.g.asid true p).moving p = false →
          let old := bytesNat ((s2.touch s.g.asid true p).bytesAt (dieOf s.g.core) p.loc n)
          let new := atomNew op f.ty old ((s.g.lane L).vrN f.b.toNat k % 2 ^ (8 * n)) ((s.g.lane L).vrN f.dst.toNat k % 2 ^ (8 * n))
          Completes (.atom f) s (fun t =>
            (f.mod.getLsbD 3 = false → (t.g.lane L).vrN f.dst.toNat k = old % 2 ^ (32 * k))
              ∧ (∀ j, j < n → Outside (p.loc + j) (s.slotReach (.atom f) f.guard) →
                  t.mem.get 0 (p.loc + j) = (natBytes n new).getD j 0)
              ∧ WordFrame s t (.atom f) f.guard
                  (if f.mod.getLsbD 3 then noRegs else regsOf [L] f.dst.toNat k) noRegs none1 none1
                  ((p.loc, n) :: p.reach)))
      ∧ (let s1 := s.opened (.atomw f) f.guard
         let s2 := s1.released f
         ∀ p, s.Ready (.atomw f) f.guard → s1.orderFree f → s1.uniAccess f .rmw n n = .ok [p] → s.PlainPiece p → p.len = n →
          (s2.touch s.g.asid true p).moving p = false →
          let old := bytesNat ((s2.touch s.g.asid true p).bytesAt (dieOf s.g.core) p.loc n)
          let new := atomNew op f.ty old (s.g.wrN f.b.toNat k % 2 ^ (8 * n)) (s.g.wrN f.dst.toNat k % 2 ^ (8 * n))
          Completes (.atomw f) s (fun t =>
            (f.mod.getLsbD 3 = false → t.g.wrN f.dst.toNat k = old % 2 ^ (32 * k))
              ∧ (∀ j, j < n → t.mem.get 0 (p.loc + j) = (natBytes n new).getD j 0)
              ∧ WordFrame s t (.atomw f) f.guard noRegs noRegs
                  (fun m => f.mod.getLsbD 3 = false ∧ f.dst.toNat ≤ m ∧ m < f.dst.toNat + k) none1 ((p.loc, n) :: p.reach)))

/-! ### Ends of segments -/

/-- R137, R138, R162, R170 and R261. Where every LIVE lane issues PARK, YIELD, or an AWAIT or TBWAIT that has to wait, and
the record pool has room, each quad becomes a durable record: KIND 0 with the wait of the word, its lanes to resume at the
next clause; KIND 3 for PARK.Y in a yield handler, its lanes to resume where the handler interrupted them. The group has
left its core. The model's own choices and readings: log 29, 47, 51, 130. -/
def Obligations.ParksQuads : Prop :=
  ∀ (s : State) (f : FmtE) (r : Run),
    let n := f.imm.toNat % 512
    let a := s.g.wr f.a.toNat
    let parksFrom (wakes : Prop) (u : State) (i : Instr) (lpc : Nat → W32) (P : Rec → Prop) : Prop :=
      s.Ready i f.guard → s.Issues r i → s.AllActive f.guard r → s.ParkRoom n →
        Completes i s (fun t => Parks wakes s u t n lpc P)
    let parks (i : Instr) : (Nat → W32) → (Rec → Prop) → Prop := parksFrom False (s.opened i f.guard) i
    let next (_ : Nat) : W32 := r.next
    (f.mod = 0 ∨ (f.mod = 2 ∧ s.g.inYield = false) →
        parks (.park f) next (fun x => x.kind = 0 ∧ x.wkind = 0 ∧ x.fired = true))
      ∧ (f.mod = 1 → parks (.park f) next (fun x =>
          x.kind = 0 ∧ x.wkind = 6 ∧ x.wkey0 = w64 (s.now + a.toNat) ∧ (x.fired = true ↔ a = 0)))
      ∧ (f.mod = 2 → s.g.inYield = true →
          parks (.park f) (fun L => (s.g.lane L).ypc.getD r.pc) (fun x => x.kind = 3 ∧ x.wkind = 0 ∧ x.fired = true))
      ∧ (f.mod = 3 → a.toNat < 2 ^ 24 → parks (.park f) next (fun x =>
          x.kind = 0 ∧ x.wkind = 5 ∧ x.wkey0 = a.zeroExtend 64 ∧ x.fired = s.flagDelivered a))
      ∧ parks (.yield f) next (fun x => x.kind = 0 ∧ x.wkind = 0 ∧ x.fired = true)
      ∧ (∀ ser, s.g.pend.get 0 f.a.toNat = ser → ser ≠ 0 → parks (.await f) next (fun x =>
          x.kind = 0 ∧ x.wkind = 1 ∧ x.wkey0 = s.tokenKey ser ∧ x.wkey1 = w64 f.a.toNat ∧ x.evSerial = ser
            ∧ x.dv = true ∧ x.dreg = f.dst.toNat ∧ x.fired = false))
      ∧ (let s1 := s.opened (.tbwait f) f.guard
         ∀ p p', s1.barrierAt f.a.toNat .rmw = .ok p → p.ep = none → s1.liveTbar (s.g.winOf f.a.toNat) p = true →
          s1.moving p = false →
          let s2 := s1.touch s.g.asid true p
          let b := s2.barrierRead p
          s2.barrierAt f.a.toNat .rmw = .ok p' → p'.ep = none → p'.loc = p.loc → b.phase = (s.g.wr f.b.toNat).toNat % 16 →
          let spent := b.arrInit ≠ 0 ∧ b.arr = 0 ∧ b.sect = 0
          parksFrom spent s2 (.tbwait f) next (fun x => x.kind = 0 ∧ x.wkind = 2 ∧ (x.fired = true ↔ spent)
            ∧ (x.wkey0, x.wkey1) = barrierKey p' ((s.g.wr f.b.toNat).toNat % 16)))

/-- R162, R166 and R170. An AWAIT of a register without a pending token, and a TBWAIT on a local barrier whose phase is not
the one awaited, let the LIVE lanes go on to the next clause at once; AWAIT delivers the register's value to DST in every
LIVE and HELPER lane. A TBWAIT ends as every barrier operation does: counts that stand at zero complete the phase.
The model's own choices and readings: log 56. -/
def Obligations.WaitsThatEnd : Prop :=
  ∀ (s : State) (f : FmtE) (r : Run),
    let goes (t : State) : Prop := t.g.run = none ∧ ∀ L, L < 32 → (s.g.lane L).isLive = true → (t.g.lane L).pc = r.next
    let ends (i : Instr) (t : State) (vs : Nat → Nat → Prop) (ms : List (Nat × Nat)) : Prop :=
      goes t ∧ WordFrame s t i f.guard vs noRegs none1 none1 ms
    (s.Ready (.await f) f.guard → s.Issues r (.await f) → s.AllActive f.guard r → s.g.pend.get 0 f.a.toNat = 0 →
        Completes (.await f) s (fun t =>
          (∀ L, L < 32 → (s.g.lane L).isLive = true ∨ (s.g.lane L).isHelper = true ∧ s.g.quadLive (L / 4) ≠ [] →
              (t.g.lane L).vr f.dst.toNat = s.g.wr f.a.toNat)
            ∧ ends (.await f) t (fun _ n => n = f.dst.toNat) []))
      ∧ (s.Ready (.tbwait f) f.guard → s.Issues r (.tbwait f) → s.AllActive f.guard r →
          let s1 := s.opened (.tbwait f) f.guard
          ∀ p p', s1.barrierAt f.a.toNat .rmw = .ok p → p.ep = none → s1.liveTbar (s.g.winOf f.a.toNat) p = true →
          s1.moving p = false →
          let s2 := s1.touch s.g.asid true p
          let b := s2.barrierRead p
          let spent := b.arrInit ≠ 0 ∧ b.arr = 0 ∧ b.sect = 0
          s2.barrierAt f.a.toNat .rmw = .ok p' → p'.ep = none → p'.loc = p.loc → b.phase ≠ (s.g.wr f.b.toNat).toNat % 16 →
          (¬ spent → Completes (.tbwait f) s (fun t => ends (.tbwait f) t noRegs p.reach))
            ∧ (spent → s.PlainPiece p → Completes (.tbwait f) s (fun t =>
              goes t ∧ Stored s t (.tbwait f) f.guard p.loc (natBytes 16 (b.complete s.now).1.toNat)
                ∧ OwnFrame s t (.tbwait f) f.guard noRegs none1 ((p.loc, 16) :: p.reach))))

/-! ### Traps -/

/-- R257, R62, R371 and R374. A precise trap that does not go to the supervisor enters the user-level handler at its resume
point. TRAP and BKPT raise their traps with IMM16 as the detail, and a word with a reserved opcode the
illegal-instruction trap under check 1, whatever its guard. The model's own choices and readings: log 10. -/
def Obligations.TrapWords : Prop :=
  ∀ (s : State) (f : FmtE) (w : W64) (r : Run), s.g.run = some r →
    let enters (i : Instr) (x : Trap) : Prop :=
      s.toSupervisor x.cause = false → Completes i s (fun t => HandlerEntered s t x r.pc r.wix)
    (∀ x pc wix, s.toSupervisor x.cause = false → HandlerEntered s (s.takeTrapAt x pc wix) x pc wix)
      ∧ (s.Ready (.trap f) f.guard → enters (.trap f) { cause := 0x2B, detail := f.imm.toNat, lane := none })
      ∧ (s.Ready (.bkpt f) f.guard → enters (.bkpt f) { cause := 0x2C, detail := f.imm.toNat, lane := none })
      ∧ enters (.reservedOpcode w) { cause := 0x02, detail := w.toNat / 2 ^ 54 + 1024, lane := none }

/-- R371 and R376. A trap that goes to the supervisor adds a frame with the resume point, cause and detail to the context,
and the context is being switched out; TRAP_PC of −1, a handler that runs already, a handler-state trap, and a breakpoint
under BKPT_SUP go there. The model's own choices and readings: log 38, 108. -/
def Obligations.SupervisorTraps : Prop :=
  ∀ (s : State) (x : Trap) (pc : W32) (wix : Nat),
    (s.toSupervisor x.cause = true ↔
        x.cause = 0x2D ∨ (x.cause = 0x2C ∧ s.cx.bkptSup = true) ∨ s.cx.trapPc = 0xFFFFFFFF#32 ∨ s.g.trap ≠ none)
      ∧ (s.toSupervisor x.cause = true →
          let c := (s.takeTrapAt x pc wix).ctx s.g.asid
          (∃ fr, c.frames = s.cx.frames ++ [fr] ∧ fr.pc = pc ∧ fr.wix = wix ∧ fr.cause = x.cause ∧ fr.detail = w32 x.detail
            ∧ fr.nrec = s.g.liveQuads.length ∧ (fr.nested = true ↔ s.g.trap ≠ none))
          ∧ c.state = (if s.cx.state = .running then .switching else s.cx.state))

/-- R258 and R374. TRET restores what the handler's entry saved of each lane, TRET.skip lets the lanes go on after the
trapping word, or at the next clause where it was the last; the handler is left. Outside a handler both raise the
handler-state trap. The model's own choices and readings: log 37. -/
def Obligations.TrapReturns : Prop :=
  ∀ (s : State) (f : FmtE),
    let ret (i : Instr) (skip : Bool) (back : TrapRegs → Lane → HandlerSave → Lane) : Prop :=
      (s.Ready i f.guard → s.g.trap = none → Traps i s { cause := 0x2D, detail := 0, lane := none })
        ∧ ∀ r, s.Ready i f.guard → s.g.trap = some r → Completes i s (fun t =>
          t.g.trap = none ∧ t.g.run = none ∧ t.g.w = s.g.w ∧ t.g.k = s.g.k ∧ t.mem = s.mem ∧ t.others = s.others
            ∧ t.g.resumeWix = r.wix.toNat + (if skip then 1 else 0)
            ∧ ∀ L, L < 32 → t.g.lane L = match (s.g.lane L).saved with
              | none => s.g.lane L
              | some v => back r (s.g.lane L) v)
    ret (.tret f) false (fun _ x v =>
        { x with saved := none, pc := v.pc, mr := v.mr, hold := v.hold, mid := decide (v.hold = .none) })
      ∧ ret (.tretSkip f) true (fun r x v =>
          let last := decide (r.words ≤ r.wix.toNat + 1)
          { x with saved := none, mr := v.mr, hold := .none, applied := false, mid := !last
                   pc := if last then r.after else r.pc })

/-! ### Prefetch, zeroing, fences, locks, maintenance -/

/-- R156, R157 and R161. PREF changes no register and no memory but what translating its addresses changes, whatever its
operands hold; DCZ writes zeros to the bytes of its lanes' ranges and to nothing else, and its zero lines are pinned no
longer (R316); FENCE changes no register and no memory, and as a release at domain or system scope leaves the core's
write-combining buffer empty. The model's own choices and readings: log 53, 54, 125, 136, 137. -/
def Obligations.PrefetchZeroFence : Prop :=
  ∀ (s : State) (f : FmtM) (e : FmtE),
    (let s1 : State := { s with g := s.g.fillKeep (.pref f) (s.g.active f.guard) }
     let acc := passing (s.g.active f.guard) (fun L => s1.laneAccess .read f 4 1 1 L)
     s.Active f.guard → s.g.tokenWait (opcodeOf (.pref f)) (wordRegs (.pref f)) = false →
      Completes (.pref f) s (fun t =>
        WordFrame s t (.pref f) f.guard noRegs noRegs none1 none1 (acc.flatMap (fun x => x.2.flatMap Piece.reach))))
      ∧ (let s1 := s.opened (.dcz f) f.guard
         let acc := passing (s.g.active f.guard) (s1.dczAccess f)
         let zeroLine (p : Piece) (k : Nat) : Prop := p.ep = none ∧ ∃ e lvl at', p.pte = some (e, lvl, at') ∧ pteC e = true
           ∧ pteRep e = false ∧ hasZeroMap p.loc = true
           ∧ ∃ l ∈ linesOf p.loc p.len, k % 2 ^ 73 = p.va / 128 + (l - p.loc / 128)
         s.Ready (.dcz f) f.guard → s1.orderFree f →
         (∀ L ∈ s.g.active f.guard, ∃ ps, s1.dczAccess f L = .ok ps ∧ ∀ p ∈ ps, (s1.released f).moving p = false) →
         Completes (.dcz f) s (fun t =>
           (∀ x ∈ acc, ∀ p ∈ x.2, s.PlainPiece p → ∀ j, j < p.len → t.mem.get 0 (p.loc + j) = 0)
             ∧ (∀ k, k ∈ t.cx.pins ↔ k ∈ s.cx.pins ∧ ¬ ∃ x ∈ acc, ∃ p ∈ x.2, zeroLine p k)
             ∧ t.cx = { s.cx with pins := t.cx.pins } ∧ (∀ a, a ≠ s.g.asid → t.ctx a = s.ctx a)
             ∧ t.g.pend = s.g.pend ∧ t.others = s.others
             ∧ OwnFrame s t (.dcz f) f.guard noRegs none1 (acc.flatMap (fun x => storeReach x.2))))
      ∧ (let sc := scopeOfCode (e.imm.extractLsb' 0 3)
         let acquires := (e.imm.extractLsb' 3 2).toNat = 1
         s.Ready (.fence e) e.guard → (acquires ∨ (s.opened (.fence e) e.guard).releaseFree sc) →
         Completes (.fence e) s (fun t =>
           (¬ acquires → sc = .domain ∨ sc = .system → t.wcb = s.wcb.filter (fun x => !(x.core == s.g.core)))
             ∧ WordFrame s t (.fence e) e.guard noRegs noRegs none1 none1 []))

/-- R158. The status of LLOCK and LULOCK: 4 for a count of 0 or above 4096, 3 for a window or a page that is not cacheable
or replicated, 1 over the quota, 2 over the ways of a set, 5 where a line was not pinned; 0 else, and the lines are
pinned, or unpinned. The model's own choices and readings: log 5, 55, 57. -/
def Obligations.LineLocks : Prop :=
  ∀ (s : State) (f : FmtM) (a : Nat),
    let n := (s.g.wr f.b.toNat).toNat
    let lines := (List.range n).map (fun j => a / 128 + j)
    let window (l : Nat) : Prop := (0xFC ≤ l / 2 ^ 65 ∧ l / 2 ^ 65 ≤ 0xFE) ∨ 0x100 ≤ l / 2 ^ 65
    let die := dieOf s.g.core
    let gives (i : Instr) (st : Nat) (pins : List Nat) (ms : List (Nat × Nat)) : Prop :=
      Completes i s (fun t => t.g.wr f.dst.toNat = w32 st ∧ t.cx.pins = pins ∧ t.g.pend = s.g.pend
        ∧ OwnFrame s t i f.guard noRegs (fun m => m = f.dst.toNat) ms)
    let locks (i : Instr) (st : Nat) (pins : List Nat) : Prop :=
      let s1 := s.opened i f.guard
      s.Ready i f.guard → s.g.uniAddr f 4 = .ok a →
        (n = 0 ∨ 4096 < n → gives i 4 s.cx.pins [])
          ∧ (0 < n → n ≤ 4096 → (∃ l ∈ lines, window l) → gives i 3 s.cx.pins [])
          ∧ ∀ ps, 0 < n → n ≤ 4096 → (∀ l ∈ lines, ¬ window l) →
            permitAll .read (s1.withWalk s.g.asid (((lines.map (fun l => l / 512)).eraseDups).map (fun p => (p * 65536, 1)))) = .ok ps →
            let cached := ∀ p ∈ ps, ∃ e lvl at', p.pte = some (e, lvl, at') ∧ pteC e = true ∧ pteRep e = false
            (¬ cached → gives i 3 s.cx.pins (ps.flatMap Piece.reach)) ∧ (cached → gives i st pins (ps.flatMap Piece.reach))
    let new := lines.filter (fun l => !s.cx.pins.contains (pinKey die l))
    let tooMany := s.cx.lockQuota < s.cx.lockUsed die + new.length
    let fits := s.pinsFit die s.g.asid new = true
    (tooMany → locks (.llock f) 1 s.cx.pins)
      ∧ (¬ tooMany → ¬ fits → locks (.llock f) 2 s.cx.pins)
      ∧ (¬ tooMany → fits → locks (.llock f) 0 (s.cx.pins ++ new.map (pinKey die)))
      ∧ locks (.lulock f) (if lines.all (fun l => s.cx.pins.contains (pinKey die l)) then 0 else 5)
          (s.cx.pins.filter (fun k => !(lines.map (pinKey die)).contains k))

/-- R159 and R20. CWB, CINV and ICINV over a range of the global window make a token of unit 6 and start the operation on
their range; in a scratchpad window, or for an empty range, CWB and CINV complete at once with 0, and ICINV of an empty
range with the dies in operation; the private window, and for ICINV every scratchpad window, is the address-format
trap. The model's own choices and readings: log 57, 93. -/
def Obligations.CacheMaintenance : Prop :=
  ∀ (s : State) (f : FmtM) (a : Nat),
    let len := (s.g.wr f.b.toNat).toNat
    let win := a / 2 ^ 72 % 256
    let maint (i : Instr) (opc : Nat) (all ic : Bool) : Prop :=
      s.Ready i f.guard → s.g.pend.length < 8 → s.g.uniAddr f 4 = .ok a →
        (win ≠ 0xFC → win ≠ 0xFD → win ≠ 0xFE → len ≠ 0 → Completes i s (fun t =>
            TokenMade s t f.dst.toNat 6 ∧ OwnFrame s t i f.guard noRegs none1 []
              ∧ t.maintOps = s.maintOps ++ [{ id := s.serial, core := s.g.core, asid := s.g.asid, opc := opc, all := all
                                              base := BitVec.ofNat 80 a, len := len, value := 0, waits := none }]))
          ∧ (win ≠ 0xFC → (win = 0xFD ∨ win = 0xFE) ∧ ic = false ∨ win ≠ 0xFD ∧ win ≠ 0xFE ∧ len = 0 →
              Completes i s (fun t =>
                t.g.wr f.dst.toNat = (if ic then maskOf 32 s.dies else 0#32) ∧ t.maintOps = s.maintOps ∧ t.g.pend = s.g.pend
                  ∧ OwnFrame s t i f.guard noRegs (fun m => m = f.dst.toNat) []))
          ∧ (win = 0xFC ∨ ic = true ∧ (win = 0xFD ∨ win = 0xFE) → TrapsGroup i s f.guard 0x06 0)
    maint (.cwb f) 0x0D4 (f.mod.getLsbD 0) false ∧ maint (.cinv f) 0x0D5 (f.mod.getLsbD 0) false
      ∧ maint (.icinv f) 0x0D6 true true

/-! ### Barriers and queues -/

/-- R166 to R169. The barrier words on a live barrier, `b` as it stood, here or as its home answered: TBINIT starts it with
n arrivals; TBARV takes c arrivals after posting its sectors and answers the phase before; TBEXP posts sectors; TBPHASE
answers phase and arrivals outstanding. A local barrier holds the result in its 16 bytes, phase changes included, and the
records that waited for the phase are ready. Counts out of range are the overflow trap. Every operation ends so: with
arrivals and sectors at zero the phase advances, the arrivals restart from ARR_INIT and LAST is the time; otherwise nothing
changes. The model's own choices and readings: log 56, 74. -/
def Obligations.Barriers : Prop :=
  (∀ (b : Barrier) (now : Nat),
    (b.arrInit ≠ 0 → b.arr = 0 → b.sect = 0 →
        b.complete now = ({ b with phase := (b.phase + 1) % 16, arr := b.arrInit, last := w32 now }, some b.phase))
      ∧ ((b.arrInit = 0 ∨ b.arr ≠ 0 ∨ b.sect ≠ 0) → b.complete now = (b, none))
      ∧ (b.arrInit < 2 ^ 24 → b.arr < 2 ^ 24 → b.phase < 16 → -(2 ^ 31 : Int) ≤ b.sect → b.sect < 2 ^ 31 →
          Barrier.ofNat b.toNat = b))
  ∧ ∀ (s : State) (f : FmtE) (p : Piece) (b : Barrier),
    let n := (s.g.wr f.b.toNat).toNat
    let e := if f.mod = 1 then (s.g.wr f.c.toNat).toNat else 0
    let win := s.g.winOf f.a.toNat
    let sc := barrierScope win p
    let found (i : Instr) (release : Bool) (op : RemoteOp) : Prop :=
      let s1 := s.opened i f.guard
      let s2 := (if release then s1.releaseDrain sc else s1).touch s.g.asid true p
      s.Ready i f.guard ∧ s1.barrierAt f.a.toNat .rmw = .ok p ∧ s1.moving p = false ∧ (release = true → s1.releaseFree sc)
        ∧ ((s.PlainPiece p ∧ b = s2.barrierRead p) ∨ ∃ ep, p.ep = some ep ∧
            let a : Ask := { tag := 32, ep := ep, addr := p.loc, len := 16, op := op }
            s2.askAll [a] (fun _ => true) = .all
              ∧ b = Barrier.ofNat (match s2.answerOf a with
                  | some r => bytesNat (r.bytes.take 16)
                  | none => 0))
    let woken (t : State) (old : Nat → Prop) : Prop := ∀ x ∈ t.records, x.wkind = 2 → x.wkey0 = (barrierKey p 0).1 →
      x.wkey1.toNat / 2 ^ 20 = (barrierKey p 0).2.toNat / 2 ^ 20 → old (x.wkey1.toNat / 2 ^ 16 % 16) → x.fired = true
    let leaves (i : Instr) (new : Barrier) (old : Nat → Prop) (ws : Nat → Prop) (v : Option W32) : Prop :=
      Completes i s (fun t =>
        (p.ep = none → Stored s t i f.guard p.loc (natBytes 16 new.toNat) ∧ woken t old) ∧ (∀ x ∈ v, t.g.wr f.dst.toNat = x)
          ∧ t.g.pend = s.g.pend ∧ OwnFrame s t i f.guard noRegs ws (if p.ep = none then (p.loc, 16) :: p.reach else p.reach))
    let live := s.liveTbar win p = true
    (found (.tbinit f) false (.barrier 0 n 0) →
        (0xFFFFFF < n → Traps (.tbinit f) s { cause := 0x19, detail := 0, lane := none })
          ∧ (n ≤ 0xFFFFFF → s.tbarSlot win p n = none → Traps (.tbinit f) s { cause := 0x18, detail := 0, lane := none })
          ∧ (n ≤ 0xFFFFFF → (s.tbarSlot win p n).isSome = true → leaves (.tbinit f)
              { arrInit := n, sect := 0, arr := n, phase := 0, last := w32 s.now } (fun _ => True) none1 none))
      ∧ (found (.tbarv f) true (.barrier 1 n e) → live →
          (b.arrive n e = none → p.ep = none ∨ (∀ x ∈ s.wcb, x.core ≠ s.g.core) →
              Traps (.tbarv f) s { cause := 0x19, detail := 0, lane := none })
            ∧ ∀ b1, b.arrive n e = some b1 →
              leaves (.tbarv f) (b1.complete s.now).1 (fun ph => (b1.complete s.now).2 = some ph) (fun m => m = f.dst.toNat) (some (w32 b.phase)))
      ∧ (found (.tbexp f) false (.barrier 2 0 n) → live →
          (b.expect n = none → Traps (.tbexp f) s { cause := 0x19, detail := 0, lane := none })
            ∧ ∀ b1, b.expect n = some b1 → leaves (.tbexp f) (b1.complete s.now).1 (fun ph => (b1.complete s.now).2 = some ph) none1 none)
      ∧ (let spent := p.ep = none ∧ b.arrInit ≠ 0 ∧ b.arr = 0 ∧ b.sect = 0
         found (.tbphase f) false (.barrier 3 0 0) → live → Completes (.tbphase f) s (fun t =>
            t.g.wr f.dst.toNat = w32 (b.phase + b.arr * 16) ∧ t.g.pend = s.g.pend
              ∧ (spent → Stored s t (.tbphase f) f.guard p.loc (natBytes 16 (b.complete s.now).1.toNat)
                  ∧ woken t (fun ph => ph = b.phase))
              ∧ (spent → OwnFrame s t (.tbphase f) f.guard noRegs (fun m => m = f.dst.toNat) ((p.loc, 16) :: p.reach))
              ∧ (¬ spent → OwnFrame s t (.tbphase f) f.guard noRegs (fun m => m = f.dst.toNat) p.reach)))
      ∧ (∀ i ∈ [Instr.tbarv f, .tbexp f, .tbwait f, .tbphase f], s.Ready i f.guard →
          (s.opened i f.guard).barrierAt f.a.toNat .rmw = .ok p → ¬ live → Traps i s { cause := 0x18, detail := 0, lane := none })

/-- R171 to R174. The queue words on a live queue with no waiters: QINIT lays out an empty queue, or ends one; a push that
may proceed stores its value at the tail, a pop takes the one at the head, each with its count; QTRY answers instead of
waiting; QGRANT adds to the allowance, QSTAT reads the header. QPUSH and QPOP end the segment of their lanes. -/
def Obligations.TileQueues : Prop :=
  ∀ (s : State) (f : FmtE) (b : Block) (q off : Nat) (h : Queue) (r : Run), s.g.run = some r →
    let v := s.g.wr f.b.toNat
    let d := f.dst.toNat
    let exe := s.g.executing f.guard
    let quiet := (∀ w ∈ b.waiters, w.q ≠ q) ∧ s.blockOf b.asid b.launch b.num = some b
    let head := b.at off
    let ms := [(head, 16), (ringAt b off h.tail h.cap, 4)]
    let gone (t : State) : Prop := t.g.run = none ∧ ∀ L ∈ s.g.active f.guard, (t.g.lane L).pc = r.next
    let live (i : Instr) : Prop := s.Ready i f.guard ∧ (s.opened i f.guard).queueLive f.a = .ok (b, q, off, h) ∧ quiet
    let ends (i : Instr) (P : State → Prop) (new : Option Queue) (vs : Nat → Nat → Prop) (ws : Nat → Prop) : Prop :=
      Completes i s (fun t => P t ∧ t.g.pend = s.g.pend
        ∧ (∀ x ∈ new, Stored s t i f.guard head (natBytes 16 x.toNat))
        ∧ OwnFrame s t i f.guard vs ws (if new = none then [] else ms))
    let first (i : Instr) : W32 := w32 ((s.opened i f.guard).peek (ringAt b off h.head h.cap) 4)
    let pushed := { h with tail := h.tail + 1, allow := h.allow - 1 }
    let popped := { h with head := h.head + 1 }
    (live (.qpush f) → s.releaseWaits (queueScope f.a) = false → s.g.trap = none → v ≠ 0xFFFFFFFF#32 → h.canPush = true →
        ends (.qpush f) (fun t => gone t ∧ Stored s t (.qpush f) f.guard (ringAt b off h.tail h.cap) (natBytes 4 v.toNat))
          (some pushed) noRegs none1)
      ∧ (live (.qpop f) → s.g.trap = none → h.canPop = true →
          ends (.qpop f) (fun t => gone t ∧ ∀ L ∈ exe, (t.g.lane L).vr d = first (.qpop f)) (some popped) (regsOf exe d 1) none1)
      ∧ (live (.qtryPop f) → ends (.qtryPop f)
          (fun t => ∀ L ∈ exe, (t.g.lane L).vr d = if h.canPop then first (.qtryPop f) else 0xFFFFFFFF#32)
          (if h.canPop then some popped else none) (regsOf exe d 1) none1)
      ∧ (live (.qtryPush f) → s.releaseWaits (queueScope f.a) = false → v ≠ 0xFFFFFFFF#32 → ends (.qtryPush f)
          (fun t => (∀ L ∈ exe, (t.g.lane L).vr d = if h.canPush then 1#32 else 0#32)
            ∧ (h.canPush = true → Stored s t (.qtryPush f) f.guard (ringAt b off h.tail h.cap) (natBytes 4 v.toNat)))
          (if h.canPush then some pushed else none) (regsOf exe d 1) none1)
      ∧ (live (.qgrant f) → ends (.qgrant f) (fun _ => True)
          (some { h with allow := min (h.allow + v.toNat) (2 ^ 31 - 1) }) noRegs none1)
      ∧ (live (.qstat f) → ends (.qstat f)
          (fun t => t.g.wr d = w32 (if f.mod = 1 then h.allow else h.occ + h.popw * 2 ^ 16 + h.pushw * 2 ^ 24))
          none noRegs (fun m => m = d))
      ∧ (let cap := v.toNat
         let o := (s.g.wr (f.b.toNat + 1)).toNat
         let e := b.qmap.get 0 q
         s.Ready (.qinit f) f.guard → s.queueSel f.a = .ok (b, q) → quiet → o < 2 ^ 24 →
         (e = 0 ∨ (s.queueRead b (e - 1)).pushw = 0 ∧ (s.queueRead b (e - 1)).popw = 0) →
         (1 ≤ cap → cap ≤ 256 → o % 16 = 0 → o + 16 + 4 * cap ≤ b.spadSize →
            Completes (.qinit f) s (fun t =>
              Stored s t (.qinit f) f.guard (b.at o) (natBytes 16 (Queue.toNat
                  { pushw := 0, popw := 0, allow := min (s.g.wr f.c.toNat).toNat (2 ^ 31 - 1), cap := cap, tail := 0, head := 0 }))
                ∧ ((t.blockOf b.asid b.launch b.num).map (fun x => x.qmap.get 0 q)) = some (o + 1)
                ∧ OwnFrame s t (.qinit f) f.guard noRegs none1 [(b.at o, 16)]))
           ∧ (cap = 0 → Completes (.qinit f) s (fun t =>
              ((t.blockOf b.asid b.launch b.num).map (fun x => x.qmap.get 0 q)) = some 0
                ∧ (e ≠ 0 → t.queueRead b (e - 1) = { s.queueRead b (e - 1) with cap := 0 })
                ∧ OwnFrame s t (.qinit f) f.guard noRegs none1 (if e = 0 then [] else [(b.at (e - 1), 16)]))))

/-! ### Matrix words and tiles -/

/-- R176, R179 to R181, R185, R187, R191 and R192. MMA, MMAS and MMAU, where the active lanes agree on a format word that
passes its checks, the operands are in place and no element is poisoned: entry (i, j) of the tile becomes the accumulation
of run i of A with run j of B, from its old value or from 0, and the tile is pending until the operation completes. A
disagreeing lane is the vote trap, a bad format word the format trap. UDESC reads a valid descriptor into eight w
registers. The model's own choices and readings: log 34, 60, 62. -/
def Obligations.MatrixWords : Prop :=
  ∀ (s : State) (f : FmtE) (x : W32),
    let n := f.dst.toNat
    let z := f.imm.getLsbD 0
    let w := FmtWord.of x
    let agree := ∀ L ∈ s.g.active f.guard, (s.g.lane L).vr f.c.toNat = x
    let multiplies (i : Instr) (ra rb : List (List MatStep)) : Prop :=
      let val (r c : Nat) := matEntry w.int (ra.getD r []) (rb.getD c []) (if z then 0 else s.entry n r c)
      (∀ r c, r < 32 → c < 32 → (val r c).2 = 0) → (z = true ∨ s.TileClean n) →
      Completes i s (fun t =>
        TileIs s t n (fun r c => (val r c).1) ∧ t.g.tilePend.get 0 n = s.serial
          ∧ (∃ op ∈ t.matOps, op.id = s.serial ∧ op.core = s.g.core ∧ op.slot = n
              ∧ op.since = s.now ∧ w.cycles ≤ op.cycles)
          ∧ TileFrame s t i f.guard noRegs none1 none1 none1 [])
    let checks (i : Instr) (kind : MatKind) : Prop :=
      s.Ready i f.guard → s.TileReady n →
        (∀ L, L ∈ s.g.active f.guard → (s.g.lane L).vr f.c.toNat ≠ (s.g.lane ((s.g.active f.guard).headD 0)).vr f.c.toNat →
            (∀ M ∈ s.g.active f.guard, M < L →
              (s.g.lane M).vr f.c.toNat = (s.g.lane ((s.g.active f.guard).headD 0)).vr f.c.toNat) →
            Traps i s { cause := 0x14, detail := L, lane := none })
          ∧ (agree → ∀ e, w.check kind = some e → Traps i s { cause := 0x15, detail := e, lane := none })
    let ok (i : Instr) (kind : MatKind) : Prop := s.Ready i f.guard ∧ s.TileReady n ∧ agree ∧ w.check kind = none
    let a := s.g.wrN f.a.toNat 3
    let b := s.g.wrN f.b.toNat 3
    let lb := w.layoutB
    checks (.mma f) .mma ∧ checks (.mmas f) .mmas ∧ checks (.mmau f) .mmau
      ∧ (let s1 := s.opened (.mma f) f.guard
         let la := w.layoutA .mma
         ok (.mma f) .mma → ∀ pa pb, s1.operandLoc a la.bytes = .ok pa → s1.operandLoc b lb.bytes = .ok pb →
          multiplies (.mma f) ((s1.view a pa la.bytes).runs la) ((s1.view b pb lb.bytes).runs lb))
      ∧ (let s1 := s.opened (.mmas f) f.guard
         let la := w.layoutA .mmas
         let wide := f.imm.getLsbD 1
         let base := 32 * lb.stride
         ok (.mmas f) .mmas → ∀ pa pb, s1.operandLoc a la.bytes = .ok pa → s1.operandLoc b (base + 8 * la.depth) = .ok pb →
          let o := s1.view b pb (base + 8 * la.depth)
          (∀ c g, c < 32 → g < la.depth / (if wide then 8 else 4) → (sparseGroup o base la.depth wide c g).2 = true) →
          multiplies (.mmas f) ((s1.view a pa la.bytes).runs la)
            ((List.range 32).map (sparseColumn o lb base la.depth wide)))
      ∧ (let s1 := s.opened (.mmau f) f.guard
         let u := Unfold.of (fun j => (s.g.wr (f.a.toNat + j)).toNat)
         ok (.mmau f) .mmau → u.valid = true → ∀ pa pb, s1.operandLoc u.base (u.bytes w.fa) = .ok pa →
          s1.operandLoc b lb.bytes = .ok pb →
          multiplies (.mmau f) (u.runs (s1.view u.base pa (u.bytes w.fa)) w.fa w.depth) ((s1.view b pb lb.bytes).runs lb))
      ∧ (∀ base ps, s.Ready (.udesc f) f.guard → s.uniformAddr f.a.toNat = .ok base →
          s.checkAccess (s.g.uniThread f.guard) .read base 32 16 = .ok ps → s.ownWriteWaits (s.g.threads f.guard) ps = false →
          s.askAll (readAsks 32 ps) (fun _ => true) = .all →
          let y := bytesNat ((s.touchAll s.g.asid false ps).gather 32 ps)
          let valid := (Unfold.of (fun j => y / 2 ^ (32 * j) % 2 ^ 32)).valid
          (valid = true → Completes (.udesc f) s (fun t => t.g.wrN f.dst.toNat 8 = y % 2 ^ 256
              ∧ WordFrame s t (.udesc f) f.guard noRegs noRegs (fun m => f.dst.toNat ≤ m ∧ m < f.dst.toNat + 8) none1
                  (ps.flatMap Piece.reach)))
            ∧ (valid = false → Traps (.udesc f) s { cause := 0x17, detail := 0, lane := none }))

/-- R193 to R195. ACLR makes every entry 0; ALD reads 32 rows of 128 bytes at the stride, ALD.sparse an image; AST stores
the rows, ASTS the image under its budget. Entries, and bytes, are those the spec's layouts give; an image that R195
finds malformed is the image-format trap. The model's own choices and readings: log 46, 61, 146. -/
def Obligations.TileMemory : Prop :=
  ∀ (s : State) (f : FmtE) (a st : Nat),
    let n := f.dst.toNat
    let word (bs : List Byte) (c : Nat) : W32 := w32 (bytesNat ((bs.drop (4 * c)).take 4))
    let ok (i : Instr) : Prop := s.Ready i f.guard ∧ s.TileReady n ∧ s.tileAddr f.a.toNat 16 = .ok a
    let room (acc : List (Nat × List Piece)) : Prop := s.mayStore (acc.flatMap (·.2))
    let stores (i : Instr) (acc : List (Nat × List Piece)) (data : Nat → List Byte) : Prop :=
      Completes i s (fun t => StoredIn s t acc data ∧ t.acc = s.acc ∧ t.accPoison = s.accPoison
        ∧ TileFrame s t i f.guard noRegs none1 none1 none1 (acc.flatMap (fun x => storeReach x.2)))
    (s.Ready (.aclr f) f.guard → s.TileReady n → Completes (.aclr f) s (fun t =>
        TileIs s t n (fun _ _ => 0) ∧ TileFrame s t (.aclr f) f.guard noRegs none1 none1 none1 []))
      ∧ (let chk (j : Nat) := s.partAccess f.guard .read a 128 (st * j)
         let acc := passing (List.range 32) chk
         let row (j : Nat) : List Byte := match chk j with
           | .ok ps => (s.touchLanes false acc).gather (64 + j) ps
           | .error _ => []
         ok (.ald f) → strideOf (s.g.wr f.b.toNat) = .ok st → (∀ j, j < 32 → ∃ ps, chk j = .ok ps) →
         (∀ x ∈ acc, s.ownWriteWaits (s.g.threads f.guard) x.2 = false) →
         s.askAll (acc.flatMap (fun x => readAsks (64 + x.1) x.2)) (fun _ => true) = .all →
         Completes (.ald f) s (fun t => TileIs s t n (fun i c => word (row i) c)
           ∧ TileFrame s t (.ald f) f.guard noRegs none1 none1 none1 (acc.flatMap (fun x => x.2.flatMap Piece.reach))))
      ∧ (∀ ps, ok (.aldSparse f) → s.partAccess f.guard .read a 4112 0 = .ok ps →
          s.ownWriteWaits (s.g.threads f.guard) ps = false → s.askAll (readAsks 64 ps) (fun _ => true) = .all →
          let image := imageTile ((s.touchAll s.g.asid false ps).gather 64 ps)
          (image = none → Traps (.aldSparse f) s { cause := 0x13, detail := 0, lane := none })
            ∧ ∀ es, image = some es → Completes (.aldSparse f) s (fun t => TileIs s t n (fun i c => es.getD (32 * i + c) 0)
                ∧ TileFrame s t (.aldSparse f) f.guard noRegs none1 none1 none1 (ps.flatMap Piece.reach)))
      ∧ (let chk (j : Nat) := s.partAccess f.guard .write a 128 (st * j)
         let acc := passing (List.range 32) chk
         ok (.ast f) → strideOf (s.g.wr f.b.toNat) = .ok st → (∀ j, j < 32 → ∃ ps, chk j = .ok ps) → room acc →
         stores (.ast f) acc (fun j => (List.range 32).flatMap (fun c => natBytes 4 (s.entry n j c).toNat)))
      ∧ (let budget := (s.g.wr f.b.toNat).toNat
         let image := tileImage ((List.range 1024).map (fun j => s.entry n 0 j)) budget
         ∀ ps, ok (.asts f) → budget % 16 = 0 → (∃ qs, s.partAccess f.guard .write a 4112 0 = .ok qs) →
          s.partAccess f.guard .write a image.2 0 = .ok ps → room [(0, ps)] → stores (.asts f) [(0, ps)] (fun _ => image.1))

/-- R196, R200 and R201, on a slot without poisoned entries. ACVT converts every entry, under rs each executing lane drawing
for its column, row by row; ATOPK and AREDR give lane i of the executing lanes the result of row i; ATOPK.z keeps the
entries of the mask alone. The model's own choices and readings: log 59. -/
def Obligations.TileArithmetic : Prop :=
  ∀ (s : State) (f : FmtE),
    let exe := s.g.executing f.guard
    let int := f.imm.getLsbD 0
    let row (n i : Nat) : List W32 := (List.range 32).map (fun c => s.entry n i c)
    let m := s.g.rm (f.imm.toNat % 8)
    let scale := decodeF (fmtOf .f32) (s.g.wr f.b.toNat).toNat
    let n := f.dst.toNat
    let src := f.a.toNat
    let mask (i : Nat) : BitVec 32 := topMask int (row src i) (f.imm.toNat / 2 % 64)
    (s.Ready (.acvt f) f.guard → s.TileReady n → s.TileClean n → Completes (.acvt f) s (fun t =>
        TileIs s t n (fun i c => acvtEntry f.mod.toNat (f.imm.getLsbD 3) scale (if m = .rs ∧ c ∉ exe then .rne else m)
            (if m = .rs ∧ c ∈ exe then (draws 32 (s.g.lane c).rng).1.getD i 0 else 0) (s.entry n i c))
          ∧ (∀ L ∈ exe, m = .rs → (t.g.lane L).rng = (draws 32 (s.g.lane L).rng).2)
          ∧ TileFrame s t (.acvt f) f.guard noRegs none1 (fun L => m = .rs ∧ L ∈ exe) none1 []))
      ∧ (s.Ready (.atopk f) f.guard → s.TileReady src → s.TileClean src → Completes (.atopk f) s (fun t =>
        (∀ L ∈ exe, (t.g.lane L).vr f.dst.toNat = mask L)
          ∧ (f.mod.getLsbD 0 = true → TileIs s t src (fun i c => if (mask i).getLsbD c then s.entry src i c else 0))
          ∧ (f.mod.getLsbD 0 = false → t.acc = s.acc ∧ t.accPoison = s.accPoison)
          ∧ TileFrame s t (.atopk f) f.guard (regsOf exe f.dst.toNat 1) none1 none1 none1 []))
      ∧ (s.Ready (.aredr f) f.guard → s.TileReady src → s.TileClean src → Completes (.aredr f) s (fun t =>
        (∀ L ∈ exe, (t.g.lane L).vr f.dst.toNat = w32 (rowReduce f.mod.toNat int ((row src L).map (·.toNat))))
          ∧ t.acc = s.acc ∧ t.accPoison = s.accPoison
          ∧ TileFrame s t (.aredr f) f.guard (regsOf exe f.dst.toNat 1) none1 none1 none1 []))

/-- R197 and R198. AQUANT quantises the 32 rows, or columns, of a slot without poisoned entries, and stores their code
blocks at one address and their scale words at the other, each at its stride; under rs the executing lanes' generators
step. The model's own choices and readings: log 58. -/
def Obligations.Quantisation : Prop :=
  ∀ (s : State) (f : FmtE) (cb sb : Nat) (s1 s2 : State),
    let n := f.dst.toNat
    let ctype := f.imm.toNat % 4
    let col := f.imm.getLsbD 2
    let m := s.g.rm (f.imm.toNat / 8 % 8)
    let strides := (s.g.wr f.b.toNat).toNat
    let d := (List.range 32).map (s.g.colDraws f.guard m)
    let block (j : Nat) := quantBlock ctype (fun e => if col then entryMode m d e j else entryMode m d j e)
      ((List.range 32).map (fun e => decodeF (fmtOf .f32) (if col then s.entry n e j else s.entry n j e).toNat))
    let codes := (List.range 32).map (fun j => (codeBytes (block j).2.2, ([] : List Nat)))
    let scales := (List.range 32).map (fun j =>
      (natBytes 4 ((block j).1 + ctype * 65536 + wrapTo 8 (block j).2.1 * 2 ^ 18), ([] : List Nat)))
    let at' (k w : Nat) : List Nat := (List.range 32).map (fun j => (if k = 0 then w else w * k) * j)
    s.Ready (.aquant f) f.guard → s.TileReady n → s.TileClean n → s.tileAddr f.a.toNat 16 = .ok cb →
    s.tileAddr f.c.toNat 4 = .ok sb →
    (∀ j, j < 32 → ∃ ps, s.partAccess f.guard .write sb 4 ((if strides / 65536 = 0 then 4 else 4 * (strides / 65536)) * j) = .ok ps) →
    s.storeParts f.guard cb 16 (at' (strides % 65536) 16) codes = .done s1 →
    s1.storeParts f.guard sb 4 (at' (strides / 65536) 4) scales = .done s2 →
    Ends (.aquant f) s f.guard { s2 with g := s2.g.afterDraws d }

/-- R202 to R204. ABIND binds a slot to a handle whose image exists and that passes its checks, loading the image where the
word says so; AUNBIND removes the binding; AFLUSH and AUNBIND.flush store the slot's rows to the image first.
The model's own choices and readings: log 63. -/
def Obligations.TileBindings : Prop :=
  ∀ (s : State) (f : FmtE) (a : Nat),
    let n := f.dst.toNat
    let h := s.g.wr f.a.toNat
    let old := s.g.handles.get noMeeting n
    let one (m : Nat) : Prop := m = n
    let there := n < s.g.tiles ∧ s.g.kr n = true
    let rd (j : Nat) := s.partAccess f.guard .read a 128 (128 * j)
    let racc := passing (List.range 32) rd
    let wacc := passing (List.range 32) (fun j => s.partAccess f.guard .write a 128 (128 * j))
    let row (j : Nat) : List Byte := match rd j with
      | .ok ps => (s.touchLanes false racc).gather (64 + j) ps
      | .error _ => []
    let flush (i : Instr) (hs : Nat → Prop) (P : State → Prop) : Prop :=
      s.Ready i f.guard → s.TileReady n →
        (old = noMeeting → Traps i s { cause := 0x12, detail := 5, lane := none })
          ∧ (old ≠ noMeeting → s.imageAddr s.g.asid old = some a →
            (∀ j, j < 32 → ∃ ps, s.partAccess f.guard .write a 128 (128 * j) = .ok ps) →
            s.mayStore (wacc.flatMap (·.2)) →
            Completes i s (fun t => P t ∧ t.acc = s.acc
              ∧ StoredIn s t wacc (fun j => (List.range 32).flatMap (fun c => natBytes 4 (s.entry n j c).toNat))
              ∧ TileFrame s t i f.guard noRegs none1 none1 hs (wacc.flatMap (fun x => storeReach x.2))))
    (s.Ready (.abind f) f.guard → there → f.mod.getLsbD 0 = false ∨ s.TileReady n →
        (s.imageAddr s.g.asid h = none → Traps (.abind f) s { cause := 0x11, detail := h.toNat, lane := none })
          ∧ (∀ e, s.imageAddr s.g.asid h = some a → s.bindCheck n h = some e →
              Traps (.abind f) s { cause := 0x12, detail := e, lane := none })
          ∧ (s.imageAddr s.g.asid h = some a → s.bindCheck n h = none → f.mod.getLsbD 0 = false →
              Completes (.abind f) s (fun t => t.g.handles.get noMeeting n = h ∧ t.acc = s.acc
                ∧ TileFrame s t (.abind f) f.guard noRegs none1 none1 one []))
          ∧ (s.imageAddr s.g.asid h = some a → s.bindCheck n h = none → f.mod.getLsbD 0 = true →
              (∀ j, j < 32 → ∃ ps, rd j = .ok ps) →
              (∀ x ∈ racc, s.ownWriteWaits (s.g.threads f.guard) x.2 = false) →
              s.askAll (racc.flatMap (fun x => readAsks (64 + x.1) x.2)) (fun _ => true) = .all →
              Completes (.abind f) s (fun t => t.g.handles.get noMeeting n = h
                ∧ TileIs s t n (fun i c => w32 (bytesNat (((row i).drop (4 * c)).take 4)))
                ∧ TileFrame s t (.abind f) f.guard noRegs none1 none1 one (racc.flatMap (fun x => x.2.flatMap Piece.reach)))))
      ∧ (s.Ready (.aunbind f) f.guard → there → s.g.reload.getLsbD n = false → Completes (.aunbind f) s (fun t =>
          t.g.handles.get noMeeting n = noMeeting ∧ t.acc = s.acc
            ∧ TileFrame s t (.aunbind f) f.guard noRegs none1 none1 one []))
      ∧ flush (.aflush f) none1 (fun _ => True)
      ∧ flush (.aunbindFlush f) one (fun t => t.g.handles.get noMeeting n = noMeeting)

/-- R175 and R205. A tile word whose tile predicate is clear does nothing; a slot outside the allocation is the
tile-allocation trap. The tile-predicate words change one tile predicate, or all sixteen, once for the group, and nothing
else; KTEST writes one predicate of its lanes, KTEST.mask a w register. -/
def Obligations.TilePredicates : Prop :=
  ∀ (s : State) (f : FmtE),
    let guards (i : Instr) (n : Nat) : Prop :=
      s.Ready i f.guard → s.g.tilePend.get 0 n = 0 → s.g.reload.getLsbD n = false →
        (s.g.tiles ≤ n → Traps i s { cause := 0x10, detail := n, lane := none })
          ∧ (n < s.g.tiles → s.g.kr n = false → Ends i s f.guard (s.opened i f.guard))
    let kr (x : BitVec 8) := s.g.kr (x.toNat % 16)
    let sets (i : Instr) (k : Nat → Bool) : Prop := s.Ready i f.guard →
      ∃ b : BitVec 16, (∀ n, n < 16 → b.getLsbD n = k n) ∧ Ends i s f.guard { s with g := { s.g with k := b } }
    let one (v : Bool) (n : Nat) : Bool := if n = f.dst.toNat % 16 then v else s.g.kr n
    (guards (.mma f) f.dst.toNat ∧ guards (.mmau f) f.dst.toNat ∧ guards (.mmas f) f.dst.toNat ∧ guards (.aclr f) f.dst.toNat
        ∧ guards (.ald f) f.dst.toNat ∧ guards (.aldSparse f) f.dst.toNat ∧ guards (.ast f) f.dst.toNat
        ∧ guards (.asts f) f.dst.toNat ∧ guards (.acvt f) f.dst.toNat ∧ guards (.aquant f) f.dst.toNat
        ∧ guards (.atopk f) f.a.toNat ∧ guards (.aredr f) f.a.toNat ∧ guards (.abind f) f.dst.toNat
        ∧ guards (.aunbind f) f.dst.toNat ∧ guards (.aunbindFlush f) f.dst.toNat ∧ guards (.aflush f) f.dst.toNat)
      ∧ sets (.kset f) (one (f.imm.getLsbD 0)) ∧ sets (.ksetMask f) (fun n => (s.g.wr f.a.toNat).getLsbD n)
      ∧ sets (.kand f) (one (kr f.a && kr f.b)) ∧ sets (.kor f) (one (kr f.a || kr f.b)) ∧ sets (.knot f) (one (!kr f.a))
      ∧ (f.dst.toNat < 8 → PredWord s (.ktest f) f.guard f.dst.toNat (fun _ => kr f.a))
      ∧ UniformWord s (.ktestMask f) f.guard f.dst.toNat 1 s.g.k.toNat

/-! ### Engines, mesh and fabric -/

/-- R207, R215 to R220 and R247. An engine word that passes its checks, with room in its unit's queue, enters its operation
and makes its token: XTMPL stores the template, XCOPY takes the pattern of a template at two offsets, XGATH and XSCAT a
gather descriptor, SINTER and SMERGE two sorted streams, HTDRAIN a table. Nothing else changes.
The model's own choices and readings: log 75. -/
def Obligations.EngineWords : Prop :=
  ∀ (s : State) (f : FmtE),
    let d := some f.dst.toNat
    let tid := s.g.uniThread f.guard
    let tids := s.g.threads f.guard
    let starts (i : Instr) (unit : Nat) (wd : Option Nat) (bar : Option Addr) (kind : EngKind) (ms : List (Nat × Nat)) : Prop :=
      Completes i s (fun t => Started s t unit wd bar kind ∧ OwnFrame s t i f.guard noRegs none1 ms)
    let ok (i : Instr) (copy : Bool) (wd : Option Nat) : Prop := s.Ready i f.guard ∧ s.EngineRoom copy wd
    let quiet := f.imm.getLsbD 0
    let wq := if quiet then none else d
    (let i := (s.g.wr f.b.toNat).toNat
     let x := s.g.wrN f.a.toNat 16
     ok (.xtmpl f) true d →
      (s.cx.tmplCount ≤ i → Traps (.xtmpl f) s { cause := 0x1D, detail := 1, lane := none })
        ∧ (i < s.cx.tmplCount → (Template.of x).ok = false → Traps (.xtmpl f) s { cause := 0x1D, detail := 2, lane := none })
        ∧ ∀ ps, i < s.cx.tmplCount → (Template.of x).ok = true → s.checkAccess tid .write (s.templateAt i) 64 1 = .ok ps → s.mayStore ps →
          Completes (.xtmpl f) s (fun t => StoredIn s t [(0, ps)] (fun _ => natBytes 64 x)
            ∧ OwnFrame s t (.xtmpl f) f.guard noRegs none1 (storeReach ps)
            ∧ ∃ ser, s.serial ≤ ser ∧ ((∀ p ∈ ps, p.ep = none) → ser = s.serial)
              ∧ Started { s with serial := ser } t 1 d none (.tmpl i)))
      ∧ (let i := (s.g.wr f.a.toNat).toNat
         ∀ ps, ok (.xcopy f) true wq → i < s.cx.tmplCount → s.checkAccess tid .read (s.templateAt i) 64 1 = .ok ps →
          s.ownWriteWaits tids ps = false → s.askAll (readAsks 32 ps) (fun _ => true) = .all →
          let s1 := s.touchAll s.g.asid false ps
          let x := Template.of (bytesNat (s1.gather 32 ps))
          let so := (x.plan.src.toNat : Int) + (s.g.wr f.b.toNat).toInt
          let dst := (x.plan.dst.toNat : Int) + (s.g.wr f.c.toNat).toInt
          let se := patternEnds so x.plan x.plan.spstride x.plan.sstride
          let de := patternEnds dst x.plan x.plan.dpstride x.plan.dstride
          let inside (e : Int × Int) (a : Addr) : Prop := winInt e.1 = winOfAddr a ∧ winInt e.2 = winOfAddr a
          x.ok = true → (quiet = true → x.bar = true) → inside se x.plan.src → inside de x.plan.dst →
          s1.patternFail (winOfAddr x.plan.src) se = none → s1.patternFail (winOfAddr x.plan.dst) de = none →
          (x.bar = true → s1.copyBarrier x.barAddr = none) →
          starts (.xcopy f) 1 wq (if x.bar then some x.barAddr else none)
            (.copy { x.plan with src := BitVec.ofInt 80 so, dst := BitVec.ofInt 80 dst }) (ps.flatMap Piece.reach))
      ∧ (let w (j : Nat) : Nat := (s.g.wr (f.a.toNat + j)).toNat
         let p := GatherPlan.of w
         let gathers (i : Instr) (kind : EngKind) : Prop :=
          ok i true wq → gatherFields w = true → winOfAddr p.tbase ≠ 0xFE → winOfAddr p.tbase ≠ 0xFC → s.gatherBounds p = none →
            (f.imm.getLsbD 1 = false → quiet = false → starts i 1 wq none kind [])
              ∧ ∀ pc, f.imm.getLsbD 1 = true → s.barrierAt f.b.toNat .rmw = .ok pc → s.liveTbar (s.g.winOf f.b.toNat) pc = true →
                starts i 1 wq (some (BitVec.ofNat 80 (s.g.wrN f.b.toNat 3))) kind pc.reach
         gathers (.xgath f) (.gather p) ∧ gathers (.xscat f) (.scatter p))
      ∧ (let w (j : Nat) : Nat := (s.g.wr (f.a.toNat + j)).toNat
         let eb := s.g.wrN f.b.toNat 3
         let cap := (s.g.wr f.c.toNat).toNat
         let streams (i : Instr) (emit : Bool) (kind : StreamPlan → EngKind) : Prop :=
          let p := StreamPlan.of w (if emit then some (BitVec.ofNat 80 eb, cap) else none)
          let fine (a n : Nat) : Prop := a / 2 ^ 72 % 256 ≠ 0xFC ∧ a % 4 = 0 ∧ s.areaFail a n = none
          ok i true d → w 2 < 65536 → w 6 < 65536 → fine p.abase.toNat p.na → fine p.bbase.toNat p.nb →
          (emit = true → eb < 2 ^ 80 ∧ fine eb cap) → starts i 1 d none (kind p) []
         streams (.sinter f) (f.mod.getLsbD 0) .inter ∧ streams (.smerge f) true .merge)
      ∧ (let a := s.g.wrN f.a.toNat 3
         let cap := (s.g.wr f.b.toNat).toNat
         ok (.htdrain f) false d →
          (s.table (hnum f) = none → Traps (.htdrain f) s { cause := 0x25, detail := hnum f, lane := none })
            ∧ ∀ T, s.table (hnum f) = some T → a < 2 ^ 80 → a / 2 ^ 72 % 256 ≠ 0xFC → a % T.t.slot = 0 →
              (cap = 0 ∨ (∃ x, s.decode a = .ok x) ∧ ∃ y, s.decode ((a + cap * T.t.slot - 1) % 2 ^ 80) = .ok y) →
              s.draining (hnum f) = false →
              starts (.htdrain f) 2 d none (.drain
                { h := hnum f, dst := BitVec.ofNat 80 a, cap := cap, key := f.imm.getLsbD 3, clear := f.imm.getLsbD 4 }) [])

/-- R222 to R226. MRSEL opens a free channel with the configuration in its words, or closes it; MRED of a contributor sends
its elements in the round that its counter names, advances the counter, and answers the round number; MRCV at the root
takes the next round into a result area of the block's scratchpad. A word that may not use the channel is the mesh
trap with its detail. The model's own choices and readings: log 69, 71. -/
def Obligations.MeshWords : Prop :=
  ∀ (s : State) (f : FmtE),
    let die := dieOf s.g.core
    let ch := f.imm.toNat % 16
    let c := s.chan die ch
    let n := s.g.core % 64
    let k := c.sent.get 0 n
    let others (t : State) : Prop := ∀ x, x ≠ chanKey die ch → t.channels.get Channel.off x = s.channels.get Channel.off x
    let known := c.rounds.any (fun r => r.num == k) = true ∨ s.roundTaken die ch k = true
    let elems := (List.range (f.imm.toNat / 16 % 64 + 1)).map (fun e =>
      if e ∈ s.g.active f.guard then some ((s.g.lane e).vr f.a.toNat) else none)
    let off := (s.g.wr f.b.toNat).toNat
    let trap (i : Instr) (x d : Nat) : Prop := Traps i s { cause := x, detail := d, lane := none }
    let traps (i : Instr) (d : Nat) : Prop := trap i 0x1F d
    let free : Prop := c.opened = false ∨ c.asid = s.g.asid
    let room := match s.thisBlock with | some b => b.spadSize | none => 0
    (s.Ready (.mrselOpen f) f.guard →
        (c.opened = true → c.asid ≠ s.g.asid → traps (.mrselOpen f) 1)
          ∧ (free → c.rounds ≠ [] → traps (.mrselOpen f) 2)
          ∧ (let cfg := chanConfig (fun j => (s.g.wr (f.a.toNat + j)).toNat) (fun m => s.coreLive (die * 64 + m))
             free → c.rounds = [] → (cfg = none → traps (.mrselOpen f) 6)
              ∧ ∀ x, cfg = some x → Completes (.mrselOpen f) s (fun t =>
                t.chan die ch = { x with asid := s.g.asid, late := if c.opened then c.late + c.flight.length else 0 } ∧ others t
                  ∧ OwnFrame s t (.mrselOpen f) f.guard noRegs none1 [])))
      ∧ (s.Ready (.mrselClose f) f.guard →
        (c.opened = true → c.asid ≠ s.g.asid → traps (.mrselClose f) 1)
          ∧ (free → c.rounds ≠ [] → traps (.mrselClose f) 2)
          ∧ (c.opened = false → c.rounds = [] → traps (.mrselClose f) 3)
          ∧ (c.opened = true → c.asid = s.g.asid → c.rounds = [] → Completes (.mrselClose f) s (fun t =>
            t.chan die ch = Channel.off ∧ others t ∧ OwnFrame s t (.mrselClose f) f.guard noRegs none1 [])))
      ∧ (s.Ready (.mred f) f.guard → s.g.pend.length < 8 →
        (c.opened = true → c.asid ≠ s.g.asid → traps (.mred f) 1)
          ∧ (c.opened = false → traps (.mred f) 3)
          ∧ (c.opened = true → c.asid = s.g.asid → ¬ (n < 52 ∧ c.mask.getLsbD n = true) → traps (.mred f) 4)
          ∧ (c.opened = true → c.asid = s.g.asid → n < 52 → c.mask.getLsbD n = true → f.imm.getLsbD 10 ≠ c.isInt →
              traps (.mred f) 7)
          ∧ (c.opened = true → c.asid = s.g.asid → n < 52 → c.mask.getLsbD n = true → f.imm.getLsbD 10 = c.isInt →
              (known ∨ c.rounds.length < 2) → s.SerialFresh → Completes (.mred f) s (fun t =>
                t.g.wr f.dst.toNat = w32 (k % 256) ∧ (t.chan die ch).sent.get 0 n = k + 1
                  ∧ (t.chan die ch).flight = c.flight ++ [(n, k, elems)] ∧ others t
                  ∧ OwnFrame s t (.mred f) f.guard noRegs (fun m => m = f.dst.toNat) [])))
      ∧ (s.Ready (.mrcv f) f.guard → s.g.pend.length < 8 →
        (c.opened = true → c.asid ≠ s.g.asid → traps (.mrcv f) 1)
          ∧ (c.opened = false → traps (.mrcv f) 3)
          ∧ (c.opened = true → c.asid = s.g.asid → n ≠ c.root → traps (.mrcv f) 5)
          ∧ (c.opened = true → c.asid = s.g.asid → n = c.root → off % 16 ≠ 0 → trap (.mrcv f) 0x0B 0)
          ∧ (c.opened = true → c.asid = s.g.asid → n = c.root → off % 16 = 0 → room < off + 144 →
              trap (.mrcv f) 0x08 (off % 2 ^ 24))
          ∧ ∀ b, c.opened = true → c.asid = s.g.asid → n = c.root → off % 16 = 0 → s.thisBlock = some b → off + 144 ≤ b.spadSize →
            Completes (.mrcv f) s (fun t =>
              Started s t 4 (some f.dst.toNat) none (.mrcv ch off c.recvd) ∧ (t.chan die ch).recvd = c.recvd + 1 ∧ others t
                ∧ OwnFrame s t (.mrcv f) f.guard noRegs none1 []))

/-- R228, R231, R232 and R306. XSLOT selects a slot below 64; XSTC answers the open span and its count; XFLAG on a page of the
destination endpoint, once no replica has a write to take, leaves the core's buffer empty, makes a token of unit 5, and its flag waits for the
copies and scatters of the context that the core still holds. -/
def Obligations.FabricWords : Prop :=
  ∀ (s : State) (f : FmtE),
    let x := (s.g.wr f.a.toNat).toNat
    let a := s.g.wrN f.b.toNat 3
    (s.Ready (.xslot f) f.guard →
        (64 ≤ x → Traps (.xslot f) s { cause := 0x20, detail := 0, lane := none })
          ∧ (x < 64 → ∃ b : BitVec 6, b.toNat = x ∧ Ends (.xslot f) s f.guard { s with g := { s.g with slotSel := b } }))
      ∧ (s.Ready (.xstc f) f.guard → 65536 ≤ x → Traps (.xstc f) s { cause := 0x20, detail := 0, lane := none })
      ∧ (x < 65536 → UniformWord s (.xstc f) f.guard f.dst.toNat 1
          ((s.send (x % 1024) (x / 1024)).span.toNat * 2 ^ 24 + (s.send (x % 1024) (x / 1024)).count))
      ∧ (s.Ready (.xflag f) f.guard → s.g.pend.length < 8 → s.releaseWaits .domain = false → a < 2 ^ 80 →
          (65536 ≤ x → Traps (.xflag f) s { cause := 0x20, detail := 0, lane := none })
            ∧ (x < 65536 → a % 4 ≠ 0 → Traps (.xflag f) s { cause := 0x0B, detail := 0, lane := none })
            ∧ ∀ p, x < 65536 → a % 4 = 0 → s.flagPage a (x % 1024) = .ok p → Completes (.xflag f) s (fun t =>
              TokenMade s t f.dst.toNat 5
                ∧ t.wcb = s.wcb.filter (fun e => !(e.core == s.g.core))
                ∧ (∃ o, t.flagOps = s.flagOps ++ [o] ∧ o.id = s.serial ∧ o.dst = x % 1024 ∧ o.slot = x / 1024
                    ∧ o.addr = p.loc ∧ o.value = s.g.wr f.c.toNat
                    ∧ ∀ n, n ∈ o.after ↔ ∃ e ∈ s.engOps, e.id = n ∧ e.core = s.g.core ∧ e.asid = s.g.asid
                        ∧ ((∃ q, e.kind = .copy q) ∨ ∃ q, e.kind = .scatter q))
                ∧ OwnFrame s t (.xflag f) f.guard noRegs none1 p.reach))

/-! ### Hash tables -/

/-- R239, R240 and R248. HTCLAIM answers its status, and where it is 0 lays out an empty table and enters it in the block's
map; a group without a block claims nothing. HTFREE gives the table up; HTSTAT answers the count, the overflow entries taken, or the header's first word, 0 where
no table is claimed. The model's own choices and readings: log 72. -/
def Obligations.HashTables : Prop :=
  ∀ (s : State) (f : FmtE),
    let obase := s.g.wrN f.a.toNat 3
    let cfg := (s.g.wr f.b.toNat).toNat
    let off := (s.g.wr (f.b.toNat + 1)).toNat
    let ocap := (s.g.wr f.c.toNat).toNat
    let dst (m : Nat) : Prop := m = f.dst.toNat
    (s.Ready (.htclaim f) f.guard →
        (2 ^ 80 ≤ obase → Traps (.htclaim f) s { cause := 0x06, detail := 0, lane := none })
          ∧ (obase < 2 ^ 80 → s.hashBusy = false → s.thisBlock = none → Completes (.htclaim f) s (fun t =>
              t.g.wr f.dst.toNat = (if cfg % 16 < 6 ∨ 13 < cfg % 16 ∨ 64 ≤ cfg then 4#32 else 3#32) ∧ t.blocks = s.blocks
                ∧ OwnFrame s t (.htclaim f) f.guard noRegs dst []))
          ∧ ∀ b, obase < 2 ^ 80 → s.hashBusy = false → s.thisBlock = some b →
            let st := s.claimStatus b (hnum f) cfg off ocap obase
            let n := 2 ^ (cfg % 16)
            (st ≠ 0 → Completes (.htclaim f) s (fun t => t.g.wr f.dst.toNat = w32 st ∧ t.blocks = s.blocks
                ∧ OwnFrame s t (.htclaim f) f.guard noRegs dst []))
              ∧ (st = 0 → Completes (.htclaim f) s (fun t => t.g.wr f.dst.toNat = 0
                ∧ (t.table (hnum f)).map (fun T => T.t)
                    = some { off := off, bexp := cfg % 16, kw := cfg.testBit 4, vw := cfg.testBit 5, claimed := true }
                ∧ Stored s t (.htclaim f) f.guard (b.at off) (natBytes 64 (freshHeader cfg ocap obase))
                ∧ Stored s t (.htclaim f) f.guard (b.at (off + 64)) (emptyCtl n)
                ∧ OwnFrame s t (.htclaim f) f.guard noRegs dst [(b.at off, 64 + 16 * n)])))
      ∧ (s.Ready (.htfree f) f.guard →
        (s.table (hnum f) = none → Traps (.htfree f) s { cause := 0x25, detail := hnum f, lane := none })
          ∧ ∀ T, s.table (hnum f) = some T → s.draining (hnum f) = false → s.hashBusy = false → Completes (.htfree f) s (fun t =>
            t.table (hnum f) = none ∧ OwnFrame s t (.htfree f) f.guard noRegs none1 [(T.b.at T.t.off, 1)]))
      ∧ UniformWord s (.htstat f) f.guard f.dst.toNat 1 (match s.table (hnum f) with
          | none => 0
          | some T => match f.mod.toNat with
            | 0 => s.htCount T
            | 1 => s.htOnext T
            | _ => s.allocPeek T.b T.t.off 4)

/-- R241 to R246. The words by key, for one active lane whose applied bit is clear, on a claimed table whose widths fit:
`e` is where `find` finds the key and `u` the state the word leaves of the machine. HTINS places a key that is not there;
HTDEL clears an occupied slot or an entry's live bit; HTACC combines the value in place, or places it; HTPROBE answers
value and presence, to a HELPER lane as its own key is found. The status is the one R242 gives.
The model's own choices and readings: log 72, 73. -/
def Obligations.HashKeys : Prop :=
  ∀ (s : State) (f : FmtE) (T : Table) (L : Nat), s.g.active f.guard = [L] → s.table (hnum f) = some T →
    s.draining (hnum f) = false → s.hashBusy = false → f.imm.getLsbD 3 = T.t.kw →
    let tid := (s.g.lane L).threadId
    let k := s.g.hkey f L
    let v := s.g.hval f L
    let w := if f.imm.getLsbD 4 then 64 else 32
    let wide := f.imm.getLsbD 4 = T.t.vw
    let opened (i : Instr) := s.opened i f.guard
    let ok (i : Instr) : Prop := s.Ready i f.guard ∧ (s.g.lane L).applied = false
    let gives (i : Instr) (u : State) (st : Nat) : Prop := Completes i s (fun t =>
      (t.g.lane L).vr f.dst.toNat = w32 st ∧ (t.g.lane L).applied = false ∧ t.g.pend = s.g.pend
        ∧ RegFrame s t (fun M n => M = L ∧ n = f.dst.toNat) noRegs none1 none1
        ∧ ∀ a, Outside a (s.slotReach i f.guard) → t.mem.get 0 a = u.mem.get 0 a)
    let places (i : Instr) (s1 : State) (x : Nat) : Prop :=
      ∀ p u, s1.hplace T tid (64 + L) k x = .ok (p, u) →
        gives i u (match p with | .full => 4 | .inSlot => 2 | .spilled => 258)
    let less (u : State) : State := u.allocPoke T.b (T.t.off + 4) 4 (u.htCount T + 2 ^ 32 - 1)
    let op := f.mod.toNat % 4
    let kind := f.mod.toNat / 4
    let canon (x : Nat) : Nat := if kind = 2 then canonF .f32 x else x
    (ok (.htins f) → wide → ∀ e s1, (opened (.htins f)).hfind T tid (64 + L) k = .ok (e, s1) →
        (e = .none → places (.htins f) s1 v) ∧ (∀ j sl, e = .slot j sl → gives (.htins f) s1 1)
          ∧ ∀ n x, e = .inChain n x → gives (.htins f) s1 257)
      ∧ (ok (.htdel f) → ∀ e s1, (opened (.htdel f)).hfind T tid (64 + L) k = .ok (e, s1) →
        (e = .none → gives (.htdel f) s1 3)
          ∧ (∀ j sl, e = .slot j sl →
              gives (.htdel f) (less (s1.allocPoke T.b (ctlOff T j) 1 (s1.htOcc T j - 2 ^ sl))) 0)
          ∧ ∀ n x ps, e = .inChain n x → s1.ovCheck T tid n = .ok ps →
              gives (.htdel f) (less (s1.ovWrite tid ps { x with live := false })) 256)
      ∧ (ok (.htacc f) → wide → ∀ e s1, (opened (.htacc f)).hfind T tid (64 + L) k = .ok (e, s1) →
        (e = .none → places (.htacc f) s1 (canon v))
          ∧ (∀ j sl, e = .slot j sl →
              gives (.htacc f) (s1.setSlotVal T j sl (canon (hcomb op kind w (s1.slotVal T j sl) (canon v)))) 0)
          ∧ ∀ n x ps, e = .inChain n x → s1.ovCheck T tid n = .ok ps →
              gives (.htacc f) (s1.ovWrite tid ps { x with val := canon (hcomb op kind w (x.val % 2 ^ w) (canon v)) }) 256)
      ∧ (s.Ready (.htprobe f) f.guard → wide → ∀ e s1 l s2, (opened (.htprobe f)).hfind T tid (64 + L) k = .ok (e, s1) →
          State.helperKeys f T ((s.g.executing f.guard).filter (fun M => !(M == L))) s1 = .ok (l, s2) →
          let x := s1.foundVal T e
          let helper (M : Nat) : Option Nat := ((l.find? (fun y => y.1 == M)).map (·.2)).join
          let exe := s.g.executing f.guard
          let r := if f.imm.getLsbD 4 then 2 else 1
          Completes (.htprobe f) s (fun t =>
            (t.g.lane L).vrN f.dst.toNat r = x.getD v % 2 ^ (32 * r) ∧ (t.g.lane L).pred (f.c.toNat % 8) = x.isSome
              ∧ (∀ M ∈ exe, M ≠ L → (t.g.lane M).vrN f.dst.toNat r = (helper M).getD (s.g.hval f M) % 2 ^ (32 * r)
                ∧ (t.g.lane M).pred (f.c.toNat % 8) = (helper M).isSome)
              ∧ t.g.pend = s.g.pend
              ∧ RegFrame s t (regsOf exe f.dst.toNat r) (regsOf exe (f.c.toNat % 8) 1) none1 none1
              ∧ ∀ a, Outside a (s.slotReach (.htprobe f) f.guard) → t.mem.get 0 a = s2.mem.get 0 a))

/-! ### Tasks, launches and system words -/

/-- R249 to R251. TKRSV takes the slot at the reservation tail of a task queue of the context, or answers −1; TKSIG counts
a published slot down, or a reserved one's early signals up; TKPUB reads its record and publishes the slot. A handle or
queue that is not the context's is the task-handle trap. The model's own choices and readings: log 81. -/
def Obligations.TaskWords : Prop :=
  ∀ (s : State) (f : FmtE),
    let a := s.g.wr f.a.toNat
    let ok (i : Instr) : Prop := s.Ready i f.guard ∧ s.releaseWaits .package = false
    let bad (i : Instr) : Prop := Traps i s { cause := 0x27, detail := 0, lane := none }
    (let q := a.toNat
     let x := s.queue q
     let i := x.rsv % 2 ^ x.log2n
     ok (.tkrsv f) →
      (2 ^ 17 ≤ q ∨ s.ownTaskQueue q = false → bad (.tkrsv f))
        ∧ (q < 2 ^ 17 → s.ownTaskQueue q = true → Completes (.tkrsv f) s (fun t =>
          (x.tailFree = true → t.g.wr f.dst.toNat = w32 (q * 2 ^ 14 + i) ∧ (t.queue q).rsv = x.rsv + 1
              ∧ (t.queue q).slot i = { TaskSlot.free with reserved := true })
            ∧ (x.tailFree = false → t.g.wr f.dst.toNat = 0xFFFFFFFF#32 ∧ t.queues = s.queues)
            ∧ OwnFrame s t (.tkrsv f) f.guard noRegs (fun m => m = f.dst.toNat) [])))
      ∧ (let n := (s.g.wr f.b.toNat).toNat
         ok (.tksig f) →
          (s.handleSlot a = none → bad (.tksig f))
            ∧ ∀ q i, s.handleSlot a = some (q, i) →
              let x := (s.queue q).slot i
              (2 ^ 24 ≤ n → Traps (.tksig f) s { cause := 0x28, detail := 0, lane := none })
                ∧ (0 < n → n < 2 ^ 24 → x.pub = true → n ≤ x.dep → Completes (.tksig f) s (fun t =>
                    (t.queue q).slot i = { x with dep := x.dep - n, readyAt := if x.dep = n then s.now else x.readyAt } ∧ OwnFrame s t (.tksig f) f.guard noRegs none1 []))
                ∧ (0 < n → n < 2 ^ 24 → x.pub = false → x.reserved = true → x.early + n < 2 ^ 24 →
                    Completes (.tksig f) s (fun t =>
                      (t.queue q).slot i = { x with early := x.early + n } ∧ OwnFrame s t (.tksig f) f.guard noRegs none1 []))
                ∧ (n = 0 → Ends (.tksig f) s f.guard s))
      ∧ (ok (.tkpub f) →
          (s.handleSlot a = none → bad (.tkpub f))
            ∧ ∀ q i b ps qs, s.handleSlot a = some (q, i) →
              let x := (s.queue q).slot i
              let s1 := s.touchAll s.g.asid false ps
              let head := bytesNat (s1.gather 64 ps)
              let n := ((List.range 16).filter head.testBit).length
              let s2 := s1.touchAll s.g.asid false qs
              let cnt := (s.g.wr f.c.toNat).toNat
              (x.reserved = false ∨ x.pub = true → Traps (.tkpub f) s { cause := 0x28, detail := 0, lane := none })
                ∧ (x.reserved = true → x.pub = false → s.uniformAddr f.b.toNat = .ok b →
                    s.partAccess f.guard .read b 8 0 = .ok ps → s.ownWriteWaits (s.g.threads f.guard) ps = false →
                    s.askAll (readAsks 64 ps) (fun _ => true) = .all → head < 2 ^ 16 →
                    s1.partAccess f.guard .read b (8 + 8 * n) 0 = .ok qs →
                    s1.ownWriteWaits (s.g.threads f.guard) qs = false → s1.askAll (readAsks 64 qs) (fun _ => true) = .all →
                    cnt < 2 ^ 24 →
                    Ends (.tkpub f) s f.guard (s2.publish a q i cnt (dwordsOf (n + 1) (s2.gather 64 qs)))))

/-- R252 and R259. LAUNCH to a launch queue of the context stores its record in the ring at TAIL, advances TAIL, and
answers the record's number, or 2^30 where the ring is full; ECALL drains the core's buffer, hands its service request to
the supervisor and makes a token of unit 7. The model's own choices and readings: log 82, 83. -/
def Obligations.LaunchAndServices : Prop :=
  ∀ (s : State) (f : FmtE),
    let q := (s.g.wr f.a.toNat).toNat
    let x := s.queue q
    let mine := q < 2 ^ 17 ∧ x.task = false ∧ x.state ≠ .off ∧ x.asid = s.g.asid
    let dst (m : Nat) : Prop := m = f.dst.toNat
    (s.Ready (.launch f) f.guard → s.g.pend.length < 8 →
        (¬ mine → Traps (.launch f) s { cause := 0x27, detail := 0, lane := none })
          ∧ ∀ a ps, mine → s.uniformAddr f.b.toNat = .ok a → s.partAccess f.guard .read a 128 0 = .ok ps →
            s.ownWriteWaits (s.g.threads f.guard) ps = false → s.askAll (readAsks 64 ps) (fun _ => true) = .all →
            s.SerialFresh → (s.touchAll s.g.asid false ps).releaseFree .system →
            let s1 := s.touchAll s.g.asid false ps
            let stored := (s1.releaseDrain .system).ctxStore s.g.asid (x.ring.toNat + 128 * (x.tail.toNat % 2 ^ x.log2n))
              (s1.gather 64 ps)
            ((x.tail - x.head).toNat = 2 ^ x.log2n → Completes (.launch f) s (fun t =>
                t.g.wr f.dst.toNat = 0x40000000#32 ∧ (t.queue q).tail = x.tail
                  ∧ RegFrame s t noRegs noRegs dst none1 ∧ ∀ b, t.mem.get 0 b = (s1.releaseDrain .system).mem.get 0 b))
              ∧ ((x.tail - x.head).toNat < 2 ^ x.log2n → x.state ≠ .stopped → stored.1 = true →
                Completes (.launch f) s (fun t =>
                  t.g.wr f.dst.toNat = w32 (x.tail.toNat % 2 ^ 30) ∧ (t.queue q).tail = x.tail + 1
                    ∧ RegFrame s t noRegs noRegs dst none1 ∧ ∀ b, t.mem.get 0 b = stored.2.mem.get 0 b)))
      ∧ (s.Ready (.ecall f) f.guard → s.releaseFree .system → s.g.pend.length < 8 → Completes (.ecall f) s (fun t =>
          let op : EcallOp := { id := s.serial, service := f.imm.toNat, a := s.g.wr f.a.toNat, b := s.g.wr f.b.toNat
                                asid := s.g.asid, core := s.g.core }
          TokenMade s t f.dst.toNat 7 ∧ t.ecalls = s.ecalls ++ [op] ∧ t.out.head? = some (.ecall op)
            ∧ t.wcb = s.wcb.filter (fun e => !(e.core == s.g.core)) ∧ OwnFrame s t (.ecall f) f.guard noRegs none1 []))

/-- R253 to R256. SREAD of an assigned number writes the register's value to v registers of its lanes or to w registers;
SWRITE changes RNG_STATE of its lanes, FMT_DEFAULT of the group or PARK_THRESH of the context; an unassigned number, or a
write to a read-only register, is the system-register trap. TSTAMP writes the time. The TRAP_ registers read 0 outside a
handler. The model's own choices and readings: log 70. -/
def Obligations.SystemRegisters : Prop :=
  ∀ (s : State) (f : FmtE),
    let n := f.imm.toNat
    let low := (s.g.active f.guard).headD 0
    let val (L : Nat) : W32 := if f.mod = 0 then (s.g.lane L).vr f.a.toNat else s.g.wr f.a.toNat
    let exe := s.g.executing f.guard
    let s1 := s.opened (.swrite f) f.guard
    (s.Ready (.sread f) f.guard → sysReg n = none → Traps (.sread f) s { cause := 0x29, detail := 1, lane := none })
      ∧ (sysReg n ≠ none → f.mod = 0 → LaneWord s (.sread f) f.guard f.dst.toNat (sysRegs n) (s.sysVal n))
      ∧ (sysReg n ≠ none → f.mod ≠ 0 → UniformWord s (.sread f) f.guard f.dst.toNat (sysRegs n) (s.sysVal n low))
      ∧ (s.Ready (.swrite f) f.guard →
          (sysReg n = none → Traps (.swrite f) s { cause := 0x29, detail := 1, lane := none })
            ∧ (∀ sc, sysReg n = some (sc, false) → Traps (.swrite f) s { cause := 0x29, detail := 2, lane := none })
            ∧ (n = 0x003 → Completes (.swrite f) s (fun t =>
                (∀ L ∈ exe, (t.g.lane L).rng = if val L = 0 then 0x6D2B79F5#32 else val L)
                  ∧ WordFrame s t (.swrite f) f.guard noRegs noRegs none1 (fun L => L ∈ exe) []))
            ∧ (n = 0x040 → Ends (.swrite f) s f.guard { s1 with g := { s1.g with fmtDefault := w32 ((val low).toNat % 8) } })
            ∧ (n = 0x041 → Ends (.swrite f) s f.guard (s1.setCtx s.g.asid { s.cx with parkThresh := val low })))
      ∧ (f.mod = 0 → UniformWord s (.tstamp f) f.guard f.dst.toNat 2 s.now)
      ∧ (f.mod ≠ 0 → LaneWord s (.tstamp f) f.guard f.dst.toNat 2 (fun _ => s.now))
      ∧ (∀ L, s.sysVal 0x000 L = L ∧ s.sysVal 0x002 L = (s.g.lane L).threadId.toNat ∧ s.sysVal 0x010 L = s.g.core
          ∧ s.sysVal 0x012 L = s.g.bound ∧ s.sysVal 0x020 L = s.g.asid ∧ s.sysVal 0x040 L = s.g.fmtDefault.toNat)
      ∧ (s.g.trap = none → ∀ m L, 0x080 ≤ m → m ≤ 0x084 → s.sysVal m L = 0)
      ∧ (∀ r, s.g.trap = some r → ∀ L, s.sysVal 0x080 L = r.cause.toNat ∧ s.sysVal 0x081 L = r.detail.toNat
          ∧ s.sysVal 0x082 L = r.pc.toNat ∧ s.sysVal 0x083 L = r.wix.toNat ∧ s.sysVal 0x084 L = r.lane.toNat)

/-! ### Events of the device -/

/-- R176, R207, R210, R225 to R227, R232 and R259. The units end, start or advance what they hold: a matrix operation at
its time leaves its tile; an engine operation starts, and its chunk is applied; a mesh packet joins its round, or is counted
as late, a timer closes its node; a finished round's result area is written; a maintenance operation leaves none of its
lines dirty, or none at all; a flag without copies to wait for and a service reply complete. Each answers its token.
The model's own choices and readings: log 6, 57, 65, 69, 91. -/
def Obligations.OperationEvents : Prop :=
  ∀ (s : State) (op : Nat),
    let without : State := { s with engOps := s.engOps.filter (fun x => x.id != op) }
    let quiet : Prop := ∀ b ∈ s.blocks, b.saved = true ∨ without.blockBusy b = true
    let answers (t : State) (tok : Nat) (v : W32) : Prop :=
      ∀ d, tok ≠ 0 → s.g.pend = [(d, tok)] → t.g.wr d = v ∧ t.g.pend = []
    (∀ m, s.matOps.find? (fun x => x.id == op) = some m → s.matLeft m = 0 → Completes (.matrixOpComplete op) s (fun t =>
        t.matOps = s.matOps.filter (fun x => x.id != op) ∧ (∀ x ∈ t.g.tilePend, x.2 ≠ op)
          ∧ (∀ r ∈ t.records, op ∉ r.tileSerials) ∧ t.mem = s.mem ∧ t.acc = s.acc ∧ t.g.lanes = s.g.lanes))
      ∧ (∀ o, s.engOps.find? (fun x => x.id == op) = some o →
          (s.mayStart o = true → ∃ n, exec (.engineOpStart op) s = .next { s with
            engOps := s.engOps.map (fun x => if x.id = op then { x with running := true, count0 := n } else x) })
            ∧ (o.running = true → o.dying = false → o.waits = none → s.ctxRuns o.asid = true → s.coreLive o.core = true →
              exec (.engineChunk op) s = .next (s.afterChunk o (s.runChunk o))
                ∧ ∀ i, o.kind = .tmpl i → s.releaseWaits .package = false → o.bar = none → quiet →
                  Completes (.engineChunk op) s (fun t => answers t o.tok (w32 i) ∧ t.mem = s.mem))
            ∧ (∀ ch off k r vals miss n m b, o.kind = .mrcv ch off k → s.ctxRuns o.asid = true →
              (s.chan (dieOf o.core) ch).rounds.find? (fun x => x.num == k) = some r → r.result = some (vals, miss, n, m) →
              s.blockOf o.asid o.launch o.block = some b → quiet → Completes (.mrcvResultWrite op) s (fun t =>
                (∀ j, j < 144 → t.mem.get 0 (b.at off + j) = (resultArea vals miss n m).getD j 0)
                  ∧ (∀ a, Outside a [(b.at off, 144)] → t.mem.get 0 a = s.mem.get 0 a)
                  ∧ (∀ x ∈ (t.chan (dieOf o.core) ch).rounds, x.num ≠ k)
                  ∧ answers t o.tok (w32 ((if miss = 0 then 0 else 2 ^ 31) + k % 256)))))
      ∧ (∀ o, s.maintOps.find? (fun x => x.id == op) = some o → o.waits = none →
          let l := s.rangeWalks o.asid o.base.toNat o.len
          let p := rangeTag o.asid l
          missing l = [] → (∀ r ∈ l, ∀ e lvl a, r.2.2 ≠ .format e lvl a) → Completes (.maintOpComplete op) s (fun t =>
            t.maintOps = s.maintOps.filter (fun x => x.id != op) ∧ t.mem = (l.foldl (fun s r => s.seen o.asid r.1) s).mem
              ∧ (o.opc = 0x0D6 → answers t op (maskOf 32 s.dies)
                  ∧ ∀ c, ∀ x ∈ t.hier.code.get [] c, x.asid = o.asid → inRuns (l.map (fun r => (r.1, r.2.1))) x.vline = false)
              ∧ (o.opc = 0x0D4 → o.all = true → ∀ c, (∀ x ∈ t.hier.l1.get [] c, p x = true → x.isDirty = false)
                  ∧ ∀ x ∈ t.hier.l2.get [] c, p x = true → x.isDirty = false)
              ∧ (o.opc = 0x0D5 → ∀ c, (o.all = true ∨ c = o.core → ∀ x ∈ t.hier.l1.get [] c, p x = false)
                  ∧ (o.all = true → ∀ x ∈ t.hier.l2.get [] c, p x = false))))
      ∧ (∀ o, s.flagOps.find? (fun x => x.id == op) = some o → o.after = [] →
          (∀ x ∈ s.pathWait, x.1 ≠ some o.core ∧ ¬ (x.1 ≠ none ∧ x.2.dst = o.dst ∧ x.2.slot = o.slot)) →
          Completes (.xflagSend op) s (fun t =>
            t.flagOps = s.flagOps.filter (fun x => x.id != op)
              ∧ (t.send o.dst o.slot).span = (s.send o.dst o.slot).span + 1 ∧ t.g.lanes = s.g.lanes
              ∧ answers t op (w32 ((s.send o.dst o.slot).span.toNat * 2 ^ 24 + (s.send o.dst o.slot).count))
              ∧ ((s.devRegs.get 0 (traceReg (dieOf o.core) 3)).getLsbD 3 = false → t.mem = s.mem)))
      ∧ (∀ reply, (∃ e ∈ s.ecalls, e.id = op) → Completes (.ecallReply op reply) s (fun t =>
          t.ecalls = s.ecalls.filter (fun e => e.id != op) ∧ t.mem = s.mem ∧ t.g.lanes = s.g.lanes ∧ answers t op reply))
      ∧ (∀ die ch round core p, (s.chan die ch).flight.find? (fun x => x.1 == core && x.2.1 == round) = some p →
          let c := s.chan die ch
          Completes (.meshPacketArrive die ch round core) s (fun t =>
            let late : Prop := (t.chan die ch).late = c.late + 1
            (c.rounds.find? (fun r => r.num == round) = none → late)
              ∧ (∀ r, c.rounds.find? (fun r => r.num == round) = some r →
                  (r.hasPassed (c.node core) = true ∨ r.result.isSome = true ∨ s.meshOver die c r 2 = true → late)
                    ∧ (s.meshOver die c r 1 = true → c.node core ∈ c.nodes → late)
                    ∧ (r.hasPassed (c.node core) = false → r.result = none → s.meshOver die c r 1 = false →
                        s.meshOver die c r 2 = false → (t.chan die ch).late = c.late
                          ∧ ∃ x ∈ (t.chan die ch).rounds, x.num = round ∧ (core, p.2.2) ∈ x.pkts
                            ∧ x.start = if r.pkts = [] ∧ r.passed = [] then s.now else r.start))
              ∧ t.mem = s.mem ∧ t.g = s.g))
      ∧ (∀ die ch round node r, (s.chan die ch).rounds.find? (fun r => r.num == round) = some r →
          s.meshOver die (s.chan die ch) r (if node = none then 2 else 1) = true →
          (∀ x ∈ node, x ∈ (s.chan die ch).nodes) →
          Completes (.meshNodeTimeout die ch round node) s (fun t =>
            (∃ x ∈ (t.chan die ch).rounds, x.num = round
              ∧ (∀ y ∈ node, x.hasPassed y = true) ∧ (node = none → x.result.isSome = true))
              ∧ t.mem = s.mem ∧ t.g = s.g))

/-- R40 to R43, R129, R164, R264, R266, R277 and R281. At a clause boundary with no held lane the group runs the clause at
its lowest PC, with the words and literals its header counts and the lanes at that PC; a stall at its threshold parks the
group with KIND 1, a spill with KIND 4; records that found room are written, with the time of their writing, and a pool that
stayed full is the record-pool-exhausted trap; a yield request is asked of every group it names; timers wake the records whose deadline has come.
The model's own choices and readings: log 1, 6, 8, 41, 43, 93. -/
def Obligations.GroupEvents : Prop :=
  ∀ (s : State),
    let own : Prop := ∀ p, s.g.parkStall = some p → ∀ x ∈ p.recs, x.1 < 8 ∧ s.g.quadLive x.1 ≠ []
    (∀ s1 s2 h x, s.atBoundary = true → s.g.slotDue = [] → s.g.live ≠ [] → s.g.trap = none → s.g.yieldReq = false → s.g.yieldAt = none →
        (∀ L ∈ s.g.live, (s.g.lane L).hold = .none ∧ (s.g.lane L).mid = false) →
        let pc := s.g.minPc s.g.live
        let n := headerCount h
        let words := (List.range n).map (fun i => w64 (x / 2 ^ (64 * i) % 2 ^ 64))
        s.codeRead pc 0 0 8 = .ok (s1, h) → s1.codeRead pc 0 8 (8 * n) = .ok (s2, x) →
        clauseCheck h ((words.take (headerWords h)).map opcOf) = none → headerMeet h = false →
        Completes .clauseStart s (fun t =>
          t.g.run = some { pc := pc, wix := 0, words := words.take (headerWords h), lits := words.drop (headerWords h)
                           next := pc + BitVec.ofNat 32 (8 * (n + 1))
                           mask := maskOf 32 (s.g.live.filter (fun L => (s.g.lane L).pc == pc)) }
            ∧ t.mem = s2.mem ∧ t.g.w = s.g.w ∧ ∀ L n, (t.g.lane L).vr n = (s.g.lane L).vr n))
      ∧ (s.parkDue = true → s.g.gid ≠ 0 → s.g.parkStall = none → s.ParkRoom 256 → Completes .implicitPark s (fun t =>
          Parks False s s t 256 (fun L => (s.g.lane L).pc) (fun r => r.kind = 1)))
      ∧ (s.g.gid ≠ 0 → s.spillDue = true → own → s.ParkRoom 256 → Completes .fullSpill s (fun t =>
          Parks False s s t 256 (fun L => (s.g.laneState true L).2) (fun r => r.kind = 4)))
      ∧ (∀ p, s.g.parkStall = some p → (s.writeRecs (p.recs.any (fun x => x.2.kind == 4)) p.recs).2 = [] →
          Completes .parkingStallRetry s (fun t => t.g.parkStall = none
            ∧ ∀ x ∈ p.recs, ∃ r ∈ t.records, r.durable = true ∧ r.kind = x.2.kind ∧ r.tids = x.2.tids ∧ r.tstamp = s.now
                ∧ ∀ m j, m < s.g.bound → j < 4 → r.regs.get 0 (4 * m + j) = x.2.regs.get 0 (4 * m + j)))
      ∧ (∀ p, s.g.parkStall = some p → p.recs.any (fun x => x.2.kind == 4) = false → p.since + s.cx.poolTmo ≤ s.now →
          s.toSupervisor 0x2A = false → Completes .recordPoolExhausted s (fun t =>
            HandlerEntered s t { cause := 0x2A, detail := 0, lane := none } p.pc p.wix))
      ∧ (∀ asid gid, Completes (.yieldRequest asid gid) s (fun t => t.mem = s.mem ∧ t.g.lanes = s.g.lanes ∧ t.g.w = s.g.w
          ∧ t.others.length = s.others.length
          ∧ ∀ g ∈ t.groups, g.gid ≠ 0 → g.asid = asid → (gid = none ∨ gid = some g.gid) → g.yieldReq = true ∨ g.yieldAt ≠ none))
      ∧ Completes .timerWake s (fun t => t.records.length = s.records.length ∧ t.mem = s.mem ∧ t.g.lanes = s.g.lanes
          ∧ ∀ r ∈ t.records, r.wkind = 6 → r.wkey0.toNat ≤ s.now → r.fired = true)

/-- R267, R269, R271, R273, R275, R283, R338, R345, R348 and R349. The scheduler's and the supervisor's events: an emergency
record moves into the pool; a bin at BIN_AGE is DUE; the bin a core has chosen becomes a group with the lanes of its
records; a free bin moves to another core of the device that telemetry does not advise against, or its records go out to
another device; a record that another device accepted leaves, and one that
arrives is accepted once; a batch whose pages are all there goes, and what waited on it; the next blocks of a launch
start with their groups' lanes LIVE at the role's entry PC; the monitor freezes a partition that makes no progress.
The model's own choices and readings: log 1, 6, 44, 45, 77, 78, 86, 87, 143. -/
def Obligations.SchedulerEvents : Prop :=
  ∀ (s : State) (rid : Nat),
    (∀ r c u, s.records.find? (fun x => x.rid == rid) = some r → r.place = .emergency c → s.poolFind r.asid r.units = some u →
        Completes (.emergencyRecordCopy rid) s (fun t => (∃ x ∈ t.records, x.rid = rid ∧ x.place = .pool u)
          ∧ t.mem = s.mem ∧ t.g = s.g))
      ∧ (∀ r o os, s.records.find? (fun x => x.rid == rid) = some r → s.binOf r = o :: os →
          o.readyAt.getD 0 + (s.ctx r.asid).binAge ≤ s.now → Completes (.binAgeExpiry rid) s (fun t =>
            (∀ x ∈ t.records, x.readyAt.isSome = true → x.sameBin r = true → x.due = true) ∧ t.mem = s.mem ∧ t.g = s.g))
      ∧ (∀ core r r0 rs l, s.records.find? (fun x => x.rid == rid && x.readyAt.isSome && x.xfer.isNone) = some r →
          s.binOf r = r0 :: rs → s.launchOf r.asid r.launch = some l → s.chosen core = some (s.binCand r0) → core = r0.core →
          let recs := (r0 :: rs).take 8
          Completes (.binDrain rid core) s (fun t =>
            (∀ x ∈ recs, ∀ y ∈ t.records, y.rid ≠ x.rid)
              ∧ ∃ g ∈ t.groups, g.gid = s.gidNext ∧ g.core = core ∧ g.asid = r0.asid ∧ g.launch = r0.launch
                ∧ g.block = r0.block ∧ ∀ k j, k < recs.length → j < 4 →
                  { g.lane (4 * k + j) with inSlot := [] } = (recs.getD k r0).lane l.seed j))
      ∧ (∀ r core, s.records.find? (fun x => x.rid == rid) = some r → s.forwardDue r = true → s.targetOk r core = true →
          s.preferredTarget r (.core core) = true →
          r.block = 0xFFFFFF → (∀ x ∈ s.binOf r, s.keptOf x = []) → Completes (.binForward rid (.core core)) s (fun t =>
            ∀ x ∈ s.binOf r, ∃ y ∈ t.records, y.rid = x.rid ∧ y.core = core ∧ y.regs = x.regs))
      ∧ (∀ r ep, s.records.find? (fun x => x.rid == rid) = some r → s.forwardDue r = true → s.deviceOk r ep = true →
          s.preferredTarget r (.device ep) = true →
          r.block = 0xFFFFFF → (∀ x ∈ s.binOf r, s.keptOf x = []) → Completes (.binForward rid (.device ep)) s (fun t =>
            ∀ x ∈ s.binOf r, .record ep x.rid (s.imageOf x none) ∈ t.out
              ∧ ∃ y ∈ t.records, y.rid = x.rid ∧ y.xfer = some ep ∧ y.regs = x.regs))
      ∧ (∀ r ok, s.records.find? (fun x => x.rid == rid && x.xfer.isSome) = some r →
          Completes (.recordAcceptance rid ok) s (fun t =>
            (ok = true → (∀ x ∈ t.records, x.rid ≠ rid) ∧ r ∈ t.departed)
              ∧ (ok = false → ∀ x ∈ t.records, x.rid = rid → x.xfer = none)))
      ∧ (∀ src (img : RecordImage), (img.words.getD 15 0).toNat = rid →
          (rid ∈ s.accepted → Completes (.recordTransferArrive src img) s (fun t =>
            t.out = .acceptance src rid true :: s.out ∧ t.records.length = s.records.length
              ∧ (img.value.isSome = true → ∀ x ∈ t.records, x.rid = rid → x.fired = true)))
            ∧ (rid ∉ s.accepted → s.ctxFor img = none → Completes (.recordTransferArrive src img) s (fun t =>
              t.out = .acceptance src rid false :: s.out ∧ t.records = s.records))
            ∧ ∀ asid c r1 s1 p, rid ∉ s.accepted → s.ctxFor img = some asid →
              let r := recOfImage img asid 0 (img.value.getD 0)
              (s.launchOf asid r.launch).isSome = true → s.arrival asid img r = some (c, r1, s1) →
              s1.placeRec { r1 with core := c } false = some p → Completes (.recordTransferArrive src img) s (fun t =>
                t.out = .acceptance src rid true :: s.out ∧ rid ∈ t.accepted
                  ∧ ∃ x ∈ t.records, x.rid = rid ∧ x.core = c ∧ x.place = p ∧ x.regs = r.regs ∧ x.tids = r.tids))
      ∧ (∀ b, s.batches.find? (fun x => x.id == rid) = some b → s.batchResident b = true →
          (∀ l ∈ s.launches, l.completed = false) → (s.ctx b.asid).state ≠ .ending → (∀ g ∈ s.groups, g.reload = 0) →
          Completes (.batchFire rid) s (fun t =>
            (∀ x ∈ t.batches, x.id ≠ rid) ∧ t.mem = s.mem ∧ (∀ g ∈ t.groups, g.waitBatch ≠ some rid)
              ∧ (∀ o ∈ t.engOps, o.waits ≠ some rid) ∧ (∀ o ∈ t.maintOps, o.waits ≠ some rid)
              ∧ ∀ r ∈ t.records, r.wkind = 4 → r.wkey0.toNat = rid → r.fired = true))
      ∧ (∀ l us cores, s.launchOf (rid / 2 ^ 32) (rid % 2 ^ 32) = some l → s.imageRuns l (l.gang + 1) = some us →
          s.launchReady l = true → s.placeOk l cores = true → s.gidNext ≠ 0 → Completes (.blockStart rid cores) s (fun t =>
            (∃ x ∈ t.launches, x.asid = l.asid ∧ x.num = l.num ∧ x.nextBlock = l.nextBlock + l.gang + 1)
              ∧ ∀ m, m ≤ l.gang →
                (∃ b ∈ t.blocks, b.asid = l.asid ∧ b.launch = l.num ∧ b.num = l.nextBlock + m ∧ b.core = cores.getD m 0
                  ∧ b.spadSize = l.spad * 128 ∧ b.gangIndex = m)
                ∧ ∀ i role, l.groupRoles[i]? = some role → ∃ g ∈ t.groups, g.asid = l.asid ∧ g.launch = l.num
                  ∧ g.block = l.nextBlock + m ∧ g.core = cores.getD m 0 ∧ g.bound = l.roleRegs role
                  ∧ ∀ L, L < 32 → (g.lane L).isLive = true ∧ (g.lane L).pc = w32 (l.rolePc role)
                    ∧ (g.lane L).threadId = w32 (l.threadBase + 32 * ((l.nextBlock + m) * l.gpb + i) + L)))
      ∧ (∀ core c cs v, s.starved = c :: cs → s.gangOf c = 1 → core ∈ s.eligible c →
          s.needed core (fun t => t.candRoom c core) = some v →
          (∀ m ∈ s.eligible c, ∀ y, s.needed m (fun t => t.candRoom c m) = some y → v.length ≤ y.length) →
          Completes (.agePromotionReclaim core) s (fun t => (∃ x ∈ t.reserved, x.core = core ∧ x.asid = c.asid)
            ∧ ∀ g ∈ t.groups, g.gid ≠ 0 → g.gid ∈ v → g.yieldReq = true ∨ g.yieldAt ≠ none))
      ∧ (let x := s.part rid
         x.pmWindow ≠ 0 → x.frozen = false → x.windowStart + x.pmWindow * 1000 ≤ s.now → Completes (.pmWindowExpiry rid) s (fun t =>
          (t.part rid).windowStart = s.now ∧ (t.part rid).progress = 0
            ∧ ((t.part rid).frozen = true ↔ x.progress = 0 ∧ s.internalWork rid = true)
            ∧ ((t.part rid).frozen = true → ∃ f, t.devFaults = s.devFaults ++ [f] ∧ f.code = 0x80)))
      ∧ Completes (.partUnfreeze rid) s (fun t => (t.part rid).frozen = false ∧ t.mem = s.mem ∧ t.g = s.g)
      ∧ (∀ r, s.records.find? (fun x => x.rid == rid) = some r → (s.ctx r.asid).extDl ≠ 0 → r.overdue = false →
          s.waitsOutside r = true → r.tstamp + (s.ctx r.asid).extDl < s.now → Completes (.externalDeadline rid) s (fun t =>
            (∀ x ∈ t.records, x.rid = rid → x.overdue = true) ∧ (t.ctx r.asid).fqSeq = (s.ctx r.asid).fqSeq + 1))

/-- R230, R303, R324 and R326 to R329. A page fetched from storage lies in its new frame. Of a tier below LOW the page whose
A bit is set has it cleared, one whose A bit has stayed clear begins to move, or leaves tier 4 for storage; a page that took
PROMOTE_HITS misses begins to move to tier 0. At a move's end the page's bytes lie in the new frame, its entry names that
frame and its tier, and no other byte has changed. A replica applies its oldest write; TLBI drops the translations and the
lines of its scope and clears BUSY; an old write-combining entry drains. The model's own choices and readings: log 6, 90,
91, 92, 139. The model's own choices and readings: log 6, 90, 91, 92, 139. -/
def Obligations.HierarchyEvents : Prop :=
  ∀ (s : State) (va : Addr) (frame lvl addr : Nat),
    let e : W64 := w64 (s.peek addr 8)
    let n := pageSize lvl
    let entry (t : State) (x : W64) : Prop := ∀ j, j < 8 → t.mem.get 0 (addr + j) = (natBytes 8 x.toNat).getD j 0
    let only (t : State) : Prop := ∀ a, Outside a [(addr, 8)] → t.mem.get 0 a = s.mem.get 0 a
    let rest (t : State) : Prop := ∀ a, Outside a [(addr, 8), (frame * 65536, n)] → t.mem.get 0 a = s.mem.get 0 a
    let page := (List.range n).map (fun j => s.mem.get 0 (pteFrame e + j))
    let begins (tier : Nat) (t : State) : Prop :=
      t.mem = s.mem ∧ (t.mig tier).free = (s.mig tier).free - pageFrames lvl
        ∧ ∃ m ∈ t.hier.moves, m.addr = addr ∧ m.source = pteFrame e / 65536 ∧ m.frame = frame ∧ m.tier = tier
          ∧ (pteFt e = false → m.ask = 0)
    let moved (m : PageMove) (t : State) : Prop :=
      entry t (pteMoved e frame m.tier true) ∧ t.moveOf addr = none
        ∧ (m.tier ≠ 3 → rest t ∧ ∀ j, j < n → Outside (frame * 65536 + j) [(addr, 8)] →
            t.mem.get 0 (frame * 65536 + j) = s.mem.get 0 (pteFrame e + j))
        ∧ (m.tier = 3 → only t ∧ t.out = .pageOut (frame / 2 ^ 36) (frame % 2 ^ 36 * 65536) page :: s.out)
    (∀ batch b x data, s.batches.find? (fun y => y.id == batch) = some b → va.toNat / 65536 ∈ b.pages →
        s.translate b.asid va.toNat = .notPresent x lvl addr → s.frameFits 0 frame lvl = true → (s.mig 0).low ≤ (s.mig 0).free →
        data.length = n → Completes (.migrationFetch batch va frame data) s (fun t =>
          entry t (pteMoved x frame 0 true) ∧ rest t
            ∧ (∀ j, j < n → Outside (frame * 65536 + j) [(addr, 8)] → t.mem.get 0 (frame * 65536 + j) = data.getD j 0)
            ∧ (t.mig 0).free = (s.mig 0).free - pageFrames lvl))
      ∧ (∀ asid tier x, s.translate asid va.toNat = .leaf x lvl addr → s.moveOf addr = none →
          (let m := s.mig (pteTier e)
           m.free < m.low ∨ m.demoting = true ∧ m.free < m.high) →
          s.mayMigrate lvl e = true → s.demotesTo lvl e tier = true →
          (pteA e = true → Completes (.migrationDemote asid va frame tier) s (fun t =>
              entry t (e &&& ~~~(0x10000#64)) ∧ only t))
            ∧ (pteA e = false → s.coldest (pteTier e) addr = true → tier ≠ 5 → s.frameFits tier frame lvl = true →
              Completes (.migrationDemote asid va frame tier) s (begins tier))
            ∧ (pteA e = false → s.coldest (pteTier e) addr = true → tier = 5 →
              Completes (.migrationDemote asid va frame tier) s (fun t =>
                entry t (pteMoved e frame 5 false) ∧ only t ∧ t.out = .hostData page :: s.out)))
      ∧ (∀ asid x, s.translate asid va.toNat = .leaf x lvl addr → s.moveOf addr = none →
          pteTier e = 1 ∨ pteTier e = 2 ∨ pteTier e = 3 ∨ pteTier e = 4 → s.promoteDue (pteTier e) addr = true →
          s.mayMigrate lvl e = true → s.frameFits 0 frame lvl = true → Completes (.migrationPromote asid va frame) s (begins 0))
      ∧ (∀ asid x m f tier, s.MemInv → s.translate asid va.toNat = .leaf x lvl addr → s.moveOf addr = some m → m.ask = 0 →
          m.level = lvl → m.frame = frame → (m.tier ≠ 3 → frame < 2 ^ 36) → pteV e = true → pteLeaf e = true → ptePresent e = true →
          pteFt e = false → pteFrame e = m.source * 65536 →
          Completes (.migrationDemote asid va f tier) s (moved m) ∧ Completes (.migrationPromote asid va f) s (moved m))
      ∧ (∀ die w, s.seqLog.find? (fun x => x.pending.contains die) = some w →
          (∀ l ∈ s.launches, l.asid = w.asid → l.completed = false) → (s.ctx w.asid).state ≠ .ending →
          Completes (.replicaWriteApplied die) s (fun t =>
            (∀ x ∈ t.seqLog, x.num = w.num → die ∉ x.pending) ∧ t.mem = s.mem ∧ t.g = s.g))
      ∧ (∀ ctl, (tlbiBusy ctl = true → tlbiBusy s.tlbiCtl = true → exec (.tlbiStart ctl) s = .next s)
          ∧ (tlbiBusy ctl = false ∨ tlbiBusy s.tlbiCtl = false → Completes (.tlbiStart ctl) s (fun t =>
            tlbiAsid t.tlbiCtl = tlbiAsid ctl ∧ tlbiScope t.tlbiCtl = tlbiScope ctl
              ∧ (tlbiBusy t.tlbiCtl = true ↔ (tlbiBusy ctl = true ∧ tlbiScope ctl ≠ 3) ∨ tlbiBusy s.tlbiCtl = true)
              ∧ t.mem = s.mem ∧ t.g = s.g)))
      ∧ (tlbiBusy s.tlbiCtl = true → (∀ r ∈ s.remotes, r.gid = 0 ∨ r.status ≠ none) → Completes .tlbiComplete s (fun t =>
          tlbiBusy t.tlbiCtl = false ∧ t.mem = s.mem ∧ t.g = s.g
            ∧ ∀ c, (∀ x ∈ t.hier.l1.get [] c, s.tlbiCovers x.asid (x.vline * 128) 128 = false)
              ∧ (∀ x ∈ t.hier.l2.get [] c, s.tlbiCovers x.asid (x.vline * 128) 128 = false)
              ∧ (∀ x ∈ t.hier.tlb.get [] c, s.tlbiCovers x.asid (x.page * pageSize x.level) (pageSize x.level) = false)
              ∧ (∀ x ∈ s.hier.tlb.get [] c, s.tlbiCovers x.asid (x.page * pageSize x.level) (pageSize x.level) = false →
                  x ∈ t.hier.tlb.get [] c)))
      ∧ ∀ core key, Completes (.wcbAgeExpiry core key) s (fun t => t.mem = s.mem ∧ t.g = s.g
          ∧ ∀ x, x ∈ t.wcb ↔ x ∈ s.wcb ∧ ¬ (x.core = core ∧ x.id = key
              ∧ x.openedAt + (s.part (s.ctx x.asid).part).wcbAge ≤ s.now))

/-- R352, R354, R355, R357, R358 and R360 to R362. A packet whose context owns the slot and whose span is among the four
open ones counts, and is applied where the range table permits it, else refused with a notice; a flag closes its span
when the count is complete: its word is stored and the waiting records are ready. A late span is asked for again under
a new generation, or given up; the source resends what its log holds; remote requests are refused, poisoned or
performed, and their answers kept for the word that asked.
The model's own choices and readings: log 6, 95, 97, 98, 99, 133, 138. -/
def Obligations.FabricEvents : Prop :=
  ∀ (s : State) (p : Packet) (ep slot : Nat),
    let x := s.recv p.src p.slot
    let d := (p.span - x.current).toNat
    let owned := s.owner p.src p.slot = p.dctx ∧ p.dctx ≠ 0xFFFF#16
    let fresh := s.expired p = false ∧ x.state = 0 ∧ p.gen = x.gen ∧ d ≤ 3 ∧ x.cnt.length = 4
    let permits := s.rangePermits p.src p.dctx p.addr
    let traceOff := (s.devRegs.get 0 (traceReg 0 3)).getLsbD 4 = false
    (fresh → owned → (x.counter 0).flag = none → Completes (.countedPacketArrive p) s (fun t =>
        ((t.recv p.src p.slot).counter d).count = (x.counter d).count + 1 ∧ t.g = s.g
          ∧ (permits 128 2 = false → t.mem = s.mem ∧ t.out = .notice p :: s.out)
          ∧ (permits 128 2 = true → p.cls ≠ .zeroLine → (p.bytes.map (·.1)).Nodup → ∀ b ∈ p.bytes,
              s.cxlLost (p.addr + b.1) = false → t.mem.get 0 (p.addr + b.1) = b.2)
          ∧ (permits 128 2 = true → p.cls = .zeroLine → s.cxlLost p.addr = false →
              ∀ j, j < 128 → t.mem.get 0 (p.addr + j) = 0)))
      ∧ (s.expired p = false → ¬ owned → Completes (.countedPacketArrive p) s (fun t =>
          t.mem = s.mem ∧ t.out = .notice p :: s.out ∧ t.recvs = s.recvs))
      ∧ (fresh → owned → (x.counter d).flag = none → (x.counter 0).flag = none → permits 4 2 = true →
          (0 < d ∨ (x.counter 0).count ≠ p.count → Completes (.flagArrive p) s (fun t =>
              ((t.recv p.src p.slot).counter d).flag = some p ∧ (t.recv p.src p.slot).lastDone = x.lastDone ∧ t.mem = s.mem))
            ∧ (d = 0 → (x.counter 0).count = p.count → (x.counter 1).flag = none → Completes (.flagArrive p) s (fun t =>
              (t.recv p.src p.slot).lastDone = x.lastDone + 1
                ∧ (traceOff → s.cxlLost p.addr = false → ∀ j, j < 4 →
                    t.mem.get 0 (p.addr + j) = (natBytes 4 p.value.toNat).getD j 0)
                ∧ ∀ r ∈ t.records, r.wkind = 5 → t.flagDelivered (r.wkey0.truncate 32) = true → r.fired = true)))
      ∧ (let y := s.recv ep slot
         y.state = 0 → s.spanLate y = true → Completes (.replayRequest ep slot) s (fun t =>
          (y.replays = 3 → (t.recv ep slot).state = 2)
            ∧ (y.replays ≠ 3 → (t.recv ep slot).gen = y.gen + 1 ∧ (t.recv ep slot).replays = y.replays + 1
              ∧ (s.pathUp = true → t.out.head? = some (.replayRequest ep slot y.current (y.gen + 1))))))
      ∧ (∀ span gen, (s.send ep slot).gen ≠ gen →
          let n := ((s.send ep slot).span - span).toNat
          let held := n < 128 ∧ ∀ i, i < n → s.logHolds ep slot (span + BitVec.ofNat 8 i) = true
          (¬ held → Completes (.replayRequestArrive ep slot span gen) s (fun t => t.out = .replayGone ep slot :: s.out))
            ∧ (held → Completes (.replayRequestArrive ep slot span gen) s (fun t =>
              (t.send ep slot).gen = gen ∧ t.sendLog.length = s.sendLog.length
                ∧ ∀ e ∈ t.sendLog, e.inSpan ep slot (s.send ep slot).span = true → e.pkt.gen = gen)))
      ∧ Completes (.replayGone ep slot) s (fun t => (t.recv ep slot).state = 2)
      ∧ (∀ span, Completes (.sendLogExpiry ep slot span) s (fun t =>
          (∀ e ∈ s.sendLog, e.inSpan ep slot span = false → e ∈ t.sendLog)
            ∧ ∀ e ∈ t.sendLog, e.inSpan ep slot span = true → ∀ u, e.closedAt = some u → s.now < u + tKeepUs s.fabCtl * 1000))
      ∧ (∀ a, s.ctxOfDctx p.dctx = some a → Completes (.protectionNotice p) s (fun t =>
          (t.ctx a).fqSeq = (s.ctx a).fqSeq + 1))
      ∧ (∀ r : RemoteReq,
          let allowed := s.rangePermits r.src r.dctx r.addr r.len (remoteBit r.op)
          let answers (st : RemoteStatus) (bs : List Byte) (P : State → Prop) : Prop :=
            Completes (.remoteRequestArrive r) s (fun t => t.out = .response r.id st bs :: s.out ∧ P t)
          (allowed = false → answers .refused [] (fun t => t.mem = s.mem ∧ t.protLog.length = s.protLog.length + 1))
            ∧ (allowed = true → s.poisoned r.addr r.len = true → answers .poisoned [] (fun t => t.mem = s.mem))
            ∧ (allowed = true → s.poisoned r.addr r.len = false → r.op = .read →
                answers .ok (s.homeBytes r.addr r.len) (fun t => t.mem = s.mem))
            ∧ (∀ op ty b cmp, allowed = true → s.poisoned r.addr r.len = false → r.op = .atomic op ty b cmp →
                answers .ok (s.homeBytes r.addr r.len) (fun t => ∀ j, j < r.len →
                  t.mem.get 0 (r.addr + j) = (natBytes r.len (atomNew op.toNat ty (s.peek r.addr r.len) (bytesNat b) (bytesNat cmp))).getD j 0)))
      ∧ (∀ id st bs r, s.remotes.find? (fun y => y.req.id == id && y.status.isNone) = some r → r.gid ≠ 0 →
          (∃ g ∈ s.groups, g.gid = r.gid) → (∀ g ∈ s.groups, g.reload = 0) →
          Completes (.remoteResponseArrive id st bs) s (fun t => t.mem = s.mem ∧ t.g = s.g
            ∧ ∃ y ∈ t.remotes, y.req = r.req ∧ y.gid = r.gid ∧ y.tag = r.tag ∧ y.status = some st ∧ y.bytes = bs))

/-- R352, R365 to R367 and R370. A line whose hold has run out sends again; the time master sends its timestamp, another
device moves toward it by at most 100 ppm and never back; a training is counted and its word sent, fails or brings the
port up; three failures in a row leave it DOWN; a lost link leaves the paths, a lost CXL link its range.
The model's own choices and readings: log 6, 95, 96, 119. -/
def Obligations.LinkEvents : Prop :=
  ∀ (s : State) (port : Nat),
    let x := s.port port
    let fails (i : Instr) : Prop := Completes i s (fun t =>
      (t.port port).fails = x.fails + 1 ∧ (t.port port).training = none ∧ ((t.port port).down = true ↔ 3 ≤ x.fails + 1)
        ∧ (t.port port).up = x.up)
    (∀ line, s.pathHold.get 0 line ≠ 0 → s.pathHold.get 0 line ≤ s.now + 1 → Completes (.pathHoldExpiry line) s (fun t =>
        t.pathHold.get 0 line = 0 ∧ t.pathWait = s.pathWait.filter (fun p => lineOf p.2 != line)
          ∧ (s.pathUp = true → ∀ p ∈ s.pathWait, lineOf p.2 = line →
              (p.1 = none → .packet p.2 ∈ t.out)
                ∧ ∀ core, p.1 = some core →
                  (∃ q, .packet q ∈ t.out ∧ q.cls = p.2.cls ∧ q.dst = p.2.dst ∧ q.slot = p.2.slot ∧ q.addr = p.2.addr
                    ∧ q.bytes = p.2.bytes)
                    ∨ (core, p.2) ∈ (t.send p.2.dst p.2.slot).heldPkts)))
      ∧ (s.timeMaster = some s.endpoint → s.lastBeacon + 1000 ≤ s.now → s.pathUp = true → Completes .timeBeaconSend s (fun t =>
          t.lastBeacon = s.now ∧ t.out.head? = some (.beacon s.now) ∧ t.now = s.now))
      ∧ (∀ ts : W64, s.timeMaster ≠ some s.endpoint → Completes (.timeBeaconArrive ts) s (fun t =>
          s.now ≤ t.now ∧ (t.now = s.now ∨ t.now ≤ ts.toNat) ∧ t.lastBeacon = t.now
            ∧ t.now - s.now ≤ (s.now - s.beaconSince.getD s.now) / 10000
            ∧ t.beaconSince = some (s.beaconSince.getD s.now)
            ∧ (t.synced = true ↔ s.synced = true ∨ s.beaconSince.getD s.now + 10000000 ≤ s.now)))
      ∧ (s.mayTrain port = true → Completes (.linkTraining port) s (fun t =>
          (t.port port).training = some s.now ∧ (t.port port).trains = (x.trains + 1) % 256
            ∧ t.out.head? = some (.linkWord port (t.port port).word)
            ∧ (t.flash.wear.get Wear.zero (port / 4)).retrain = satAdd (s.flash.wear.get Wear.zero (port / 4)).retrain 1))
      ∧ (∀ (w : W64) sigOk, x.training ≠ none →
          let good := sigOk = true ∧ 4 ≤ (lanesIn (lwLanes x.word &&& lwLanes w)).length
            ∧ (x.expected = none ∨ x.expected = some (lwEp w))
          (¬ good → fails (.linkStateWordArrive port w sigOk))
            ∧ (good → Completes (.linkStateWordArrive port w sigOk) s (fun t =>
              (t.port port).up = true ∧ (t.port port).training = none ∧ (t.port port).fails = 0
                ∧ (t.port port).peer = lwEp w)))
      ∧ (∀ u, x.training = some u → u + 100000000 ≤ s.now → fails (.linkTrainTimeout port))
      ∧ (x.up = true → Completes (.portLinkLoss port) s (fun t => (t.port port).up = false ∧ t.mem = s.mem ∧ t.g = s.g))
      ∧ (port < 2 → s.cxlDown.getLsbD port = false → Completes (.cxlLinkDown port) s (fun t =>
          t.cxlDown.getLsbD port = true ∧ t.mem = s.mem ∧ t.g = s.g ∧ ∃ f, t.devFaults = s.devFaults ++ [f] ∧ f.code = 0x84))

/-- R8, R217, R307, R335, R337, R338, R363 and R368. What the host does to the device: a store to the aperture starts a
copy or is counted and reported; memory is read and written through BAR4; registers are written, FAB_CTL only within the
bounds of its timers; a doorbell moves a launch queue's tail, stops the queue beyond its size, and is discarded where it
runs backward; the next record of an ACTIVE queue is fetched and numbered.
The model's own choices and readings: log 6, 80, 94, 109, 111, 133, 138. -/
def Obligations.HostEvents : Prop :=
  ∀ (s : State),
    (∀ v : W64,
        let x : W64 := v &&& 0x0000FFFFFFFFFFFF#64
        let bad := tLostUs x < 2 * pktLifeUs x ∨ tKeepUs x < 3 * tLostUs x + pktLifeUs x
        (bad → exec (.fabCtlWrite v) s = .next s) ∧ (¬ bad → exec (.fabCtlWrite v) s = .next { s with fabCtl := x }))
      ∧ (∀ q t,
          let x := s.queue q
          x.task = false → x.state ≠ .off → x.state ≠ .stopped →
            (2 ^ 31 ≤ (t - x.tail).toNat → exec (.doorbellWrite q t) s = .next s)
              ∧ ((t - x.tail).toNat < 2 ^ 31 → 2 ^ x.log2n < (t - x.head).toNat → Completes (.doorbellWrite q t) s (fun u =>
                  (u.queue q).state = .stopped ∧ (u.queue q).tail = x.tail ∧ u.mem = s.mem
                    ∧ ∃ f, u.devFaults = s.devFaults ++ [f] ∧ f.code = 0x81))
              ∧ ((t - x.tail).toNat < 2 ^ 31 → (t - x.head).toNat ≤ 2 ^ x.log2n → Completes (.doorbellWrite q t) s (fun u =>
                  (u.queue q).tail = t ∧ (u.queue q).head = x.head ∧ u.mem = s.mem ∧ u.g = s.g)))
      ∧ (∀ q s1 bs,
          let x := s.queue q
          x.state = .active → x.task = false → (s.ctx x.asid).state = .running → x.head ≠ x.tail →
          (∀ l ∈ s.launchesOf q, l.unstarted = false ∧ l.accepted = true) →
          s.ctxRead x.asid (2 ^ 41 + q) (x.ring.toNat + 128 * (x.head.toNat % 2 ^ x.log2n)) 128 = .ok s1 bs →
          Completes (.launchFetch q) s (fun t => (t.queue q).head = x.head + 1 ∧ (t.queue q).tail = x.tail
            ∧ (t.ctx x.asid).launchNum = ((s.ctx x.asid).launchNum + 1) % 2 ^ 32))
      ∧ (∀ asid off x, s.boot.ready = true → (s.ctx asid).state ≠ .off →
          (∀ n, s.apertureCheck asid off x = .error n → Completes (.apertureStore asid off x) s (fun t =>
              (t.ctx asid).aperDrop = (s.ctx asid).aperDrop + 1 ∧ (t.ctx asid).fqSeq = (s.ctx asid).fqSeq + 1
                ∧ t.engOps = s.engOps ∧ t.apStarts = s.apStarts))
            ∧ ∀ m, s.apertureCheck asid off x = .ok m → (∀ o ∈ s.apStarts, o.id ≠ s.serial) →
              Completes (.apertureStore asid off x) s (fun t => t.mem = s.mem ∧ t.g = s.g
                ∧ ∃ o, (o ∈ t.engOps ∨ o ∈ t.apStarts) ∧ o.kind = .copy m.plan ∧ o.bar = some m.barAddr
                    ∧ o.core = off.toNat / 256 ∧ o.asid = asid ∧ o.tok = 0 ∧ o.aperture = true))
      ∧ (s.boot.power = true →
          (∀ pa bs, (∀ r ∈ s.records, ∀ u, r.place ≠ .pool u) ∨ (bs.length = 1 ∧ s.recordAt pa = none) → Completes (.hostAccess (.writeMem pa bs)) s (fun t =>
              (∀ j, j < bs.length → s.barMemory (pa + j) = true → t.mem.get 0 (pa + j) = bs.getD j 0)
                ∧ (∀ a, Outside a [(pa, bs.length)] → t.mem.get 0 a = s.mem.get 0 a) ∧ t.g = s.g ∧ t.ctxs = s.ctxs))
            ∧ (∀ pa n, s.records = [] → (∀ j, j < n → s.barMemory (pa + j) = true) →
              exec (.hostAccess (.readMem pa n)) s
                = .next (s.emit (.hostData (s.homeBytes pa n))))
            ∧ (∀ r v, exec (.hostAccess (.writeReg r v)) s = exec (.registerWrite r v) s)
            ∧ (∀ r x, s.readReg r = some x → exec (.hostAccess (.readReg r)) s = .next (s.emit (.hostData (natBytes 8 x))))
            ∧ (∀ a off x, (a, off, x) ∉ s.apStores → exec (.hostAccess (.aperture a off x)) s = exec (.apertureStore a off x) s)
            ∧ (∀ v, exec (.registerWrite 0x300000 v) s = exec (.fabCtlWrite v) s)
            ∧ (∀ v, exec (.registerWrite 0x100018 v) s = exec (.tlbiStart v) s)
            ∧ (∀ q v, s.boot.ready = true → q < 131072 →
              exec (.registerWrite (0x10000000 + 8 * q) v) s = exec (.doorbellWrite q (w32 v.toNat)) s)
            ∧ (∀ p i v, p < 8 → i < 4 → Completes (.registerWrite (0x200000 + 0x100 * p + 8 * i) v) s (fun t =>
              ∀ n, n < 256 → (t.part p).mask.getLsbD n = if n / 64 = i then v.getLsbD (n % 64) else (s.part p).mask.getLsbD n))
            ∧ (∀ fn v, fn ≤ 8 → s.boot.ready = true → (s.mailbox fn).req = none →
              Completes (.registerWrite (fn * 2 ^ 30 + 0x8000) v) s (fun t =>
                (t.mailbox fn).req = some (v.toNat / 64 * 64) ∧ (t.mailbox fn).done = false ∧ t.mem = s.mem ∧ t.g = s.g)))

/-- R331, R333 to R335, R350, R356, R359, R365, R367, R369, R382, R385, R395, R396 and R400. A command in its mailbox is
answered with the status the spec gives it, and has its effect; a switch is answered when its last step is done.
The model's own choices and readings: log 6, 101, 102, 103, 104, 105, 106, 107. -/
def Obligations.MailboxCommands : Prop :=
  ∀ (s : State) (cmd : MbxCmd) (a : Nat),
    let done (i : Instr) (status : Nat) (P : State → Prop) : Prop := Completes i s (fun t => Replied t cmd status ∧ P t)
    let c := s.ctx a
    (s.commanded cmd = true →
        (∀ d, (s.descRefused d = true → done (.registerCtx cmd d) 1 (fun t => t.ctxs = s.ctxs ∧ t.g = s.g))
            ∧ (s.descRefused d = false → done (.registerCtx cmd d) 0 (fun t => t.g = s.g
              ∧ t.ctx (descAsid d) = (if (s.ctx (descAsid d)).state = .out then
                    { (s.ctx (descAsid d)).described d with vt := 0 }
                  else { (s.ctx (descAsid d)).described d with state := .running, vt := 0 }))))
          ∧ (c.state = .switching ∨ c.state = .ending → done (.deregisterCtx cmd a) 2 (fun t => t.ctxs = s.ctxs))
          ∧ (c.state = .running → s.ctxBusy a = true → done (.deregisterCtx cmd a) 2 (fun t => t.ctxs = s.ctxs))
          ∧ (c.state = .running → s.ctxBusy a = false → done (.deregisterCtx cmd a) 0 (fun t => t.ctx a = Ctx.off))
          ∧ (∀ obj size,
              let o := (List.range size).map (fun i => s.mem.get 0 (hostLoc (obj + i)))
              (objectOk o = false → done (.loadCode cmd a obj size) 1 (fun t => t.ctxs = s.ctxs))
                ∧ (objectOk o = true → ∀ n, s.chooseVariant o = .error n → n ≠ 3 → done (.loadCode cmd a obj size) n (fun t => t.ctxs = s.ctxs))
                ∧ (objectOk o = true → ∀ p, s.chooseVariant o = .ok p →
                  let data := objPart o (objNum o 0x20 8) (objNum o 0x28 8)
                  (∀ n, s.placeCode a p data = .error n → done (.loadCode cmd a obj size) n (fun t => t.ctxs = s.ctxs))
                    ∧ ∀ s1, s.placeCode a p data = .ok s1 → done (.loadCode cmd a obj size) 0 (fun t =>
                      (t.ctx a).digest = p.digest ∧ (t.ctx a).codeSize = p.code.length ∧ (t.ctx a).ktab = p.ktab
                        ∧ (t.ctx a).segs = (List.range (p.segTab.length / 16)).map (segmentAt p.segTab))))
          ∧ (∀ q ring n task, ((s.queue q).state ≠ .off → done (.queueEnable cmd q ring n task a) 3 (fun t => t.queues = s.queues))
              ∧ ((s.queue q).state = .off → q < 131072 → 6 ≤ n → n ≤ 14 → ring.toNat % 128 = 0 → c.state = .running →
                globalWindow ring.toNat = true → done (.queueEnable cmd q ring n task a) 0 (fun t =>
                  t.queue q = { WorkQueue.none with state := .idle, saved := .idle, task := task, asid := a, ring := ring, log2n := n }
                    ∧ ∀ m, m ≠ q → t.queue m = s.queue m)))
          ∧ (∀ q, (s.launchesOf q ≠ [] → done (.queueDisable cmd q) 4 (fun t => t.queues = s.queues))
              ∧ (s.launchesOf q = [] → done (.queueDisable cmd q) 0 (fun t => t.queue q = WorkQueue.none)))
          ∧ (c.state = .out → c.mbx = none → done (.switchOut cmd a) 0 (fun t => t.ctxs = s.ctxs)
              ∧ exec (.switchIn cmd a) s = .next (s.setCtx a { c with mbx := some cmd }))
          ∧ (c.state = .running → c.mbx = none → Completes (.switchOut cmd a) s (fun t =>
              t.ctx a = { c with state := .switching, mbx := some cmd }
                ∧ (∀ q, (s.queue q).asid = a → (s.queue q).state ≠ .off → (s.queue q).state ≠ .paused →
                    (t.queue q).state = .paused ∧ (t.queue q).saved = (s.queue q).state)
                ∧ (s.g.gid ≠ 0 → s.g.asid = a → t.g.yieldReq = true ∨ t.g.yieldAt ≠ none) ∧ t.mem = s.mem))
          ∧ (c.state ≠ .out → done (.switchIn cmd a) 5 (fun t => t.ctxs = s.ctxs))
          ∧ (∀ ep, (s.pathUp = true → done (.endpointSet cmd ep) 6 (fun t => t.endpoint = s.endpoint))
              ∧ (s.pathUp = false → done (.endpointSet cmd ep) 0 (fun t => t.endpoint = ep % 1024)))
          ∧ (∀ peer slot d,
              let o := s.owner peer slot
              let taken := o ≠ 0xFFFF#16 ∧ o ≠ d ∧ d ≠ 0xFFFF#16
              (taken → done (.slotAssign cmd peer slot d) 7 (fun t => t.owners = s.owners))
                ∧ (¬ taken → done (.slotAssign cmd peer slot d) 0 (fun t => t.owner peer slot = d)))
          ∧ (∀ peer slot v, done (.slotReset cmd peer slot true v) 0 (fun t =>
                t.recv peer slot = { RecvState.init with lastDone := v }
                  ∧ ∀ r ∈ t.records, r.wkind = 5 → t.flagDelivered (r.wkey0.truncate 32) = true → r.fired = true)
              ∧ done (.slotReset cmd peer slot false v) 0 (fun t =>
                t.send peer slot = { s.send peer slot with span := v, count := 0, gen := 0 }))
          ∧ (∀ ep, done (.setTimeMaster cmd ep) 0 (fun t => t.timeMaster = some (ep % 1024)))
          ∧ (∀ p, ((s.port p).down = true → done (.linkEnable cmd p) 0 (fun t => t.port p = { s.port p with down := false, fails := 0 }))
              ∧ ((s.port p).down = false → done (.linkEnable cmd p) 8 (fun t => t.ports = s.ports)))
          ∧ (∀ nonce at_, (a ≠ 0xFFFF → c.state = .off → done (.attest cmd a nonce at_) 9 (fun t => t.ctxs = s.ctxs))
              ∧ (a = 0xFFFF ∨ c.state ≠ .off → done (.attest cmd a nonce at_) 0 (fun t =>
                ∀ j, j < 640 → Outside (hostLoc at_ + j) [(hostLoc (cmd.block + 128), 16)] →
                  t.mem.get 0 (hostLoc at_ + j) = (s.report a nonce).getD j 0)))
          ∧ (∀ core, (s.coreLive core = false → done (.coreFence cmd core) 10 (fun t => t.ident = s.ident ∧ t.g = s.g))
              ∧ (s.coreLive core = true → done (.coreFence cmd core) 0 (fun t =>
                t.coreLive core = false ∧ (∀ n, n ≠ core → t.coreLive n = s.coreLive n)
                  ∧ (∀ g ∈ t.groups, g.gid ≠ 0 → g.core ≠ core) ∧ (∃ f ∈ t.devFaults, f.code = 0x86)
                  ∧ (s.flash.fences.length < 64 → core ∈ t.flash.fences))))
          ∧ done (.fenceClear cmd) 0 (fun t => t.flash.fences = [] ∧ t.ident = s.ident))
      ∧ (s.switchReady a = true → c.mbx = some cmd → s.kept = [] → done (.switchOutDone a) 0 (fun t =>
          (t.ctx a).state = .out ∧ (t.ctx a).mbx = none ∧ ∀ b ∈ t.blocks, b.asid = a → b.saved = true))
      ∧ (∀ place s1, c.state = .out → c.mbx = some cmd → place.length = (s.savedBlocks a).length →
          State.restoreBlocks ((s.savedBlocks a).zip place) ((s.savedBlocks a).zip place) s = some s1 →
          done (.switchInDone a place) 0 (fun t => (t.ctx a).state = .running ∧ (t.ctx a).mbx = none ∧ (t.ctx a).frames = []))

/-- R380, R381, R388 to R395, R397 and R398. Power, starts and the module: power-good and RETRY start the
device anew, with the flash and the memory that is not the module's; the stages come in order and the last makes it
READY; a failed start names its cause; heat steps a unit's clock down and gives the steps back, or cuts the package; wear
is counted and flushed; memory errors are counted, and what an uncorrectable one strikes is poisoned or fenced.
The model's own choices and readings: log 6, 112, 114, 115, 116, 117, 120, 140. -/
def Obligations.ModuleEvents : Prop :=
  ∀ (s : State),
    let anew (t : State) : Prop := t.now = 0 ∧ t.boot = State.reset.boot ∧ t.g = Group.off ∧ t.others = [] ∧ t.ctxs = []
      ∧ t.records = [] ∧ ∀ x, t.mem.get 0 x = if outlasts x = true then s.mem.get 0 x else 0
    let failsWith (i : Instr) (cause : BitVec 8) : Prop := Completes i s (fun t =>
      t.flash.cause = cause ∧ t.flash.fails = s.flash.fails
        ∧ (s.boot.minimal = true ∨ cause = 0x01#8 ∨ cause = 0x02#8 → t.boot = { s.boot with halted := true } ∧ t.mem = s.mem)
        ∧ (s.boot.minimal = false → cause ≠ 0x01#8 → cause ≠ 0x02#8 → anew t))
    let stage (n ms : Nat) (trained : List (TrainUnit × List Byte)) (P : State → Prop) : Prop :=
      s.booting = true → s.boot.stage = n → Completes (.bootStageDone (.done ms trained)) s P
    let known := s.trainUnits.all (fun u => (s.storedResult u).isSome)
    let copy (t : State) (b : Bool) : TrainCopy := if b then t.flash.copyB else t.flash.copyA
    (s.boot.power = false → Completes .powerGood s (fun t => anew t ∧ t.flash = s.flash))
      ∧ (s.boot.power = true → exec .powerGood s = .next s
          ∧ Completes .powerOff s (fun t => t.boot.power = false ∧ t.flash = s.flash ∧ t.now = 0)
          ∧ Completes .retry s (fun t => anew t ∧ t.flash = { s.flash with fails := 0 }))
      ∧ (∀ cause, s.booting = true → failsWith (.bootStageDone (.failed cause)) cause)
      ∧ (s.booting = true → 120000000000 ≤ s.now → failsWith .bootTimeout 0x07#8)
      ∧ (∀ ms st, stage 0 ms st (fun t => t.boot.stage = 1 ∧ t.flash.fails = min 3 (s.flash.fails + 1)
              ∧ (t.boot.minimal = true ↔ s.flash.fails = 3)
              ∧ ∀ u, u < 12 → (t.flash.wear.get Wear.zero u).starts = satAdd (s.flash.wear.get Wear.zero u).starts 1)
          ∧ stage 1 ms st (fun t => (s.flash.rollback ≤ s.flash.fwVersion → t.boot.stage = 2 ∧ t.flash.rollback = s.flash.fwVersion)
              ∧ (s.flash.fwVersion < s.flash.rollback → t.flash.cause = 0x02#8 ∧ t.boot.halted = true))
          ∧ stage 2 ms st (fun t => t.boot.stage = 3 ∧ (s.boot.minimal = false → t.ident.coreEn = s.flash.cores
                ∧ t.ident.stackEn = s.flash.stackFuse ∧ t.ident.portEn = s.flash.portFuse
                ∧ t.ident.chanEn = s.flash.chanFuse ∧ t.ident.coreLive = s.flash.cores)
              ∧ (s.boot.minimal = true → s.flash.cores ≠ 0 → t.ident.portEn = 0))
          ∧ stage 3 ms st (fun t => t.boot.stage = 4 ∧ t.boot.stored = known ∧ (known = true → t.flash = s.flash)
              ∧ (known = false → ∃ n b, t.boot.training = some (n, b) ∧ (copy t b).seq = none
                ∧ (copy t b).results.map (·.unit) = s.trainUnits ∧ copy t (!b) = copy s (!b)
                ∧ ∀ c k, (copy s c).seq = some k → k < n))
          ∧ stage 4 ms st (fun t => t.boot.stage = 5
              ∧ ∀ n b, s.boot.training = some (n, b) → (copy t b).seq = some n ∧ (copy t b).results = (copy s b).results)
          ∧ stage 5 ms st (fun t => t.boot.ready = true ∧ t.boot.stage = 6 ∧ t.boot.readyMs = ms
              ∧ (s.boot.minimal = false → t.flash.fails = 0) ∧ (s.boot.minimal = true → t.flash.fails = s.flash.fails)
              ∧ ∀ x, t.mem.get 0 x = if x < 2 ^ 41 then 0 else s.mem.get 0 x))
      ∧ (s.boot.power = true → ∀ unit temp,
          let h := s.heat unit
          let steps (i : Instr) (n x : Nat) (fault : Bool) : Prop := Completes i s (fun t =>
            (t.heat unit).steps = n ∧ (t.heat unit).temp = x ∧ t.mem = s.mem ∧ t.g = s.g
              ∧ (fault = true → ∃ f, t.devFaults = s.devFaults ++ [f] ∧ f.code = 0x87) ∧ (fault = false → t.devFaults = s.devFaults))
          (throttleAt unit < temp →
              (h.steps < maxSteps unit → steps (.thermalThrottle unit temp) (h.steps + 1) temp true)
                ∧ (maxSteps unit ≤ h.steps → steps (.thermalThrottle unit temp) h.steps temp false))
            ∧ (temp ≤ throttleAt unit → exec (.thermalThrottle unit temp) s = .next s)
            ∧ (temp + 5 ≤ throttleAt unit → 0 < h.steps → steps (.thermalRelease unit temp) (h.steps - 1) temp true)
            ∧ (2700 < temp → h.steps < maxSteps unit → steps (.modulePowerCap unit temp) (h.steps + 1) h.temp true)
            ∧ (unit < 5 ∨ 8 ≤ unit ∧ unit < 16 → Completes (.thermalTrip unit) s (fun t =>
                t.boot.power = false ∧ t.flash = { s.flash with cause := 0x09#8 } ∧ t.out = .powerCut :: s.out))
            ∧ (∀ secs, Completes (.unitTemperatureChange unit temp secs) s (fun t => (t.heat unit).temp = temp ∧ t.flash = s.flash
                ∧ ∀ u, wearOf unit = some u →
                  let w := s.wear.get Wear.zero u
                  let x := t.wear.get Wear.zero u
                  x.secLo = (if (if unit < 8 then 95 else 85) < h.temp then satAdd w.secLo secs else w.secLo)
                    ∧ x.secHi = (if (if unit < 8 then 105 else 95) < h.temp then satAdd w.secHi secs else w.secHi)
                    ∧ x.therm = (if h.low + 40 ≤ temp then satAdd w.therm 1 else w.therm))))
      ∧ (s.boot.power = true → s.wearFlushed + 600000000000 ≤ s.now → Completes .wearFlush s (fun t =>
          t.wearFlushed = s.now ∧ t.flash.wear = t.wear
            ∧ ∀ u, u < 12 → t.wear.get Wear.zero u
                = { s.wear.get Wear.zero u with updates := satAdd (s.wear.get Wear.zero u).updates 1 }))
      ∧ (s.boot.power = true → ∀ e : SoftError,
          let c := s.errs.get ErrCount.zero e.die
          let refill := s.refillable e = true
          (e.corrected = true ∨ refill → Completes (.softErrorDetect e) s (fun t =>
              (t.errs.get ErrCount.zero e.die).ce = satAdd c.ce 1 ∧ (t.errs.get ErrCount.zero e.die).ue = c.ue
                ∧ t.poison = s.poison ∧ t.mem = s.mem ∧ t.g = s.g))
            ∧ (e.corrected = false → ¬ refill → Completes (.softErrorDetect e) s (fun t =>
              (t.errs.get ErrCount.zero e.die).ue = satAdd c.ue 1 ∧ (∃ f ∈ t.devFaults, f.code = 0x85)
                ∧ (e.unit = 1 → t.poison.get false (spadLoc e.core (e.loc % 2 ^ 20) / 32) = true)
                ∧ (e.unit = 2 → t.accPoison.get false (e.core * 2 ^ 16 + e.loc % 2 ^ 16) = true)
                ∧ (2 < e.unit → e.unit ≠ 10 → t.poison.get false (e.loc % 2 ^ 52 / 32) = true)
                ∧ (e.unit = 10 → e.core < 256 → t.coreLive e.core = false))))

/-! ### The machine as a whole -/

/-- R45 and R50 to R63. Decoding and encoding agree: every well-formed instruction decodes from its word, in a clause
whose literal words pass its checks, to itself; and every word that decodes is the word of its instruction, which is
well-formed. The model's own choices and readings: log 11, 12, 13. -/
def Obligations.DecodeEncode : Prop :=
  ∀ (lits : List W64) (i : Instr) (w : W64),
    (i.wf lits = true → encode i = some w → decodeWord lits w = .ok i)
      ∧ (decodeWord lits w = .ok i → encode i = some w ∧ i.wf lits = true)

/-- R10, R42, R58, R62, R129, R282 and R389. A group that has met a translation fault runs ahead before anything else.
Otherwise, with the agenda empty and the issuing group able to issue, a step is the
instruction that the next word of its clause decodes to; a word that fails a check of R58 is the illegal-instruction trap
with the check's number; past the last word the clause ends. An event that the agenda lists comes next, an instruction
word it lists does not run; a device without power takes no step of its own.
The model's own choices and readings: log 1, 9, 122. -/
def Obligations.StepRunsDecoded : Prop :=
  ∀ (s : State) (r : Run),
    (∀ b, s.aheadDue = some b → step s = .next (s.runAhead exec b))
      ∧ (s.aheadDue = none → s.agenda = [] → s.alive = true → s.runnable s.g = true → s.g.run = some r →
        (∀ w i, r.words[r.wix]? = some w → decodeWord r.lits w = .ok i → step s = exec i s)
          ∧ (∀ w n, r.words[r.wix]? = some w → decodeWord r.lits w = .error n →
            step s = .next (s.takeTrap { cause := 0x02, detail := opcOf w + n * 2 ^ 10, lane := none }))
          ∧ (r.words[r.wix]? = none → step s = .next { s with g := s.g.endClause r }))
      ∧ (∀ i rest, s.aheadDue = none → s.agenda = .event i :: rest →
          (i.isWord = false → step s = exec i { s with agenda := rest })
            ∧ (i.isWord = true → step s = .next { s with agenda := rest }))
      ∧ (∀ gid rest, s.aheadDue = none → s.agenda = .issue gid :: rest → step s = .next ({ s with agenda := rest }.turnTo gid))
      ∧ (∀ n rest, s.aheadDue = none → s.agenda = .tick n :: rest → step s = .next { s with agenda := rest, now := s.now + n })
      ∧ (s.aheadDue = none → s.agenda = [] → s.boot.power = false → step s = .next s)

/-- Words written out from the encodings of the spec decode to what they stand for (R45, R50 to R57, R61, R63), and a word
with an unassigned opcode to the step that raises the trap of R62. The model's own choices and readings: log 11. -/
def Obligations.SampleWordsDecode : Prop :=
  let base : FmtA := { guard := .always, keep := false, mod := 0, dst := 4, a := .v 4, b := .imm 1, c := .v 0, ty := .s32, sat := false }
  let adr : FmtA := { guard := .always, keep := false, mod := 0, dst := 3, a := .v 3, b := .v 0, c := .v 0, ty := .b32, sat := false }
  let e : FmtE := { guard := .always, keep := false, mod := 0, dst := 0, a := 0, b := 0, c := 0, imm := 0 }
  decodeWord [0x12345#64] 0x0040004040100190#64 = .ok (.iadd base)
    ∧ decodeWord [] 0x0042004040100190#64 = .ok (.iadd { base with keep := true })
    ∧ decodeWord [0x12345#64] 0x01C0005060700186#64 = .ok (.imad { base with dst := 5, a := .v 6, b := .v 7, c := .lit 0 })
    ∧ decodeWord [] 0x01C0005060700186#64 = .error 4
    ∧ decodeWord [] 0x2C41A00000000000#64 = .ok (.bra { guard := .on true 2, keep := false, mod := 0, dst := 0, off := 0 })
    ∧ decodeWord [] 0x2C41A00FFFFFFFF8#64 = .ok (.bra { guard := .on true 2, keep := false, mod := 0, dst := 0, off := -8 })
    ∧ decodeWord [] 0x1140003030000000#64 = .ok (.sptest adr)
    ∧ decodeWord [] 0x1189303030000000#64 = .ok (.spcast { adr with guard := .on false 3, mod := 2 })
    ∧ decodeWord [] 0x4000000080C00000#64 = .ok (.mma { e with a := 8, b := 12 })
    ∧ decodeWord [] 0x2C80001000000000#64 = .ok (.brc { guard := .always, keep := false, mod := 0, dst := 1, off := 0 })
    ∧ decodeWord [] 0x4844000000000000#64 = .ok (.aunbindFlush { e with mod := 1 })
    ∧ decodeWord [] 0x2E48000000000002#64 = .ok (.park { e with mod := 2, imm := 2 })
    ∧ decodeWord [] 0xF000000000000000#64 = .ok (.hint0 0)
    ∧ decodeWord [] 0#64 = .ok (.reservedOpcode 0)

/-- Every step keeps memory in its canonical form. The model's own choices and readings: log 21. -/
def Obligations.MemoryInvariant : Prop :=
  ∀ (s t : State), s.MemInv → step s = .next t → t.MemInv

/-- R289, R290, R293 to R298, R301 and R303. The machine performs one event after another; every execution of that form, in
which a read returns the last write before it, is allowed by the memory model whatever the page kinds, scopes, fences and
synchronisation events of its parties: coherence, single-copy atomicity, happens-before, the order of SO accesses and of
FENCE .all, and the sequence order of replicated pages hold. The model's own choices and readings: log 124. -/
def Obligations.SequentialAllowed : Prop :=
  ∀ (x : Consistency.Execution), x.sequential = true → x.allowed = true

/-- R8, R10, R363, R381, R388 and R389. After power-on nothing runs: no group, context, record or block is there, memory lists nothing,
the timestamp is 0, the boot flow stands at stage 0 and the device is not READY; FAB_CTL holds its reset value.
The model's own choices and readings: log 17, 18, 21, 23. -/
def Obligations.Reset : Prop :=
  State.reset.MemInv ∧ State.reset.mem = [] ∧ State.reset.g = Group.off ∧ State.reset.others = [] ∧ State.reset.ctxs = []
    ∧ State.reset.records = [] ∧ State.reset.blocks = [] ∧ State.reset.now = 0 ∧ State.reset.boot.stage = 0
    ∧ State.reset.boot.ready = false ∧ State.reset.ident.coreLive = 0#256 ∧ State.reset.fabCtl = 0x0000000A00C80014#64
    ∧ State.reset.tlbiCtl = 0 ∧ State.reset.cxlDown = 0#2
end

