-- ==== Sys2Proof/Laws/SMap.lean ====
section
/-! SUPPORT. The sparse store: a read after a write, and the canonical form. -/

namespace Sys2Proof.SMap

variable {α : Type}

@[simp] theorem get_nil (d : α) (k : Nat) : get d [] k = d := rfl

theorem get_insert (d x : α) (m : SMap α) (k j : Nat) : get d (insert k x m) j = if k = j then x else get d m j := by
  induction m with
  | nil => simp [insert, get]
  | cons c m ih =>
    obtain ⟨i, y⟩ := c
    simp only [insert]
    split
    · simp [get]
    · split
      · subst i; simp only [get]; split <;> rfl
      · simp only [get, ih]
        by_cases h : i = j
        · have : ¬ k = j := by omega
          simp [h, this]
        · simp [h]

theorem get_erase (d : α) (m : SMap α) (k j : Nat) : get d (erase k m) j = if k = j then d else get d m j := by
  induction m with
  | nil => simp [erase]
  | cons c m ih =>
    obtain ⟨i, y⟩ := c
    simp only [erase, List.filter_cons] at ih ⊢
    by_cases h : i = k
    · subst h
      simp only [bne_self_eq_false, Bool.false_eq_true, if_false, ih, get]
      split <;> rfl
    · have h' : (i != k) = true := by simpa using h
      simp only [h', if_true, get, ih]
      by_cases hij : i = j
      · have : ¬ k = j := by omega
        simp [hij, this]
      · simp [hij]

theorem get_put [DecidableEq α] (d x : α) (m : SMap α) (k j : Nat) :
    get d (put d m k x) j = if k = j then x else get d m j := by
  unfold put
  split
  · rename_i h; rw [get_erase, h]
  · rw [get_insert]

@[simp] theorem get_put_same [DecidableEq α] (d x : α) (m : SMap α) (k : Nat) : get d (put d m k x) k = x := by
  simp [get_put]

theorem get_put_other [DecidableEq α] (d x : α) (m : SMap α) {k j : Nat} (h : k ≠ j) : get d (put d m k x) j = get d m j := by
  simp [get_put, h]

/-! ### The canonical form -/

theorem wf_iff [DecidableEq α] (d : α) (m : SMap α) :
    wf d m = true ↔ m.Pairwise (fun a b => a.1 < b.1) ∧ ∀ c ∈ m, c.2 ≠ d := by
  induction m with
  | nil => simp [wf]
  | cons c m ih =>
    cases m with
    | nil => simp [wf]
    | cons e m =>
      obtain ⟨i, x⟩ := c
      obtain ⟨j, y⟩ := e
      simp only [wf, Bool.and_eq_true, decide_eq_true_eq, ih, List.pairwise_cons, List.mem_cons, forall_eq_or_imp]
      constructor
      · rintro ⟨⟨hx, hij⟩, ⟨hj, hm⟩, hy, hd⟩
        exact ⟨⟨⟨hij, fun a ha => lt_trans hij (hj a ha)⟩, hj, hm⟩, hx, hy, hd⟩
      · rintro ⟨⟨⟨hij, _⟩, hj, hm⟩, hx, hy, hd⟩
        exact ⟨⟨hx, hij⟩, ⟨hj, hm⟩, hy, hd⟩

theorem wf_filter [DecidableEq α] (d : α) (m : SMap α) (p : Nat × α → Bool) (h : wf d m = true) :
    wf d (m.filter p) = true := by
  rw [wf_iff] at h ⊢
  exact ⟨h.1.filter p, fun c hc => h.2 c (List.mem_filter.mp hc).1⟩

theorem mem_insert (m : SMap α) (k : Nat) (x : α) (c : Nat × α) (hc : c ∈ insert k x m) : c = (k, x) ∨ c ∈ m := by
  induction m with
  | nil => simpa [insert] using hc
  | cons e m ih =>
    obtain ⟨i, y⟩ := e
    simp only [insert] at hc
    split at hc
    · simpa using hc
    · split at hc
      · rcases List.mem_cons.mp hc with h | h
        · exact .inl h
        · exact .inr (List.mem_cons_of_mem _ h)
      · rcases List.mem_cons.mp hc with h | h
        · exact .inr (h ▸ List.mem_cons_self)
        · exact (ih h).imp_right (List.mem_cons_of_mem _)

theorem sorted_insert (m : SMap α) (k : Nat) (x : α) (h : m.Pairwise (fun a b => a.1 < b.1)) :
    (insert k x m).Pairwise (fun a b => a.1 < b.1) := by
  induction m with
  | nil => simp [insert]
  | cons e m ih =>
    obtain ⟨i, y⟩ := e
    rw [List.pairwise_cons] at h
    simp only [insert]
    split
    · rename_i hk
      exact List.pairwise_cons.mpr ⟨fun c hc => by
        rcases List.mem_cons.mp hc with rfl | hc
        · exact hk
        · exact lt_trans hk (h.1 c hc), List.pairwise_cons.mpr h⟩
    · split
      · rename_i hk; subst hk
        exact List.pairwise_cons.mpr ⟨fun c hc => h.1 c hc, h.2⟩
      · exact List.pairwise_cons.mpr ⟨fun c hc => by
          rcases mem_insert m k x c hc with rfl | hc
          · simp; omega
          · exact h.1 c hc, ih h.2⟩

theorem wf_put [DecidableEq α] (d : α) (m : SMap α) (k : Nat) (x : α) (h : wf d m = true) :
    wf d (put d m k x) = true := by
  unfold put
  split
  · exact wf_filter d m _ h
  · rename_i hx
    rw [wf_iff] at h ⊢
    exact ⟨sorted_insert m k x h.1, fun c hc => by
      rcases mem_insert m k x c hc with rfl | hc
      · exact hx
      · exact h.2 c hc⟩

/-- Two canonical stores that read alike are equal. -/
theorem ext_get [DecidableEq α] (d : α) (m n : SMap α) (hm : wf d m = true) (hn : wf d n = true)
    (h : ∀ k, get d m k = get d n k) : m = n := by
  have look : ∀ (m : SMap α), m.Pairwise (fun a b => a.1 < b.1) → ∀ c ∈ m, get d m c.1 = c.2 := by
    intro m
    induction m with
    | nil => simp
    | cons e m ih =>
      intro hs c hc
      rw [List.pairwise_cons] at hs
      rcases List.mem_cons.mp hc with rfl | hc
      · simp [get]
      · have : e.1 < c.1 := hs.1 c hc
        have hne : ¬ e.1 = c.1 := by omega
        simp [get, hne, ih hs.2 c hc]
  have there : ∀ (m : SMap α) k, get d m k ≠ d → (k, get d m k) ∈ m := by
    intro m k
    induction m with
    | nil => simp
    | cons e m ih =>
      intro hk
      simp only [get] at hk ⊢
      split
      · rename_i he; rw [← he]; exact List.mem_cons_self
      · rename_i he
        rw [if_neg he] at hk
        exact List.mem_cons_of_mem _ (ih hk)
  rw [wf_iff] at hm hn
  have sub : ∀ (a b : SMap α), a.Pairwise (fun a b => a.1 < b.1) → (∀ c ∈ a, c.2 ≠ d) →
      (∀ k, get d a k = get d b k) → ∀ c ∈ a, c ∈ b := by
    intro a b hs hd hab c hc
    have h1 := look a hs c hc
    have h2 := there b c.1 (by rw [← hab, h1]; exact hd c hc)
    rw [← hab, h1] at h2
    exact h2
  have asym : ∀ a b : Nat × α, a.1 < b.1 → b.1 < a.1 → a = b := fun a b h1 h2 => absurd h1 (by omega)
  have nd : ∀ (a : SMap α), a.Pairwise (fun a b => a.1 < b.1) → a.Nodup := fun a ha =>
    ha.imp (fun {x y} (hxy : x.1 < y.1) => fun he => by rw [he] at hxy; exact lt_irrefl _ hxy)
  have perm : m.Perm n := (List.perm_ext_iff_of_nodup (nd m hm.1) (nd n hn.1)).mpr fun c =>
    ⟨sub m n hm.1 hm.2 h c, sub n m hn.1 hn.2 (fun k => (h k).symm) c⟩
  exact List.Perm.eq_of_pairwise (fun a b _ _ h1 h2 => asym a b h1 h2) hm.1 hn.1 perm

end Sys2Proof.SMap
end

