-- ==== Sys2Proof/Laws/Lanes.lean ====
section
/-! SUPPORT. Lanes and registers: what a write to the lanes of a list leaves in each lane, and the values of registers
of one, two or three words. -/

namespace Sys2Proof.Machine

/-! ### Lanes of a list -/

theorem below_nodup (n : Nat) (p : Nat → Bool) : (below n p).Nodup := (List.nodup_range).filter p

theorem mem_below {n : Nat} {p : Nat → Bool} {L : Nat} : L ∈ below n p ↔ L < n ∧ p L = true := by simp [below]

theorem setLanes_get (ls : List Nat) (f : Nat → Lane → Lane) (m : SMap Lane) (L : Nat) (h : ls.Nodup) :
    (setLanes ls f m).get Lane.off L = if L ∈ ls then f L (m.get Lane.off L) else m.get Lane.off L := by
  unfold setLanes
  induction ls generalizing m with
  | nil => simp
  | cons M ls ih =>
    rw [List.nodup_cons] at h
    rw [List.foldl_cons, ih _ h.2, SMap.get_put]
    by_cases hM : M = L
    · subst hM; simp [h.1]
    · have : ¬ L = M := fun e => hM e.symm
      simp [hM, this]

@[simp] theorem mapLanes_lane (g : Group) (ls : List Nat) (f : Nat → Lane → Lane) (L : Nat) (h : ls.Nodup) :
    (g.mapLanes ls f).lane L = if L ∈ ls then f L (g.lane L) else g.lane L := setLanes_get ls f g.lanes L h

theorem active_nodup (g : Group) (gd : Guard) : (g.active gd).Nodup := below_nodup _ _
theorem executing_nodup (g : Group) (gd : Guard) : (g.executing gd).Nodup := below_nodup _ _

/-- An active lane executes. -/
theorem active_executing {g : Group} {gd : Guard} {L : Nat} (h : L ∈ g.active gd) : L ∈ g.executing gd := by
  unfold Group.executing
  rw [mem_below]
  exact ⟨(mem_below.mp h).1, by simp [h]⟩

/-! ### Registers -/

@[simp] theorem vw_vr (x : Lane) (n : Nat) (y : W32) (j : Nat) : (x.vw n y).vr j = if n = j then y else x.vr j :=
  SMap.get_put 0 y x.v n j

/-- A lane but for its v registers. -/
theorem vwN_eq (x : Lane) (n k y : Nat) : ∃ v q, x.vwN n k y = { x with v := v, vPoison := q } := by
  induction k generalizing x n y with
  | zero => exact ⟨_, _, rfl⟩
  | succ k ih =>
    obtain ⟨v, q, h⟩ := ih (x.vw n (w32 y)) (n + 1) (y / 2 ^ 32)
    exact ⟨v, q, h⟩

theorem vwN_vr (x : Lane) (n k y j : Nat) :
    (x.vwN n k y).vr j = if n ≤ j ∧ j < n + k then w32 (y / 2 ^ (32 * (j - n))) else x.vr j := by
  induction k generalizing x n y with
  | zero => simp [Lane.vwN]
  | succ k ih =>
    simp only [Lane.vwN, ih, vw_vr]
    by_cases h0 : n = j
    · subst h0; simp
    · by_cases h1 : n + 1 ≤ j ∧ j < n + 1 + k
      · have h2 : n ≤ j ∧ j < n + (k + 1) := by omega
        have h3 : 32 * (j - n) = 32 + 32 * (j - (n + 1)) := by omega
        rw [if_pos h1, if_pos h2, h3, Nat.pow_add, Nat.div_div_eq_div_mul]
      · have h2 : ¬ (n ≤ j ∧ j < n + (k + 1)) := by omega
        rw [if_neg h1, if_neg h2, if_neg h0]

theorem vrN_congr (x y : Lane) (n k : Nat) (h : ∀ j, n ≤ j → j < n + k → x.vr j = y.vr j) : x.vrN n k = y.vrN n k := by
  induction k generalizing n with
  | zero => rfl
  | succ k ih =>
    simp only [Lane.vrN]
    rw [h n (le_refl n) (by omega), ih (n + 1) (fun j h1 h2 => h j (by omega) (by omega))]

/-- A value of k registers reads back. -/
theorem vwN_vrN (x : Lane) (n k y : Nat) : (x.vwN n k y).vrN n k = y % 2 ^ (32 * k) := by
  induction k generalizing x n y with
  | zero => simp [Lane.vrN, Nat.mod_one]
  | succ k ih =>
    simp only [Lane.vrN, Lane.vwN]
    have h0 : ((x.vw n (w32 y)).vwN (n + 1) k (y / 2 ^ 32)).vr n = w32 y := by
      rw [vwN_vr, if_neg (by omega), vw_vr, if_pos rfl]
    rw [h0, ih]
    have h1 : 32 * (k + 1) = 32 + 32 * k := by omega
    rw [h1, Nat.pow_add, Nat.mod_mul]
    simp [w32]

/-! ### Predicates -/

theorem setPred_pred (x : Lane) (n : Nat) (b : Bool) (j : Nat) (hj : j < 8) :
    (x.setPred n b).pred j = if n = j then b else x.pred j := by
  unfold Lane.setPred Lane.pred
  cases b
  · by_cases h : n = j
    · subst h; simp [hj]
    · by_cases h2 : j < n
      · simp [h, hj, h2]
      · have : j - n ≠ 0 := by omega
        simp [h, hj, h2, this]
  · by_cases h : n = j
    · subst h; simp [hj]
    · by_cases h2 : j < n
      · simp [h, hj, h2]
      · have : j - n ≠ 0 := by omega
        simp [h, hj, h2, this]

/-! ### w registers -/

@[simp] theorem ww_wr (g : Group) (n : Nat) (y : W32) (j : Nat) : (g.ww n y).wr j = if n = j then y else g.wr j :=
  SMap.get_put 0 y g.w n j

theorem wwN_eq (g : Group) (n k y : Nat) : ∃ w, g.wwN n k y = { g with w := w } := by
  induction k generalizing g n y with
  | zero => exact ⟨_, rfl⟩
  | succ k ih => exact ih (g.ww n (w32 y)) (n + 1) (y / 2 ^ 32)

theorem wwN_wr (g : Group) (n k y j : Nat) :
    (g.wwN n k y).wr j = if n ≤ j ∧ j < n + k then w32 (y / 2 ^ (32 * (j - n))) else g.wr j := by
  induction k generalizing g n y with
  | zero => simp [Group.wwN]
  | succ k ih =>
    simp only [Group.wwN, ih, ww_wr]
    by_cases h0 : n = j
    · subst h0; simp
    · by_cases h1 : n + 1 ≤ j ∧ j < n + 1 + k
      · have h2 : n ≤ j ∧ j < n + (k + 1) := by omega
        have h3 : 32 * (j - n) = 32 + 32 * (j - (n + 1)) := by omega
        rw [if_pos h1, if_pos h2, h3, Nat.pow_add, Nat.div_div_eq_div_mul]
      · have h2 : ¬ (n ≤ j ∧ j < n + (k + 1)) := by omega
        rw [if_neg h1, if_neg h2, if_neg h0]

/-- A uniform value of k registers reads back. -/
theorem wwN_wrN (g : Group) (n k y : Nat) : (g.wwN n k y).wrN n k = y % 2 ^ (32 * k) := by
  induction k generalizing g n y with
  | zero => simp [Group.wrN, Nat.mod_one]
  | succ k ih =>
    simp only [Group.wrN, Group.wwN]
    have h0 : ((g.ww n (w32 y)).wwN (n + 1) k (y / 2 ^ 32)).wr n = w32 y := by
      rw [wwN_wr, if_neg (by omega), ww_wr, if_pos rfl]
    rw [h0, ih]
    have h1 : 32 * (k + 1) = 32 + 32 * k := by omega
    rw [h1, Nat.pow_add, Nat.mod_mul]
    simp [w32]

/-! ### The keep latch -/

/-- A group with another keep latch. -/
def Group.setKeep (g : Group) (x : Option Keep) : Group := { g with keep := x }

section
variable (g : Group) (x : Option Keep)
@[simp] theorem setKeep_lane (L : Nat) : (g.setKeep x).lane L = g.lane L := rfl
@[simp] theorem setKeep_lanes : (g.setKeep x).lanes = g.lanes := rfl
@[simp] theorem setKeep_w : (g.setKeep x).w = g.w := rfl
@[simp] theorem setKeep_wr (n : Nat) : (g.setKeep x).wr n = g.wr n := rfl
@[simp] theorem setKeep_k : (g.setKeep x).k = g.k := rfl
@[simp] theorem setKeep_kr (t : Nat) : (g.setKeep x).kr t = g.kr t := rfl
@[simp] theorem setKeep_run : (g.setKeep x).run = g.run := rfl
@[simp] theorem setKeep_core : (g.setKeep x).core = g.core := rfl
@[simp] theorem setKeep_asid : (g.setKeep x).asid = g.asid := rfl
@[simp] theorem setKeep_gid : (g.setKeep x).gid = g.gid := rfl
@[simp] theorem setKeep_launch : (g.setKeep x).launch = g.launch := rfl
@[simp] theorem setKeep_block : (g.setKeep x).block = g.block := rfl
@[simp] theorem setKeep_bound : (g.setKeep x).bound = g.bound := rfl
@[simp] theorem setKeep_pend : (g.setKeep x).pend = g.pend := rfl
@[simp] theorem setKeep_tilePend : (g.setKeep x).tilePend = g.tilePend := rfl
@[simp] theorem setKeep_handles : (g.setKeep x).handles = g.handles := rfl
@[simp] theorem setKeep_tbase : (g.setKeep x).tbase = g.tbase := rfl
@[simp] theorem setKeep_tiles : (g.setKeep x).tiles = g.tiles := rfl
@[simp] theorem setKeep_reload : (g.setKeep x).reload = g.reload := rfl
@[simp] theorem setKeep_trap : (g.setKeep x).trap = g.trap := rfl
@[simp] theorem setKeep_slotSel : (g.setKeep x).slotSel = g.slotSel := rfl
@[simp] theorem setKeep_fmtDefault : (g.setKeep x).fmtDefault = g.fmtDefault := rfl
@[simp] theorem setKeep_rngSeed : (g.setKeep x).rngSeed = g.rngSeed := rfl
@[simp] theorem setKeep_lits : (g.setKeep x).lits = g.lits := rfl
@[simp] theorem setKeep_runs (c : Nat) : (g.setKeep x).runs c = g.runs c := rfl
@[simp] theorem setKeep_active (gd : Guard) : (g.setKeep x).active gd = g.active gd := rfl
@[simp] theorem setKeep_executing (gd : Guard) : (g.setKeep x).executing gd = g.executing gd := rfl
@[simp] theorem setKeep_mapLanes (ls : List Nat) (f : Nat → Lane → Lane) :
    (g.setKeep x).mapLanes ls f = (g.mapLanes ls f).setKeep x := rfl
@[simp] theorem setKeep_setKeep (y : Option Keep) : (g.setKeep x).setKeep y = g.setKeep y := rfl
theorem setKeep_self : g.setKeep g.keep = g := rfl

@[simp] theorem setKeep_wrN (n k : Nat) : (g.setKeep x).wrN n k = g.wrN n k := by
  induction k generalizing n with
  | zero => rfl
  | succ k ih => simp only [Group.wrN, ih, setKeep_wr]

@[simp] theorem setKeep_srcInt (t : Ty) (k : Nat) (s : Src) (L : Nat) : (g.setKeep x).srcInt t k s L = g.srcInt t k s L := by
  cases s <;> simp [Group.srcInt]

@[simp] theorem setKeep_offset (z : Nat) (s : Src) (L : Nat) : (g.setKeep x).offset z s L = g.offset z s L := by
  cases s <;> simp [Group.offset]
end

/-- Emptying the keep latch changes nothing else. -/
theorem touchKeep_eq (g : Group) (n k : Nat) : ∃ x, g.touchKeep n k = g.setKeep x := by
  unfold Group.touchKeep
  split
  · split <;> exact ⟨_, rfl⟩
  · exact ⟨_, rfl⟩

/-- Filling the keep latch changes nothing else. -/
theorem fillKeep_eq (g : Group) (i : Instr) (act : List Nat) : ∃ x, g.fillKeep i act = g.setKeep x := by
  unfold Group.fillKeep
  split <;> exact ⟨_, rfl⟩

end Sys2Proof.Machine
end

