-- ==== Sys2Proof/Laws/State.lean ====
section
/-! SUPPORT. The fields of State under its small updates, one lemma per field per update: a field that an update does not
write is as it was. -/

namespace Sys2Proof.Machine

/-- A state with another issuing group. -/
def State.withG (s : State) (g : Group) : State := { s with g := g }

section
variable (s : State) (g : Group)
@[simp] theorem withG_g : (s.withG g).g = g := rfl
@[simp] theorem withG_others : (s.withG g).others = s.others := rfl
@[simp] theorem withG_now : (s.withG g).now = s.now := rfl
@[simp] theorem withG_clocks : (s.withG g).clocks = s.clocks := rfl
@[simp] theorem withG_mem : (s.withG g).mem = s.mem := rfl
@[simp] theorem withG_poison : (s.withG g).poison = s.poison := rfl
@[simp] theorem withG_acc : (s.withG g).acc = s.acc := rfl
@[simp] theorem withG_accPoison : (s.withG g).accPoison = s.accPoison := rfl
@[simp] theorem withG_hier : (s.withG g).hier = s.hier := rfl
@[simp] theorem withG_seqLog : (s.withG g).seqLog = s.seqLog := rfl
@[simp] theorem withG_seqNum : (s.withG g).seqNum = s.seqNum := rfl
@[simp] theorem withG_records : (s.withG g).records = s.records := rfl
@[simp] theorem withG_departed : (s.withG g).departed = s.departed := rfl
@[simp] theorem withG_accepted : (s.withG g).accepted = s.accepted := rfl
@[simp] theorem withG_blocks : (s.withG g).blocks = s.blocks := rfl
@[simp] theorem withG_launches : (s.withG g).launches = s.launches := rfl
@[simp] theorem withG_queues : (s.withG g).queues = s.queues := rfl
@[simp] theorem withG_ctxs : (s.withG g).ctxs = s.ctxs := rfl
@[simp] theorem withG_batches : (s.withG g).batches = s.batches := rfl
@[simp] theorem withG_engOps : (s.withG g).engOps = s.engOps := rfl
@[simp] theorem withG_apStarts : (s.withG g).apStarts = s.apStarts := rfl
@[simp] theorem withG_apStores : (s.withG g).apStores = s.apStores := rfl
@[simp] theorem withG_matOps : (s.withG g).matOps = s.matOps := rfl
@[simp] theorem withG_maintOps : (s.withG g).maintOps = s.maintOps := rfl
@[simp] theorem withG_flagOps : (s.withG g).flagOps = s.flagOps := rfl
@[simp] theorem withG_ecalls : (s.withG g).ecalls = s.ecalls := rfl
@[simp] theorem withG_toks : (s.withG g).toks = s.toks := rfl
@[simp] theorem withG_kept : (s.withG g).kept = s.kept := rfl
@[simp] theorem withG_channels : (s.withG g).channels = s.channels := rfl
@[simp] theorem withG_sends : (s.withG g).sends = s.sends := rfl
@[simp] theorem withG_wcb : (s.withG g).wcb = s.wcb := rfl
@[simp] theorem withG_sendLog : (s.withG g).sendLog = s.sendLog := rfl
@[simp] theorem withG_slogDrop : (s.withG g).slogDrop = s.slogDrop := rfl
@[simp] theorem withG_recvs : (s.withG g).recvs = s.recvs := rfl
@[simp] theorem withG_owners : (s.withG g).owners = s.owners := rfl
@[simp] theorem withG_ranges : (s.withG g).ranges = s.ranges := rfl
@[simp] theorem withG_protLog : (s.withG g).protLog = s.protLog := rfl
@[simp] theorem withG_remotes : (s.withG g).remotes = s.remotes := rfl
@[simp] theorem withG_barWaits : (s.withG g).barWaits = s.barWaits := rfl
@[simp] theorem withG_ports : (s.withG g).ports = s.ports := rfl
@[simp] theorem withG_pathHold : (s.withG g).pathHold = s.pathHold := rfl
@[simp] theorem withG_pathWait : (s.withG g).pathWait = s.pathWait := rfl
@[simp] theorem withG_lineLast : (s.withG g).lineLast = s.lineLast := rfl
@[simp] theorem withG_cxlDown : (s.withG g).cxlDown = s.cxlDown := rfl
@[simp] theorem withG_endpoint : (s.withG g).endpoint = s.endpoint := rfl
@[simp] theorem withG_timeMaster : (s.withG g).timeMaster = s.timeMaster := rfl
@[simp] theorem withG_lastBeacon : (s.withG g).lastBeacon = s.lastBeacon := rfl
@[simp] theorem withG_beaconSince : (s.withG g).beaconSince = s.beaconSince := rfl
@[simp] theorem withG_slewed : (s.withG g).slewed = s.slewed := rfl
@[simp] theorem withG_synced : (s.withG g).synced = s.synced := rfl
@[simp] theorem withG_fabCtl : (s.withG g).fabCtl = s.fabCtl := rfl
@[simp] theorem withG_parts : (s.withG g).parts = s.parts := rfl
@[simp] theorem withG_reserved : (s.withG g).reserved = s.reserved := rfl
@[simp] theorem withG_tlbiLo : (s.withG g).tlbiLo = s.tlbiLo := rfl
@[simp] theorem withG_tlbiHi : (s.withG g).tlbiHi = s.tlbiHi := rfl
@[simp] theorem withG_tlbiLen : (s.withG g).tlbiLen = s.tlbiLen := rfl
@[simp] theorem withG_tlbiCtl : (s.withG g).tlbiCtl = s.tlbiCtl := rfl
@[simp] theorem withG_migrate : (s.withG g).migrate = s.migrate := rfl
@[simp] theorem withG_errs : (s.withG g).errs = s.errs := rfl
@[simp] theorem withG_devFaults : (s.withG g).devFaults = s.devFaults := rfl
@[simp] theorem withG_devRead : (s.withG g).devRead = s.devRead := rfl
@[simp] theorem withG_devRegs : (s.withG g).devRegs = s.devRegs := rfl
@[simp] theorem withG_mbx : (s.withG g).mbx = s.mbx := rfl
@[simp] theorem withG_thermal : (s.withG g).thermal = s.thermal := rfl
@[simp] theorem withG_wear : (s.withG g).wear = s.wear := rfl
@[simp] theorem withG_wearFlushed : (s.withG g).wearFlushed = s.wearFlushed := rfl
@[simp] theorem withG_boot : (s.withG g).boot = s.boot := rfl
@[simp] theorem withG_flash : (s.withG g).flash = s.flash := rfl
@[simp] theorem withG_ident : (s.withG g).ident = s.ident := rfl
@[simp] theorem withG_gidNext : (s.withG g).gidNext = s.gidNext := rfl
@[simp] theorem withG_engNext : (s.withG g).engNext = s.engNext := rfl
@[simp] theorem withG_serial : (s.withG g).serial = s.serial := rfl
@[simp] theorem withG_ridNext : (s.withG g).ridNext = s.ridNext := rfl
@[simp] theorem withG_batchNext : (s.withG g).batchNext = s.batchNext := rfl
@[simp] theorem withG_out : (s.withG g).out = s.out := rfl
@[simp] theorem withG_agenda : (s.withG g).agenda = s.agenda := rfl
@[simp] theorem withG_freeCtr : (s.withG g).freeCtr = s.freeCtr := rfl
theorem withG_self : s.withG s.g = s := rfl
@[simp] theorem withG_withG (h : Group) : (s.withG g).withG h = s.withG h := rfl
theorem withG_eq : { s with g := g } = s.withG g := rfl
end

section
variable (s : State) (a : Nat) (c : Ctx)
@[simp] theorem setCtx_g : (s.setCtx a c).g = s.g := rfl
@[simp] theorem setCtx_others : (s.setCtx a c).others = s.others := rfl
@[simp] theorem setCtx_now : (s.setCtx a c).now = s.now := rfl
@[simp] theorem setCtx_clocks : (s.setCtx a c).clocks = s.clocks := rfl
@[simp] theorem setCtx_mem : (s.setCtx a c).mem = s.mem := rfl
@[simp] theorem setCtx_poison : (s.setCtx a c).poison = s.poison := rfl
@[simp] theorem setCtx_acc : (s.setCtx a c).acc = s.acc := rfl
@[simp] theorem setCtx_accPoison : (s.setCtx a c).accPoison = s.accPoison := rfl
@[simp] theorem setCtx_hier : (s.setCtx a c).hier = s.hier := rfl
@[simp] theorem setCtx_seqLog : (s.setCtx a c).seqLog = s.seqLog := rfl
@[simp] theorem setCtx_seqNum : (s.setCtx a c).seqNum = s.seqNum := rfl
@[simp] theorem setCtx_records : (s.setCtx a c).records = s.records := rfl
@[simp] theorem setCtx_departed : (s.setCtx a c).departed = s.departed := rfl
@[simp] theorem setCtx_accepted : (s.setCtx a c).accepted = s.accepted := rfl
@[simp] theorem setCtx_blocks : (s.setCtx a c).blocks = s.blocks := rfl
@[simp] theorem setCtx_launches : (s.setCtx a c).launches = s.launches := rfl
@[simp] theorem setCtx_queues : (s.setCtx a c).queues = s.queues := rfl
@[simp] theorem setCtx_batches : (s.setCtx a c).batches = s.batches := rfl
@[simp] theorem setCtx_engOps : (s.setCtx a c).engOps = s.engOps := rfl
@[simp] theorem setCtx_apStarts : (s.setCtx a c).apStarts = s.apStarts := rfl
@[simp] theorem setCtx_apStores : (s.setCtx a c).apStores = s.apStores := rfl
@[simp] theorem setCtx_matOps : (s.setCtx a c).matOps = s.matOps := rfl
@[simp] theorem setCtx_maintOps : (s.setCtx a c).maintOps = s.maintOps := rfl
@[simp] theorem setCtx_flagOps : (s.setCtx a c).flagOps = s.flagOps := rfl
@[simp] theorem setCtx_ecalls : (s.setCtx a c).ecalls = s.ecalls := rfl
@[simp] theorem setCtx_toks : (s.setCtx a c).toks = s.toks := rfl
@[simp] theorem setCtx_kept : (s.setCtx a c).kept = s.kept := rfl
@[simp] theorem setCtx_channels : (s.setCtx a c).channels = s.channels := rfl
@[simp] theorem setCtx_sends : (s.setCtx a c).sends = s.sends := rfl
@[simp] theorem setCtx_wcb : (s.setCtx a c).wcb = s.wcb := rfl
@[simp] theorem setCtx_sendLog : (s.setCtx a c).sendLog = s.sendLog := rfl
@[simp] theorem setCtx_slogDrop : (s.setCtx a c).slogDrop = s.slogDrop := rfl
@[simp] theorem setCtx_recvs : (s.setCtx a c).recvs = s.recvs := rfl
@[simp] theorem setCtx_owners : (s.setCtx a c).owners = s.owners := rfl
@[simp] theorem setCtx_ranges : (s.setCtx a c).ranges = s.ranges := rfl
@[simp] theorem setCtx_protLog : (s.setCtx a c).protLog = s.protLog := rfl
@[simp] theorem setCtx_remotes : (s.setCtx a c).remotes = s.remotes := rfl
@[simp] theorem setCtx_barWaits : (s.setCtx a c).barWaits = s.barWaits := rfl
@[simp] theorem setCtx_ports : (s.setCtx a c).ports = s.ports := rfl
@[simp] theorem setCtx_pathHold : (s.setCtx a c).pathHold = s.pathHold := rfl
@[simp] theorem setCtx_pathWait : (s.setCtx a c).pathWait = s.pathWait := rfl
@[simp] theorem setCtx_lineLast : (s.setCtx a c).lineLast = s.lineLast := rfl
@[simp] theorem setCtx_cxlDown : (s.setCtx a c).cxlDown = s.cxlDown := rfl
@[simp] theorem setCtx_endpoint : (s.setCtx a c).endpoint = s.endpoint := rfl
@[simp] theorem setCtx_timeMaster : (s.setCtx a c).timeMaster = s.timeMaster := rfl
@[simp] theorem setCtx_lastBeacon : (s.setCtx a c).lastBeacon = s.lastBeacon := rfl
@[simp] theorem setCtx_beaconSince : (s.setCtx a c).beaconSince = s.beaconSince := rfl
@[simp] theorem setCtx_slewed : (s.setCtx a c).slewed = s.slewed := rfl
@[simp] theorem setCtx_synced : (s.setCtx a c).synced = s.synced := rfl
@[simp] theorem setCtx_fabCtl : (s.setCtx a c).fabCtl = s.fabCtl := rfl
@[simp] theorem setCtx_parts : (s.setCtx a c).parts = s.parts := rfl
@[simp] theorem setCtx_reserved : (s.setCtx a c).reserved = s.reserved := rfl
@[simp] theorem setCtx_tlbiLo : (s.setCtx a c).tlbiLo = s.tlbiLo := rfl
@[simp] theorem setCtx_tlbiHi : (s.setCtx a c).tlbiHi = s.tlbiHi := rfl
@[simp] theorem setCtx_tlbiLen : (s.setCtx a c).tlbiLen = s.tlbiLen := rfl
@[simp] theorem setCtx_tlbiCtl : (s.setCtx a c).tlbiCtl = s.tlbiCtl := rfl
@[simp] theorem setCtx_migrate : (s.setCtx a c).migrate = s.migrate := rfl
@[simp] theorem setCtx_errs : (s.setCtx a c).errs = s.errs := rfl
@[simp] theorem setCtx_devFaults : (s.setCtx a c).devFaults = s.devFaults := rfl
@[simp] theorem setCtx_devRead : (s.setCtx a c).devRead = s.devRead := rfl
@[simp] theorem setCtx_devRegs : (s.setCtx a c).devRegs = s.devRegs := rfl
@[simp] theorem setCtx_mbx : (s.setCtx a c).mbx = s.mbx := rfl
@[simp] theorem setCtx_thermal : (s.setCtx a c).thermal = s.thermal := rfl
@[simp] theorem setCtx_wear : (s.setCtx a c).wear = s.wear := rfl
@[simp] theorem setCtx_wearFlushed : (s.setCtx a c).wearFlushed = s.wearFlushed := rfl
@[simp] theorem setCtx_boot : (s.setCtx a c).boot = s.boot := rfl
@[simp] theorem setCtx_flash : (s.setCtx a c).flash = s.flash := rfl
@[simp] theorem setCtx_ident : (s.setCtx a c).ident = s.ident := rfl
@[simp] theorem setCtx_gidNext : (s.setCtx a c).gidNext = s.gidNext := rfl
@[simp] theorem setCtx_engNext : (s.setCtx a c).engNext = s.engNext := rfl
@[simp] theorem setCtx_serial : (s.setCtx a c).serial = s.serial := rfl
@[simp] theorem setCtx_ridNext : (s.setCtx a c).ridNext = s.ridNext := rfl
@[simp] theorem setCtx_batchNext : (s.setCtx a c).batchNext = s.batchNext := rfl
@[simp] theorem setCtx_out : (s.setCtx a c).out = s.out := rfl
@[simp] theorem setCtx_agenda : (s.setCtx a c).agenda = s.agenda := rfl
@[simp] theorem setCtx_freeCtr : (s.setCtx a c).freeCtr = s.freeCtr := rfl
end

section
variable (s : State) (o : Out)
@[simp] theorem emit_g : (s.emit o).g = s.g := rfl
@[simp] theorem emit_others : (s.emit o).others = s.others := rfl
@[simp] theorem emit_now : (s.emit o).now = s.now := rfl
@[simp] theorem emit_clocks : (s.emit o).clocks = s.clocks := rfl
@[simp] theorem emit_mem : (s.emit o).mem = s.mem := rfl
@[simp] theorem emit_poison : (s.emit o).poison = s.poison := rfl
@[simp] theorem emit_acc : (s.emit o).acc = s.acc := rfl
@[simp] theorem emit_accPoison : (s.emit o).accPoison = s.accPoison := rfl
@[simp] theorem emit_hier : (s.emit o).hier = s.hier := rfl
@[simp] theorem emit_seqLog : (s.emit o).seqLog = s.seqLog := rfl
@[simp] theorem emit_seqNum : (s.emit o).seqNum = s.seqNum := rfl
@[simp] theorem emit_records : (s.emit o).records = s.records := rfl
@[simp] theorem emit_departed : (s.emit o).departed = s.departed := rfl
@[simp] theorem emit_accepted : (s.emit o).accepted = s.accepted := rfl
@[simp] theorem emit_blocks : (s.emit o).blocks = s.blocks := rfl
@[simp] theorem emit_launches : (s.emit o).launches = s.launches := rfl
@[simp] theorem emit_queues : (s.emit o).queues = s.queues := rfl
@[simp] theorem emit_ctxs : (s.emit o).ctxs = s.ctxs := rfl
@[simp] theorem emit_batches : (s.emit o).batches = s.batches := rfl
@[simp] theorem emit_engOps : (s.emit o).engOps = s.engOps := rfl
@[simp] theorem emit_apStarts : (s.emit o).apStarts = s.apStarts := rfl
@[simp] theorem emit_apStores : (s.emit o).apStores = s.apStores := rfl
@[simp] theorem emit_matOps : (s.emit o).matOps = s.matOps := rfl
@[simp] theorem emit_maintOps : (s.emit o).maintOps = s.maintOps := rfl
@[simp] theorem emit_flagOps : (s.emit o).flagOps = s.flagOps := rfl
@[simp] theorem emit_ecalls : (s.emit o).ecalls = s.ecalls := rfl
@[simp] theorem emit_toks : (s.emit o).toks = s.toks := rfl
@[simp] theorem emit_kept : (s.emit o).kept = s.kept := rfl
@[simp] theorem emit_channels : (s.emit o).channels = s.channels := rfl
@[simp] theorem emit_sends : (s.emit o).sends = s.sends := rfl
@[simp] theorem emit_wcb : (s.emit o).wcb = s.wcb := rfl
@[simp] theorem emit_sendLog : (s.emit o).sendLog = s.sendLog := rfl
@[simp] theorem emit_slogDrop : (s.emit o).slogDrop = s.slogDrop := rfl
@[simp] theorem emit_recvs : (s.emit o).recvs = s.recvs := rfl
@[simp] theorem emit_owners : (s.emit o).owners = s.owners := rfl
@[simp] theorem emit_ranges : (s.emit o).ranges = s.ranges := rfl
@[simp] theorem emit_protLog : (s.emit o).protLog = s.protLog := rfl
@[simp] theorem emit_remotes : (s.emit o).remotes = s.remotes := rfl
@[simp] theorem emit_barWaits : (s.emit o).barWaits = s.barWaits := rfl
@[simp] theorem emit_ports : (s.emit o).ports = s.ports := rfl
@[simp] theorem emit_pathHold : (s.emit o).pathHold = s.pathHold := rfl
@[simp] theorem emit_pathWait : (s.emit o).pathWait = s.pathWait := rfl
@[simp] theorem emit_lineLast : (s.emit o).lineLast = s.lineLast := rfl
@[simp] theorem emit_cxlDown : (s.emit o).cxlDown = s.cxlDown := rfl
@[simp] theorem emit_endpoint : (s.emit o).endpoint = s.endpoint := rfl
@[simp] theorem emit_timeMaster : (s.emit o).timeMaster = s.timeMaster := rfl
@[simp] theorem emit_lastBeacon : (s.emit o).lastBeacon = s.lastBeacon := rfl
@[simp] theorem emit_beaconSince : (s.emit o).beaconSince = s.beaconSince := rfl
@[simp] theorem emit_slewed : (s.emit o).slewed = s.slewed := rfl
@[simp] theorem emit_synced : (s.emit o).synced = s.synced := rfl
@[simp] theorem emit_fabCtl : (s.emit o).fabCtl = s.fabCtl := rfl
@[simp] theorem emit_parts : (s.emit o).parts = s.parts := rfl
@[simp] theorem emit_reserved : (s.emit o).reserved = s.reserved := rfl
@[simp] theorem emit_tlbiLo : (s.emit o).tlbiLo = s.tlbiLo := rfl
@[simp] theorem emit_tlbiHi : (s.emit o).tlbiHi = s.tlbiHi := rfl
@[simp] theorem emit_tlbiLen : (s.emit o).tlbiLen = s.tlbiLen := rfl
@[simp] theorem emit_tlbiCtl : (s.emit o).tlbiCtl = s.tlbiCtl := rfl
@[simp] theorem emit_migrate : (s.emit o).migrate = s.migrate := rfl
@[simp] theorem emit_errs : (s.emit o).errs = s.errs := rfl
@[simp] theorem emit_devFaults : (s.emit o).devFaults = s.devFaults := rfl
@[simp] theorem emit_devRead : (s.emit o).devRead = s.devRead := rfl
@[simp] theorem emit_devRegs : (s.emit o).devRegs = s.devRegs := rfl
@[simp] theorem emit_mbx : (s.emit o).mbx = s.mbx := rfl
@[simp] theorem emit_thermal : (s.emit o).thermal = s.thermal := rfl
@[simp] theorem emit_wear : (s.emit o).wear = s.wear := rfl
@[simp] theorem emit_wearFlushed : (s.emit o).wearFlushed = s.wearFlushed := rfl
@[simp] theorem emit_boot : (s.emit o).boot = s.boot := rfl
@[simp] theorem emit_flash : (s.emit o).flash = s.flash := rfl
@[simp] theorem emit_ident : (s.emit o).ident = s.ident := rfl
@[simp] theorem emit_gidNext : (s.emit o).gidNext = s.gidNext := rfl
@[simp] theorem emit_engNext : (s.emit o).engNext = s.engNext := rfl
@[simp] theorem emit_serial : (s.emit o).serial = s.serial := rfl
@[simp] theorem emit_ridNext : (s.emit o).ridNext = s.ridNext := rfl
@[simp] theorem emit_batchNext : (s.emit o).batchNext = s.batchNext := rfl
@[simp] theorem emit_agenda : (s.emit o).agenda = s.agenda := rfl
@[simp] theorem emit_freeCtr : (s.emit o).freeCtr = s.freeCtr := rfl
end

section
variable (s : State) (a : Nat)
@[simp] theorem progress_g : (s.progress a).g = s.g := rfl
@[simp] theorem progress_others : (s.progress a).others = s.others := rfl
@[simp] theorem progress_now : (s.progress a).now = s.now := rfl
@[simp] theorem progress_clocks : (s.progress a).clocks = s.clocks := rfl
@[simp] theorem progress_mem : (s.progress a).mem = s.mem := rfl
@[simp] theorem progress_poison : (s.progress a).poison = s.poison := rfl
@[simp] theorem progress_acc : (s.progress a).acc = s.acc := rfl
@[simp] theorem progress_accPoison : (s.progress a).accPoison = s.accPoison := rfl
@[simp] theorem progress_hier : (s.progress a).hier = s.hier := rfl
@[simp] theorem progress_seqLog : (s.progress a).seqLog = s.seqLog := rfl
@[simp] theorem progress_seqNum : (s.progress a).seqNum = s.seqNum := rfl
@[simp] theorem progress_records : (s.progress a).records = s.records := rfl
@[simp] theorem progress_departed : (s.progress a).departed = s.departed := rfl
@[simp] theorem progress_accepted : (s.progress a).accepted = s.accepted := rfl
@[simp] theorem progress_blocks : (s.progress a).blocks = s.blocks := rfl
@[simp] theorem progress_launches : (s.progress a).launches = s.launches := rfl
@[simp] theorem progress_queues : (s.progress a).queues = s.queues := rfl
@[simp] theorem progress_ctxs : (s.progress a).ctxs = s.ctxs := rfl
@[simp] theorem progress_batches : (s.progress a).batches = s.batches := rfl
@[simp] theorem progress_engOps : (s.progress a).engOps = s.engOps := rfl
@[simp] theorem progress_apStarts : (s.progress a).apStarts = s.apStarts := rfl
@[simp] theorem progress_apStores : (s.progress a).apStores = s.apStores := rfl
@[simp] theorem progress_matOps : (s.progress a).matOps = s.matOps := rfl
@[simp] theorem progress_maintOps : (s.progress a).maintOps = s.maintOps := rfl
@[simp] theorem progress_flagOps : (s.progress a).flagOps = s.flagOps := rfl
@[simp] theorem progress_ecalls : (s.progress a).ecalls = s.ecalls := rfl
@[simp] theorem progress_toks : (s.progress a).toks = s.toks := rfl
@[simp] theorem progress_kept : (s.progress a).kept = s.kept := rfl
@[simp] theorem progress_channels : (s.progress a).channels = s.channels := rfl
@[simp] theorem progress_sends : (s.progress a).sends = s.sends := rfl
@[simp] theorem progress_wcb : (s.progress a).wcb = s.wcb := rfl
@[simp] theorem progress_sendLog : (s.progress a).sendLog = s.sendLog := rfl
@[simp] theorem progress_slogDrop : (s.progress a).slogDrop = s.slogDrop := rfl
@[simp] theorem progress_recvs : (s.progress a).recvs = s.recvs := rfl
@[simp] theorem progress_owners : (s.progress a).owners = s.owners := rfl
@[simp] theorem progress_ranges : (s.progress a).ranges = s.ranges := rfl
@[simp] theorem progress_protLog : (s.progress a).protLog = s.protLog := rfl
@[simp] theorem progress_remotes : (s.progress a).remotes = s.remotes := rfl
@[simp] theorem progress_barWaits : (s.progress a).barWaits = s.barWaits := rfl
@[simp] theorem progress_ports : (s.progress a).ports = s.ports := rfl
@[simp] theorem progress_pathHold : (s.progress a).pathHold = s.pathHold := rfl
@[simp] theorem progress_pathWait : (s.progress a).pathWait = s.pathWait := rfl
@[simp] theorem progress_lineLast : (s.progress a).lineLast = s.lineLast := rfl
@[simp] theorem progress_cxlDown : (s.progress a).cxlDown = s.cxlDown := rfl
@[simp] theorem progress_endpoint : (s.progress a).endpoint = s.endpoint := rfl
@[simp] theorem progress_timeMaster : (s.progress a).timeMaster = s.timeMaster := rfl
@[simp] theorem progress_lastBeacon : (s.progress a).lastBeacon = s.lastBeacon := rfl
@[simp] theorem progress_beaconSince : (s.progress a).beaconSince = s.beaconSince := rfl
@[simp] theorem progress_slewed : (s.progress a).slewed = s.slewed := rfl
@[simp] theorem progress_synced : (s.progress a).synced = s.synced := rfl
@[simp] theorem progress_fabCtl : (s.progress a).fabCtl = s.fabCtl := rfl
@[simp] theorem progress_reserved : (s.progress a).reserved = s.reserved := rfl
@[simp] theorem progress_tlbiLo : (s.progress a).tlbiLo = s.tlbiLo := rfl
@[simp] theorem progress_tlbiHi : (s.progress a).tlbiHi = s.tlbiHi := rfl
@[simp] theorem progress_tlbiLen : (s.progress a).tlbiLen = s.tlbiLen := rfl
@[simp] theorem progress_tlbiCtl : (s.progress a).tlbiCtl = s.tlbiCtl := rfl
@[simp] theorem progress_migrate : (s.progress a).migrate = s.migrate := rfl
@[simp] theorem progress_errs : (s.progress a).errs = s.errs := rfl
@[simp] theorem progress_devFaults : (s.progress a).devFaults = s.devFaults := rfl
@[simp] theorem progress_devRead : (s.progress a).devRead = s.devRead := rfl
@[simp] theorem progress_devRegs : (s.progress a).devRegs = s.devRegs := rfl
@[simp] theorem progress_mbx : (s.progress a).mbx = s.mbx := rfl
@[simp] theorem progress_thermal : (s.progress a).thermal = s.thermal := rfl
@[simp] theorem progress_wear : (s.progress a).wear = s.wear := rfl
@[simp] theorem progress_wearFlushed : (s.progress a).wearFlushed = s.wearFlushed := rfl
@[simp] theorem progress_boot : (s.progress a).boot = s.boot := rfl
@[simp] theorem progress_flash : (s.progress a).flash = s.flash := rfl
@[simp] theorem progress_ident : (s.progress a).ident = s.ident := rfl
@[simp] theorem progress_gidNext : (s.progress a).gidNext = s.gidNext := rfl
@[simp] theorem progress_engNext : (s.progress a).engNext = s.engNext := rfl
@[simp] theorem progress_serial : (s.progress a).serial = s.serial := rfl
@[simp] theorem progress_ridNext : (s.progress a).ridNext = s.ridNext := rfl
@[simp] theorem progress_batchNext : (s.progress a).batchNext = s.batchNext := rfl
@[simp] theorem progress_out : (s.progress a).out = s.out := rfl
@[simp] theorem progress_agenda : (s.progress a).agenda = s.agenda := rfl
@[simp] theorem progress_freeCtr : (s.progress a).freeCtr = s.freeCtr := rfl
end

section
variable (s : State) (b : Block)
@[simp] theorem setBlock_g : (s.setBlock b).g = s.g := rfl
@[simp] theorem setBlock_others : (s.setBlock b).others = s.others := rfl
@[simp] theorem setBlock_now : (s.setBlock b).now = s.now := rfl
@[simp] theorem setBlock_clocks : (s.setBlock b).clocks = s.clocks := rfl
@[simp] theorem setBlock_mem : (s.setBlock b).mem = s.mem := rfl
@[simp] theorem setBlock_poison : (s.setBlock b).poison = s.poison := rfl
@[simp] theorem setBlock_acc : (s.setBlock b).acc = s.acc := rfl
@[simp] theorem setBlock_accPoison : (s.setBlock b).accPoison = s.accPoison := rfl
@[simp] theorem setBlock_hier : (s.setBlock b).hier = s.hier := rfl
@[simp] theorem setBlock_seqLog : (s.setBlock b).seqLog = s.seqLog := rfl
@[simp] theorem setBlock_seqNum : (s.setBlock b).seqNum = s.seqNum := rfl
@[simp] theorem setBlock_records : (s.setBlock b).records = s.records := rfl
@[simp] theorem setBlock_departed : (s.setBlock b).departed = s.departed := rfl
@[simp] theorem setBlock_accepted : (s.setBlock b).accepted = s.accepted := rfl
@[simp] theorem setBlock_launches : (s.setBlock b).launches = s.launches := rfl
@[simp] theorem setBlock_queues : (s.setBlock b).queues = s.queues := rfl
@[simp] theorem setBlock_ctxs : (s.setBlock b).ctxs = s.ctxs := rfl
@[simp] theorem setBlock_batches : (s.setBlock b).batches = s.batches := rfl
@[simp] theorem setBlock_engOps : (s.setBlock b).engOps = s.engOps := rfl
@[simp] theorem setBlock_apStarts : (s.setBlock b).apStarts = s.apStarts := rfl
@[simp] theorem setBlock_apStores : (s.setBlock b).apStores = s.apStores := rfl
@[simp] theorem setBlock_matOps : (s.setBlock b).matOps = s.matOps := rfl
@[simp] theorem setBlock_maintOps : (s.setBlock b).maintOps = s.maintOps := rfl
@[simp] theorem setBlock_flagOps : (s.setBlock b).flagOps = s.flagOps := rfl
@[simp] theorem setBlock_ecalls : (s.setBlock b).ecalls = s.ecalls := rfl
@[simp] theorem setBlock_toks : (s.setBlock b).toks = s.toks := rfl
@[simp] theorem setBlock_kept : (s.setBlock b).kept = s.kept := rfl
@[simp] theorem setBlock_channels : (s.setBlock b).channels = s.channels := rfl
@[simp] theorem setBlock_sends : (s.setBlock b).sends = s.sends := rfl
@[simp] theorem setBlock_wcb : (s.setBlock b).wcb = s.wcb := rfl
@[simp] theorem setBlock_sendLog : (s.setBlock b).sendLog = s.sendLog := rfl
@[simp] theorem setBlock_slogDrop : (s.setBlock b).slogDrop = s.slogDrop := rfl
@[simp] theorem setBlock_recvs : (s.setBlock b).recvs = s.recvs := rfl
@[simp] theorem setBlock_owners : (s.setBlock b).owners = s.owners := rfl
@[simp] theorem setBlock_ranges : (s.setBlock b).ranges = s.ranges := rfl
@[simp] theorem setBlock_protLog : (s.setBlock b).protLog = s.protLog := rfl
@[simp] theorem setBlock_remotes : (s.setBlock b).remotes = s.remotes := rfl
@[simp] theorem setBlock_barWaits : (s.setBlock b).barWaits = s.barWaits := rfl
@[simp] theorem setBlock_ports : (s.setBlock b).ports = s.ports := rfl
@[simp] theorem setBlock_pathHold : (s.setBlock b).pathHold = s.pathHold := rfl
@[simp] theorem setBlock_pathWait : (s.setBlock b).pathWait = s.pathWait := rfl
@[simp] theorem setBlock_lineLast : (s.setBlock b).lineLast = s.lineLast := rfl
@[simp] theorem setBlock_cxlDown : (s.setBlock b).cxlDown = s.cxlDown := rfl
@[simp] theorem setBlock_endpoint : (s.setBlock b).endpoint = s.endpoint := rfl
@[simp] theorem setBlock_timeMaster : (s.setBlock b).timeMaster = s.timeMaster := rfl
@[simp] theorem setBlock_lastBeacon : (s.setBlock b).lastBeacon = s.lastBeacon := rfl
@[simp] theorem setBlock_beaconSince : (s.setBlock b).beaconSince = s.beaconSince := rfl
@[simp] theorem setBlock_slewed : (s.setBlock b).slewed = s.slewed := rfl
@[simp] theorem setBlock_synced : (s.setBlock b).synced = s.synced := rfl
@[simp] theorem setBlock_fabCtl : (s.setBlock b).fabCtl = s.fabCtl := rfl
@[simp] theorem setBlock_parts : (s.setBlock b).parts = s.parts := rfl
@[simp] theorem setBlock_reserved : (s.setBlock b).reserved = s.reserved := rfl
@[simp] theorem setBlock_tlbiLo : (s.setBlock b).tlbiLo = s.tlbiLo := rfl
@[simp] theorem setBlock_tlbiHi : (s.setBlock b).tlbiHi = s.tlbiHi := rfl
@[simp] theorem setBlock_tlbiLen : (s.setBlock b).tlbiLen = s.tlbiLen := rfl
@[simp] theorem setBlock_tlbiCtl : (s.setBlock b).tlbiCtl = s.tlbiCtl := rfl
@[simp] theorem setBlock_migrate : (s.setBlock b).migrate = s.migrate := rfl
@[simp] theorem setBlock_errs : (s.setBlock b).errs = s.errs := rfl
@[simp] theorem setBlock_devFaults : (s.setBlock b).devFaults = s.devFaults := rfl
@[simp] theorem setBlock_devRead : (s.setBlock b).devRead = s.devRead := rfl
@[simp] theorem setBlock_devRegs : (s.setBlock b).devRegs = s.devRegs := rfl
@[simp] theorem setBlock_mbx : (s.setBlock b).mbx = s.mbx := rfl
@[simp] theorem setBlock_thermal : (s.setBlock b).thermal = s.thermal := rfl
@[simp] theorem setBlock_wear : (s.setBlock b).wear = s.wear := rfl
@[simp] theorem setBlock_wearFlushed : (s.setBlock b).wearFlushed = s.wearFlushed := rfl
@[simp] theorem setBlock_boot : (s.setBlock b).boot = s.boot := rfl
@[simp] theorem setBlock_flash : (s.setBlock b).flash = s.flash := rfl
@[simp] theorem setBlock_ident : (s.setBlock b).ident = s.ident := rfl
@[simp] theorem setBlock_gidNext : (s.setBlock b).gidNext = s.gidNext := rfl
@[simp] theorem setBlock_engNext : (s.setBlock b).engNext = s.engNext := rfl
@[simp] theorem setBlock_serial : (s.setBlock b).serial = s.serial := rfl
@[simp] theorem setBlock_ridNext : (s.setBlock b).ridNext = s.ridNext := rfl
@[simp] theorem setBlock_batchNext : (s.setBlock b).batchNext = s.batchNext := rfl
@[simp] theorem setBlock_out : (s.setBlock b).out = s.out := rfl
@[simp] theorem setBlock_agenda : (s.setBlock b).agenda = s.agenda := rfl
@[simp] theorem setBlock_freeCtr : (s.setBlock b).freeCtr = s.freeCtr := rfl
end

section
variable (s : State) (f : Group → Group)
@[simp] theorem mapGroups_now : (s.mapGroups f).now = s.now := rfl
@[simp] theorem mapGroups_clocks : (s.mapGroups f).clocks = s.clocks := rfl
@[simp] theorem mapGroups_mem : (s.mapGroups f).mem = s.mem := rfl
@[simp] theorem mapGroups_poison : (s.mapGroups f).poison = s.poison := rfl
@[simp] theorem mapGroups_acc : (s.mapGroups f).acc = s.acc := rfl
@[simp] theorem mapGroups_accPoison : (s.mapGroups f).accPoison = s.accPoison := rfl
@[simp] theorem mapGroups_hier : (s.mapGroups f).hier = s.hier := rfl
@[simp] theorem mapGroups_seqLog : (s.mapGroups f).seqLog = s.seqLog := rfl
@[simp] theorem mapGroups_seqNum : (s.mapGroups f).seqNum = s.seqNum := rfl
@[simp] theorem mapGroups_records : (s.mapGroups f).records = s.records := rfl
@[simp] theorem mapGroups_departed : (s.mapGroups f).departed = s.departed := rfl
@[simp] theorem mapGroups_accepted : (s.mapGroups f).accepted = s.accepted := rfl
@[simp] theorem mapGroups_blocks : (s.mapGroups f).blocks = s.blocks := rfl
@[simp] theorem mapGroups_launches : (s.mapGroups f).launches = s.launches := rfl
@[simp] theorem mapGroups_queues : (s.mapGroups f).queues = s.queues := rfl
@[simp] theorem mapGroups_ctxs : (s.mapGroups f).ctxs = s.ctxs := rfl
@[simp] theorem mapGroups_batches : (s.mapGroups f).batches = s.batches := rfl
@[simp] theorem mapGroups_engOps : (s.mapGroups f).engOps = s.engOps := rfl
@[simp] theorem mapGroups_apStarts : (s.mapGroups f).apStarts = s.apStarts := rfl
@[simp] theorem mapGroups_apStores : (s.mapGroups f).apStores = s.apStores := rfl
@[simp] theorem mapGroups_matOps : (s.mapGroups f).matOps = s.matOps := rfl
@[simp] theorem mapGroups_maintOps : (s.mapGroups f).maintOps = s.maintOps := rfl
@[simp] theorem mapGroups_flagOps : (s.mapGroups f).flagOps = s.flagOps := rfl
@[simp] theorem mapGroups_ecalls : (s.mapGroups f).ecalls = s.ecalls := rfl
@[simp] theorem mapGroups_toks : (s.mapGroups f).toks = s.toks := rfl
@[simp] theorem mapGroups_kept : (s.mapGroups f).kept = s.kept := rfl
@[simp] theorem mapGroups_channels : (s.mapGroups f).channels = s.channels := rfl
@[simp] theorem mapGroups_sends : (s.mapGroups f).sends = s.sends := rfl
@[simp] theorem mapGroups_wcb : (s.mapGroups f).wcb = s.wcb := rfl
@[simp] theorem mapGroups_sendLog : (s.mapGroups f).sendLog = s.sendLog := rfl
@[simp] theorem mapGroups_slogDrop : (s.mapGroups f).slogDrop = s.slogDrop := rfl
@[simp] theorem mapGroups_recvs : (s.mapGroups f).recvs = s.recvs := rfl
@[simp] theorem mapGroups_owners : (s.mapGroups f).owners = s.owners := rfl
@[simp] theorem mapGroups_ranges : (s.mapGroups f).ranges = s.ranges := rfl
@[simp] theorem mapGroups_protLog : (s.mapGroups f).protLog = s.protLog := rfl
@[simp] theorem mapGroups_remotes : (s.mapGroups f).remotes = s.remotes := rfl
@[simp] theorem mapGroups_barWaits : (s.mapGroups f).barWaits = s.barWaits := rfl
@[simp] theorem mapGroups_ports : (s.mapGroups f).ports = s.ports := rfl
@[simp] theorem mapGroups_pathHold : (s.mapGroups f).pathHold = s.pathHold := rfl
@[simp] theorem mapGroups_pathWait : (s.mapGroups f).pathWait = s.pathWait := rfl
@[simp] theorem mapGroups_lineLast : (s.mapGroups f).lineLast = s.lineLast := rfl
@[simp] theorem mapGroups_cxlDown : (s.mapGroups f).cxlDown = s.cxlDown := rfl
@[simp] theorem mapGroups_endpoint : (s.mapGroups f).endpoint = s.endpoint := rfl
@[simp] theorem mapGroups_timeMaster : (s.mapGroups f).timeMaster = s.timeMaster := rfl
@[simp] theorem mapGroups_lastBeacon : (s.mapGroups f).lastBeacon = s.lastBeacon := rfl
@[simp] theorem mapGroups_beaconSince : (s.mapGroups f).beaconSince = s.beaconSince := rfl
@[simp] theorem mapGroups_slewed : (s.mapGroups f).slewed = s.slewed := rfl
@[simp] theorem mapGroups_synced : (s.mapGroups f).synced = s.synced := rfl
@[simp] theorem mapGroups_fabCtl : (s.mapGroups f).fabCtl = s.fabCtl := rfl
@[simp] theorem mapGroups_parts : (s.mapGroups f).parts = s.parts := rfl
@[simp] theorem mapGroups_reserved : (s.mapGroups f).reserved = s.reserved := rfl
@[simp] theorem mapGroups_tlbiLo : (s.mapGroups f).tlbiLo = s.tlbiLo := rfl
@[simp] theorem mapGroups_tlbiHi : (s.mapGroups f).tlbiHi = s.tlbiHi := rfl
@[simp] theorem mapGroups_tlbiLen : (s.mapGroups f).tlbiLen = s.tlbiLen := rfl
@[simp] theorem mapGroups_tlbiCtl : (s.mapGroups f).tlbiCtl = s.tlbiCtl := rfl
@[simp] theorem mapGroups_migrate : (s.mapGroups f).migrate = s.migrate := rfl
@[simp] theorem mapGroups_errs : (s.mapGroups f).errs = s.errs := rfl
@[simp] theorem mapGroups_devFaults : (s.mapGroups f).devFaults = s.devFaults := rfl
@[simp] theorem mapGroups_devRead : (s.mapGroups f).devRead = s.devRead := rfl
@[simp] theorem mapGroups_devRegs : (s.mapGroups f).devRegs = s.devRegs := rfl
@[simp] theorem mapGroups_mbx : (s.mapGroups f).mbx = s.mbx := rfl
@[simp] theorem mapGroups_thermal : (s.mapGroups f).thermal = s.thermal := rfl
@[simp] theorem mapGroups_wear : (s.mapGroups f).wear = s.wear := rfl
@[simp] theorem mapGroups_wearFlushed : (s.mapGroups f).wearFlushed = s.wearFlushed := rfl
@[simp] theorem mapGroups_boot : (s.mapGroups f).boot = s.boot := rfl
@[simp] theorem mapGroups_flash : (s.mapGroups f).flash = s.flash := rfl
@[simp] theorem mapGroups_ident : (s.mapGroups f).ident = s.ident := rfl
@[simp] theorem mapGroups_gidNext : (s.mapGroups f).gidNext = s.gidNext := rfl
@[simp] theorem mapGroups_engNext : (s.mapGroups f).engNext = s.engNext := rfl
@[simp] theorem mapGroups_serial : (s.mapGroups f).serial = s.serial := rfl
@[simp] theorem mapGroups_ridNext : (s.mapGroups f).ridNext = s.ridNext := rfl
@[simp] theorem mapGroups_batchNext : (s.mapGroups f).batchNext = s.batchNext := rfl
@[simp] theorem mapGroups_out : (s.mapGroups f).out = s.out := rfl
@[simp] theorem mapGroups_agenda : (s.mapGroups f).agenda = s.agenda := rfl
@[simp] theorem mapGroups_freeCtr : (s.mapGroups f).freeCtr = s.freeCtr := rfl
end

section
variable (s : State)
@[simp] theorem retire_others : (s.retire).others = s.others := rfl
@[simp] theorem retire_now : (s.retire).now = s.now := rfl
@[simp] theorem retire_clocks : (s.retire).clocks = s.clocks := rfl
@[simp] theorem retire_mem : (s.retire).mem = s.mem := rfl
@[simp] theorem retire_poison : (s.retire).poison = s.poison := rfl
@[simp] theorem retire_acc : (s.retire).acc = s.acc := rfl
@[simp] theorem retire_accPoison : (s.retire).accPoison = s.accPoison := rfl
@[simp] theorem retire_hier : (s.retire).hier = s.hier := rfl
@[simp] theorem retire_seqLog : (s.retire).seqLog = s.seqLog := rfl
@[simp] theorem retire_seqNum : (s.retire).seqNum = s.seqNum := rfl
@[simp] theorem retire_records : (s.retire).records = s.records := rfl
@[simp] theorem retire_departed : (s.retire).departed = s.departed := rfl
@[simp] theorem retire_accepted : (s.retire).accepted = s.accepted := rfl
@[simp] theorem retire_blocks : (s.retire).blocks = s.blocks := rfl
@[simp] theorem retire_launches : (s.retire).launches = s.launches := rfl
@[simp] theorem retire_queues : (s.retire).queues = s.queues := rfl
@[simp] theorem retire_ctxs : (s.retire).ctxs = s.ctxs := rfl
@[simp] theorem retire_batches : (s.retire).batches = s.batches := rfl
@[simp] theorem retire_engOps : (s.retire).engOps = s.engOps := rfl
@[simp] theorem retire_apStarts : (s.retire).apStarts = s.apStarts := rfl
@[simp] theorem retire_apStores : (s.retire).apStores = s.apStores := rfl
@[simp] theorem retire_matOps : (s.retire).matOps = s.matOps := rfl
@[simp] theorem retire_maintOps : (s.retire).maintOps = s.maintOps := rfl
@[simp] theorem retire_flagOps : (s.retire).flagOps = s.flagOps := rfl
@[simp] theorem retire_ecalls : (s.retire).ecalls = s.ecalls := rfl
@[simp] theorem retire_toks : (s.retire).toks = s.toks := rfl
@[simp] theorem retire_kept : (s.retire).kept = s.kept := rfl
@[simp] theorem retire_channels : (s.retire).channels = s.channels := rfl
@[simp] theorem retire_sends : (s.retire).sends = s.sends := rfl
@[simp] theorem retire_wcb : (s.retire).wcb = s.wcb := rfl
@[simp] theorem retire_sendLog : (s.retire).sendLog = s.sendLog := rfl
@[simp] theorem retire_slogDrop : (s.retire).slogDrop = s.slogDrop := rfl
@[simp] theorem retire_recvs : (s.retire).recvs = s.recvs := rfl
@[simp] theorem retire_owners : (s.retire).owners = s.owners := rfl
@[simp] theorem retire_ranges : (s.retire).ranges = s.ranges := rfl
@[simp] theorem retire_protLog : (s.retire).protLog = s.protLog := rfl
@[simp] theorem retire_barWaits : (s.retire).barWaits = s.barWaits := rfl
@[simp] theorem retire_ports : (s.retire).ports = s.ports := rfl
@[simp] theorem retire_pathHold : (s.retire).pathHold = s.pathHold := rfl
@[simp] theorem retire_pathWait : (s.retire).pathWait = s.pathWait := rfl
@[simp] theorem retire_lineLast : (s.retire).lineLast = s.lineLast := rfl
@[simp] theorem retire_cxlDown : (s.retire).cxlDown = s.cxlDown := rfl
@[simp] theorem retire_endpoint : (s.retire).endpoint = s.endpoint := rfl
@[simp] theorem retire_timeMaster : (s.retire).timeMaster = s.timeMaster := rfl
@[simp] theorem retire_lastBeacon : (s.retire).lastBeacon = s.lastBeacon := rfl
@[simp] theorem retire_beaconSince : (s.retire).beaconSince = s.beaconSince := rfl
@[simp] theorem retire_slewed : (s.retire).slewed = s.slewed := rfl
@[simp] theorem retire_synced : (s.retire).synced = s.synced := rfl
@[simp] theorem retire_fabCtl : (s.retire).fabCtl = s.fabCtl := rfl
@[simp] theorem retire_reserved : (s.retire).reserved = s.reserved := rfl
@[simp] theorem retire_tlbiLo : (s.retire).tlbiLo = s.tlbiLo := rfl
@[simp] theorem retire_tlbiHi : (s.retire).tlbiHi = s.tlbiHi := rfl
@[simp] theorem retire_tlbiLen : (s.retire).tlbiLen = s.tlbiLen := rfl
@[simp] theorem retire_tlbiCtl : (s.retire).tlbiCtl = s.tlbiCtl := rfl
@[simp] theorem retire_migrate : (s.retire).migrate = s.migrate := rfl
@[simp] theorem retire_errs : (s.retire).errs = s.errs := rfl
@[simp] theorem retire_devFaults : (s.retire).devFaults = s.devFaults := rfl
@[simp] theorem retire_devRead : (s.retire).devRead = s.devRead := rfl
@[simp] theorem retire_devRegs : (s.retire).devRegs = s.devRegs := rfl
@[simp] theorem retire_mbx : (s.retire).mbx = s.mbx := rfl
@[simp] theorem retire_thermal : (s.retire).thermal = s.thermal := rfl
@[simp] theorem retire_wear : (s.retire).wear = s.wear := rfl
@[simp] theorem retire_wearFlushed : (s.retire).wearFlushed = s.wearFlushed := rfl
@[simp] theorem retire_boot : (s.retire).boot = s.boot := rfl
@[simp] theorem retire_flash : (s.retire).flash = s.flash := rfl
@[simp] theorem retire_ident : (s.retire).ident = s.ident := rfl
@[simp] theorem retire_gidNext : (s.retire).gidNext = s.gidNext := rfl
@[simp] theorem retire_engNext : (s.retire).engNext = s.engNext := rfl
@[simp] theorem retire_serial : (s.retire).serial = s.serial := rfl
@[simp] theorem retire_ridNext : (s.retire).ridNext = s.ridNext := rfl
@[simp] theorem retire_batchNext : (s.retire).batchNext = s.batchNext := rfl
@[simp] theorem retire_out : (s.retire).out = s.out := rfl
@[simp] theorem retire_agenda : (s.retire).agenda = s.agenda := rfl
@[simp] theorem retire_freeCtr : (s.retire).freeCtr = s.freeCtr := rfl
end

section
variable (s : State)
@[simp] theorem newSerial_g : (s.newSerial.2).g = s.g := rfl
@[simp] theorem newSerial_others : (s.newSerial.2).others = s.others := rfl
@[simp] theorem newSerial_now : (s.newSerial.2).now = s.now := rfl
@[simp] theorem newSerial_clocks : (s.newSerial.2).clocks = s.clocks := rfl
@[simp] theorem newSerial_mem : (s.newSerial.2).mem = s.mem := rfl
@[simp] theorem newSerial_poison : (s.newSerial.2).poison = s.poison := rfl
@[simp] theorem newSerial_acc : (s.newSerial.2).acc = s.acc := rfl
@[simp] theorem newSerial_accPoison : (s.newSerial.2).accPoison = s.accPoison := rfl
@[simp] theorem newSerial_hier : (s.newSerial.2).hier = s.hier := rfl
@[simp] theorem newSerial_seqLog : (s.newSerial.2).seqLog = s.seqLog := rfl
@[simp] theorem newSerial_seqNum : (s.newSerial.2).seqNum = s.seqNum := rfl
@[simp] theorem newSerial_records : (s.newSerial.2).records = s.records := rfl
@[simp] theorem newSerial_departed : (s.newSerial.2).departed = s.departed := rfl
@[simp] theorem newSerial_accepted : (s.newSerial.2).accepted = s.accepted := rfl
@[simp] theorem newSerial_blocks : (s.newSerial.2).blocks = s.blocks := rfl
@[simp] theorem newSerial_launches : (s.newSerial.2).launches = s.launches := rfl
@[simp] theorem newSerial_queues : (s.newSerial.2).queues = s.queues := rfl
@[simp] theorem newSerial_ctxs : (s.newSerial.2).ctxs = s.ctxs := rfl
@[simp] theorem newSerial_batches : (s.newSerial.2).batches = s.batches := rfl
@[simp] theorem newSerial_engOps : (s.newSerial.2).engOps = s.engOps := rfl
@[simp] theorem newSerial_apStarts : (s.newSerial.2).apStarts = s.apStarts := rfl
@[simp] theorem newSerial_apStores : (s.newSerial.2).apStores = s.apStores := rfl
@[simp] theorem newSerial_matOps : (s.newSerial.2).matOps = s.matOps := rfl
@[simp] theorem newSerial_maintOps : (s.newSerial.2).maintOps = s.maintOps := rfl
@[simp] theorem newSerial_flagOps : (s.newSerial.2).flagOps = s.flagOps := rfl
@[simp] theorem newSerial_ecalls : (s.newSerial.2).ecalls = s.ecalls := rfl
@[simp] theorem newSerial_toks : (s.newSerial.2).toks = s.toks := rfl
@[simp] theorem newSerial_kept : (s.newSerial.2).kept = s.kept := rfl
@[simp] theorem newSerial_channels : (s.newSerial.2).channels = s.channels := rfl
@[simp] theorem newSerial_sends : (s.newSerial.2).sends = s.sends := rfl
@[simp] theorem newSerial_wcb : (s.newSerial.2).wcb = s.wcb := rfl
@[simp] theorem newSerial_sendLog : (s.newSerial.2).sendLog = s.sendLog := rfl
@[simp] theorem newSerial_slogDrop : (s.newSerial.2).slogDrop = s.slogDrop := rfl
@[simp] theorem newSerial_recvs : (s.newSerial.2).recvs = s.recvs := rfl
@[simp] theorem newSerial_owners : (s.newSerial.2).owners = s.owners := rfl
@[simp] theorem newSerial_ranges : (s.newSerial.2).ranges = s.ranges := rfl
@[simp] theorem newSerial_protLog : (s.newSerial.2).protLog = s.protLog := rfl
@[simp] theorem newSerial_remotes : (s.newSerial.2).remotes = s.remotes := rfl
@[simp] theorem newSerial_barWaits : (s.newSerial.2).barWaits = s.barWaits := rfl
@[simp] theorem newSerial_ports : (s.newSerial.2).ports = s.ports := rfl
@[simp] theorem newSerial_pathHold : (s.newSerial.2).pathHold = s.pathHold := rfl
@[simp] theorem newSerial_pathWait : (s.newSerial.2).pathWait = s.pathWait := rfl
@[simp] theorem newSerial_lineLast : (s.newSerial.2).lineLast = s.lineLast := rfl
@[simp] theorem newSerial_cxlDown : (s.newSerial.2).cxlDown = s.cxlDown := rfl
@[simp] theorem newSerial_endpoint : (s.newSerial.2).endpoint = s.endpoint := rfl
@[simp] theorem newSerial_timeMaster : (s.newSerial.2).timeMaster = s.timeMaster := rfl
@[simp] theorem newSerial_lastBeacon : (s.newSerial.2).lastBeacon = s.lastBeacon := rfl
@[simp] theorem newSerial_beaconSince : (s.newSerial.2).beaconSince = s.beaconSince := rfl
@[simp] theorem newSerial_slewed : (s.newSerial.2).slewed = s.slewed := rfl
@[simp] theorem newSerial_synced : (s.newSerial.2).synced = s.synced := rfl
@[simp] theorem newSerial_fabCtl : (s.newSerial.2).fabCtl = s.fabCtl := rfl
@[simp] theorem newSerial_parts : (s.newSerial.2).parts = s.parts := rfl
@[simp] theorem newSerial_reserved : (s.newSerial.2).reserved = s.reserved := rfl
@[simp] theorem newSerial_tlbiLo : (s.newSerial.2).tlbiLo = s.tlbiLo := rfl
@[simp] theorem newSerial_tlbiHi : (s.newSerial.2).tlbiHi = s.tlbiHi := rfl
@[simp] theorem newSerial_tlbiLen : (s.newSerial.2).tlbiLen = s.tlbiLen := rfl
@[simp] theorem newSerial_tlbiCtl : (s.newSerial.2).tlbiCtl = s.tlbiCtl := rfl
@[simp] theorem newSerial_migrate : (s.newSerial.2).migrate = s.migrate := rfl
@[simp] theorem newSerial_errs : (s.newSerial.2).errs = s.errs := rfl
@[simp] theorem newSerial_devFaults : (s.newSerial.2).devFaults = s.devFaults := rfl
@[simp] theorem newSerial_devRead : (s.newSerial.2).devRead = s.devRead := rfl
@[simp] theorem newSerial_devRegs : (s.newSerial.2).devRegs = s.devRegs := rfl
@[simp] theorem newSerial_mbx : (s.newSerial.2).mbx = s.mbx := rfl
@[simp] theorem newSerial_thermal : (s.newSerial.2).thermal = s.thermal := rfl
@[simp] theorem newSerial_wear : (s.newSerial.2).wear = s.wear := rfl
@[simp] theorem newSerial_wearFlushed : (s.newSerial.2).wearFlushed = s.wearFlushed := rfl
@[simp] theorem newSerial_boot : (s.newSerial.2).boot = s.boot := rfl
@[simp] theorem newSerial_flash : (s.newSerial.2).flash = s.flash := rfl
@[simp] theorem newSerial_ident : (s.newSerial.2).ident = s.ident := rfl
@[simp] theorem newSerial_gidNext : (s.newSerial.2).gidNext = s.gidNext := rfl
@[simp] theorem newSerial_engNext : (s.newSerial.2).engNext = s.engNext := rfl
@[simp] theorem newSerial_ridNext : (s.newSerial.2).ridNext = s.ridNext := rfl
@[simp] theorem newSerial_batchNext : (s.newSerial.2).batchNext = s.batchNext := rfl
@[simp] theorem newSerial_out : (s.newSerial.2).out = s.out := rfl
@[simp] theorem newSerial_agenda : (s.newSerial.2).agenda = s.agenda := rfl
@[simp] theorem newSerial_freeCtr : (s.newSerial.2).freeCtr = s.freeCtr := rfl
end

section
variable (s : State)
@[simp] theorem free_g : (s.free.2).g = s.g := rfl
@[simp] theorem free_others : (s.free.2).others = s.others := rfl
@[simp] theorem free_now : (s.free.2).now = s.now := rfl
@[simp] theorem free_clocks : (s.free.2).clocks = s.clocks := rfl
@[simp] theorem free_mem : (s.free.2).mem = s.mem := rfl
@[simp] theorem free_poison : (s.free.2).poison = s.poison := rfl
@[simp] theorem free_acc : (s.free.2).acc = s.acc := rfl
@[simp] theorem free_accPoison : (s.free.2).accPoison = s.accPoison := rfl
@[simp] theorem free_hier : (s.free.2).hier = s.hier := rfl
@[simp] theorem free_seqLog : (s.free.2).seqLog = s.seqLog := rfl
@[simp] theorem free_seqNum : (s.free.2).seqNum = s.seqNum := rfl
@[simp] theorem free_records : (s.free.2).records = s.records := rfl
@[simp] theorem free_departed : (s.free.2).departed = s.departed := rfl
@[simp] theorem free_accepted : (s.free.2).accepted = s.accepted := rfl
@[simp] theorem free_blocks : (s.free.2).blocks = s.blocks := rfl
@[simp] theorem free_launches : (s.free.2).launches = s.launches := rfl
@[simp] theorem free_queues : (s.free.2).queues = s.queues := rfl
@[simp] theorem free_ctxs : (s.free.2).ctxs = s.ctxs := rfl
@[simp] theorem free_batches : (s.free.2).batches = s.batches := rfl
@[simp] theorem free_engOps : (s.free.2).engOps = s.engOps := rfl
@[simp] theorem free_apStarts : (s.free.2).apStarts = s.apStarts := rfl
@[simp] theorem free_apStores : (s.free.2).apStores = s.apStores := rfl
@[simp] theorem free_matOps : (s.free.2).matOps = s.matOps := rfl
@[simp] theorem free_maintOps : (s.free.2).maintOps = s.maintOps := rfl
@[simp] theorem free_flagOps : (s.free.2).flagOps = s.flagOps := rfl
@[simp] theorem free_ecalls : (s.free.2).ecalls = s.ecalls := rfl
@[simp] theorem free_toks : (s.free.2).toks = s.toks := rfl
@[simp] theorem free_kept : (s.free.2).kept = s.kept := rfl
@[simp] theorem free_channels : (s.free.2).channels = s.channels := rfl
@[simp] theorem free_sends : (s.free.2).sends = s.sends := rfl
@[simp] theorem free_wcb : (s.free.2).wcb = s.wcb := rfl
@[simp] theorem free_sendLog : (s.free.2).sendLog = s.sendLog := rfl
@[simp] theorem free_slogDrop : (s.free.2).slogDrop = s.slogDrop := rfl
@[simp] theorem free_recvs : (s.free.2).recvs = s.recvs := rfl
@[simp] theorem free_owners : (s.free.2).owners = s.owners := rfl
@[simp] theorem free_ranges : (s.free.2).ranges = s.ranges := rfl
@[simp] theorem free_protLog : (s.free.2).protLog = s.protLog := rfl
@[simp] theorem free_remotes : (s.free.2).remotes = s.remotes := rfl
@[simp] theorem free_barWaits : (s.free.2).barWaits = s.barWaits := rfl
@[simp] theorem free_ports : (s.free.2).ports = s.ports := rfl
@[simp] theorem free_pathHold : (s.free.2).pathHold = s.pathHold := rfl
@[simp] theorem free_pathWait : (s.free.2).pathWait = s.pathWait := rfl
@[simp] theorem free_lineLast : (s.free.2).lineLast = s.lineLast := rfl
@[simp] theorem free_cxlDown : (s.free.2).cxlDown = s.cxlDown := rfl
@[simp] theorem free_endpoint : (s.free.2).endpoint = s.endpoint := rfl
@[simp] theorem free_timeMaster : (s.free.2).timeMaster = s.timeMaster := rfl
@[simp] theorem free_lastBeacon : (s.free.2).lastBeacon = s.lastBeacon := rfl
@[simp] theorem free_beaconSince : (s.free.2).beaconSince = s.beaconSince := rfl
@[simp] theorem free_slewed : (s.free.2).slewed = s.slewed := rfl
@[simp] theorem free_synced : (s.free.2).synced = s.synced := rfl
@[simp] theorem free_fabCtl : (s.free.2).fabCtl = s.fabCtl := rfl
@[simp] theorem free_parts : (s.free.2).parts = s.parts := rfl
@[simp] theorem free_reserved : (s.free.2).reserved = s.reserved := rfl
@[simp] theorem free_tlbiLo : (s.free.2).tlbiLo = s.tlbiLo := rfl
@[simp] theorem free_tlbiHi : (s.free.2).tlbiHi = s.tlbiHi := rfl
@[simp] theorem free_tlbiLen : (s.free.2).tlbiLen = s.tlbiLen := rfl
@[simp] theorem free_tlbiCtl : (s.free.2).tlbiCtl = s.tlbiCtl := rfl
@[simp] theorem free_migrate : (s.free.2).migrate = s.migrate := rfl
@[simp] theorem free_errs : (s.free.2).errs = s.errs := rfl
@[simp] theorem free_devFaults : (s.free.2).devFaults = s.devFaults := rfl
@[simp] theorem free_devRead : (s.free.2).devRead = s.devRead := rfl
@[simp] theorem free_devRegs : (s.free.2).devRegs = s.devRegs := rfl
@[simp] theorem free_mbx : (s.free.2).mbx = s.mbx := rfl
@[simp] theorem free_thermal : (s.free.2).thermal = s.thermal := rfl
@[simp] theorem free_wear : (s.free.2).wear = s.wear := rfl
@[simp] theorem free_wearFlushed : (s.free.2).wearFlushed = s.wearFlushed := rfl
@[simp] theorem free_boot : (s.free.2).boot = s.boot := rfl
@[simp] theorem free_flash : (s.free.2).flash = s.flash := rfl
@[simp] theorem free_ident : (s.free.2).ident = s.ident := rfl
@[simp] theorem free_gidNext : (s.free.2).gidNext = s.gidNext := rfl
@[simp] theorem free_engNext : (s.free.2).engNext = s.engNext := rfl
@[simp] theorem free_serial : (s.free.2).serial = s.serial := rfl
@[simp] theorem free_ridNext : (s.free.2).ridNext = s.ridNext := rfl
@[simp] theorem free_batchNext : (s.free.2).batchNext = s.batchNext := rfl
@[simp] theorem free_out : (s.free.2).out = s.out := rfl
@[simp] theorem free_agenda : (s.free.2).agenda = s.agenda := rfl
end

section
variable (s : State) (k : StallKind)
@[simp] theorem stallOn_others : (s.stallOn k).others = s.others := rfl
@[simp] theorem stallOn_now : (s.stallOn k).now = s.now := rfl
@[simp] theorem stallOn_clocks : (s.stallOn k).clocks = s.clocks := rfl
@[simp] theorem stallOn_mem : (s.stallOn k).mem = s.mem := rfl
@[simp] theorem stallOn_poison : (s.stallOn k).poison = s.poison := rfl
@[simp] theorem stallOn_acc : (s.stallOn k).acc = s.acc := rfl
@[simp] theorem stallOn_accPoison : (s.stallOn k).accPoison = s.accPoison := rfl
@[simp] theorem stallOn_hier : (s.stallOn k).hier = s.hier := rfl
@[simp] theorem stallOn_seqLog : (s.stallOn k).seqLog = s.seqLog := rfl
@[simp] theorem stallOn_seqNum : (s.stallOn k).seqNum = s.seqNum := rfl
@[simp] theorem stallOn_records : (s.stallOn k).records = s.records := rfl
@[simp] theorem stallOn_departed : (s.stallOn k).departed = s.departed := rfl
@[simp] theorem stallOn_accepted : (s.stallOn k).accepted = s.accepted := rfl
@[simp] theorem stallOn_blocks : (s.stallOn k).blocks = s.blocks := rfl
@[simp] theorem stallOn_launches : (s.stallOn k).launches = s.launches := rfl
@[simp] theorem stallOn_queues : (s.stallOn k).queues = s.queues := rfl
@[simp] theorem stallOn_ctxs : (s.stallOn k).ctxs = s.ctxs := rfl
@[simp] theorem stallOn_batches : (s.stallOn k).batches = s.batches := rfl
@[simp] theorem stallOn_engOps : (s.stallOn k).engOps = s.engOps := rfl
@[simp] theorem stallOn_apStarts : (s.stallOn k).apStarts = s.apStarts := rfl
@[simp] theorem stallOn_apStores : (s.stallOn k).apStores = s.apStores := rfl
@[simp] theorem stallOn_matOps : (s.stallOn k).matOps = s.matOps := rfl
@[simp] theorem stallOn_maintOps : (s.stallOn k).maintOps = s.maintOps := rfl
@[simp] theorem stallOn_flagOps : (s.stallOn k).flagOps = s.flagOps := rfl
@[simp] theorem stallOn_ecalls : (s.stallOn k).ecalls = s.ecalls := rfl
@[simp] theorem stallOn_toks : (s.stallOn k).toks = s.toks := rfl
@[simp] theorem stallOn_kept : (s.stallOn k).kept = s.kept := rfl
@[simp] theorem stallOn_channels : (s.stallOn k).channels = s.channels := rfl
@[simp] theorem stallOn_sends : (s.stallOn k).sends = s.sends := rfl
@[simp] theorem stallOn_wcb : (s.stallOn k).wcb = s.wcb := rfl
@[simp] theorem stallOn_sendLog : (s.stallOn k).sendLog = s.sendLog := rfl
@[simp] theorem stallOn_slogDrop : (s.stallOn k).slogDrop = s.slogDrop := rfl
@[simp] theorem stallOn_recvs : (s.stallOn k).recvs = s.recvs := rfl
@[simp] theorem stallOn_owners : (s.stallOn k).owners = s.owners := rfl
@[simp] theorem stallOn_ranges : (s.stallOn k).ranges = s.ranges := rfl
@[simp] theorem stallOn_protLog : (s.stallOn k).protLog = s.protLog := rfl
@[simp] theorem stallOn_remotes : (s.stallOn k).remotes = s.remotes := rfl
@[simp] theorem stallOn_barWaits : (s.stallOn k).barWaits = s.barWaits := rfl
@[simp] theorem stallOn_ports : (s.stallOn k).ports = s.ports := rfl
@[simp] theorem stallOn_pathHold : (s.stallOn k).pathHold = s.pathHold := rfl
@[simp] theorem stallOn_pathWait : (s.stallOn k).pathWait = s.pathWait := rfl
@[simp] theorem stallOn_lineLast : (s.stallOn k).lineLast = s.lineLast := rfl
@[simp] theorem stallOn_cxlDown : (s.stallOn k).cxlDown = s.cxlDown := rfl
@[simp] theorem stallOn_endpoint : (s.stallOn k).endpoint = s.endpoint := rfl
@[simp] theorem stallOn_timeMaster : (s.stallOn k).timeMaster = s.timeMaster := rfl
@[simp] theorem stallOn_lastBeacon : (s.stallOn k).lastBeacon = s.lastBeacon := rfl
@[simp] theorem stallOn_beaconSince : (s.stallOn k).beaconSince = s.beaconSince := rfl
@[simp] theorem stallOn_slewed : (s.stallOn k).slewed = s.slewed := rfl
@[simp] theorem stallOn_synced : (s.stallOn k).synced = s.synced := rfl
@[simp] theorem stallOn_fabCtl : (s.stallOn k).fabCtl = s.fabCtl := rfl
@[simp] theorem stallOn_parts : (s.stallOn k).parts = s.parts := rfl
@[simp] theorem stallOn_reserved : (s.stallOn k).reserved = s.reserved := rfl
@[simp] theorem stallOn_tlbiLo : (s.stallOn k).tlbiLo = s.tlbiLo := rfl
@[simp] theorem stallOn_tlbiHi : (s.stallOn k).tlbiHi = s.tlbiHi := rfl
@[simp] theorem stallOn_tlbiLen : (s.stallOn k).tlbiLen = s.tlbiLen := rfl
@[simp] theorem stallOn_tlbiCtl : (s.stallOn k).tlbiCtl = s.tlbiCtl := rfl
@[simp] theorem stallOn_migrate : (s.stallOn k).migrate = s.migrate := rfl
@[simp] theorem stallOn_errs : (s.stallOn k).errs = s.errs := rfl
@[simp] theorem stallOn_devFaults : (s.stallOn k).devFaults = s.devFaults := rfl
@[simp] theorem stallOn_devRead : (s.stallOn k).devRead = s.devRead := rfl
@[simp] theorem stallOn_devRegs : (s.stallOn k).devRegs = s.devRegs := rfl
@[simp] theorem stallOn_mbx : (s.stallOn k).mbx = s.mbx := rfl
@[simp] theorem stallOn_thermal : (s.stallOn k).thermal = s.thermal := rfl
@[simp] theorem stallOn_wear : (s.stallOn k).wear = s.wear := rfl
@[simp] theorem stallOn_wearFlushed : (s.stallOn k).wearFlushed = s.wearFlushed := rfl
@[simp] theorem stallOn_boot : (s.stallOn k).boot = s.boot := rfl
@[simp] theorem stallOn_flash : (s.stallOn k).flash = s.flash := rfl
@[simp] theorem stallOn_ident : (s.stallOn k).ident = s.ident := rfl
@[simp] theorem stallOn_gidNext : (s.stallOn k).gidNext = s.gidNext := rfl
@[simp] theorem stallOn_engNext : (s.stallOn k).engNext = s.engNext := rfl
@[simp] theorem stallOn_serial : (s.stallOn k).serial = s.serial := rfl
@[simp] theorem stallOn_ridNext : (s.stallOn k).ridNext = s.ridNext := rfl
@[simp] theorem stallOn_batchNext : (s.stallOn k).batchNext = s.batchNext := rfl
@[simp] theorem stallOn_out : (s.stallOn k).out = s.out := rfl
@[simp] theorem stallOn_agenda : (s.stallOn k).agenda = s.agenda := rfl
@[simp] theorem stallOn_freeCtr : (s.stallOn k).freeCtr = s.freeCtr := rfl
end

section
variable (s : State) (d i : Nat) (x : SendState)
@[simp] theorem setSend_g : (s.setSend d i x).g = s.g := rfl
@[simp] theorem setSend_others : (s.setSend d i x).others = s.others := rfl
@[simp] theorem setSend_now : (s.setSend d i x).now = s.now := rfl
@[simp] theorem setSend_clocks : (s.setSend d i x).clocks = s.clocks := rfl
@[simp] theorem setSend_mem : (s.setSend d i x).mem = s.mem := rfl
@[simp] theorem setSend_poison : (s.setSend d i x).poison = s.poison := rfl
@[simp] theorem setSend_acc : (s.setSend d i x).acc = s.acc := rfl
@[simp] theorem setSend_accPoison : (s.setSend d i x).accPoison = s.accPoison := rfl
@[simp] theorem setSend_hier : (s.setSend d i x).hier = s.hier := rfl
@[simp] theorem setSend_seqLog : (s.setSend d i x).seqLog = s.seqLog := rfl
@[simp] theorem setSend_seqNum : (s.setSend d i x).seqNum = s.seqNum := rfl
@[simp] theorem setSend_records : (s.setSend d i x).records = s.records := rfl
@[simp] theorem setSend_departed : (s.setSend d i x).departed = s.departed := rfl
@[simp] theorem setSend_accepted : (s.setSend d i x).accepted = s.accepted := rfl
@[simp] theorem setSend_blocks : (s.setSend d i x).blocks = s.blocks := rfl
@[simp] theorem setSend_launches : (s.setSend d i x).launches = s.launches := rfl
@[simp] theorem setSend_queues : (s.setSend d i x).queues = s.queues := rfl
@[simp] theorem setSend_ctxs : (s.setSend d i x).ctxs = s.ctxs := rfl
@[simp] theorem setSend_batches : (s.setSend d i x).batches = s.batches := rfl
@[simp] theorem setSend_engOps : (s.setSend d i x).engOps = s.engOps := rfl
@[simp] theorem setSend_apStarts : (s.setSend d i x).apStarts = s.apStarts := rfl
@[simp] theorem setSend_apStores : (s.setSend d i x).apStores = s.apStores := rfl
@[simp] theorem setSend_matOps : (s.setSend d i x).matOps = s.matOps := rfl
@[simp] theorem setSend_maintOps : (s.setSend d i x).maintOps = s.maintOps := rfl
@[simp] theorem setSend_flagOps : (s.setSend d i x).flagOps = s.flagOps := rfl
@[simp] theorem setSend_ecalls : (s.setSend d i x).ecalls = s.ecalls := rfl
@[simp] theorem setSend_toks : (s.setSend d i x).toks = s.toks := rfl
@[simp] theorem setSend_kept : (s.setSend d i x).kept = s.kept := rfl
@[simp] theorem setSend_channels : (s.setSend d i x).channels = s.channels := rfl
@[simp] theorem setSend_wcb : (s.setSend d i x).wcb = s.wcb := rfl
@[simp] theorem setSend_sendLog : (s.setSend d i x).sendLog = s.sendLog := rfl
@[simp] theorem setSend_slogDrop : (s.setSend d i x).slogDrop = s.slogDrop := rfl
@[simp] theorem setSend_recvs : (s.setSend d i x).recvs = s.recvs := rfl
@[simp] theorem setSend_owners : (s.setSend d i x).owners = s.owners := rfl
@[simp] theorem setSend_ranges : (s.setSend d i x).ranges = s.ranges := rfl
@[simp] theorem setSend_protLog : (s.setSend d i x).protLog = s.protLog := rfl
@[simp] theorem setSend_remotes : (s.setSend d i x).remotes = s.remotes := rfl
@[simp] theorem setSend_barWaits : (s.setSend d i x).barWaits = s.barWaits := rfl
@[simp] theorem setSend_ports : (s.setSend d i x).ports = s.ports := rfl
@[simp] theorem setSend_pathHold : (s.setSend d i x).pathHold = s.pathHold := rfl
@[simp] theorem setSend_pathWait : (s.setSend d i x).pathWait = s.pathWait := rfl
@[simp] theorem setSend_lineLast : (s.setSend d i x).lineLast = s.lineLast := rfl
@[simp] theorem setSend_cxlDown : (s.setSend d i x).cxlDown = s.cxlDown := rfl
@[simp] theorem setSend_endpoint : (s.setSend d i x).endpoint = s.endpoint := rfl
@[simp] theorem setSend_timeMaster : (s.setSend d i x).timeMaster = s.timeMaster := rfl
@[simp] theorem setSend_lastBeacon : (s.setSend d i x).lastBeacon = s.lastBeacon := rfl
@[simp] theorem setSend_beaconSince : (s.setSend d i x).beaconSince = s.beaconSince := rfl
@[simp] theorem setSend_slewed : (s.setSend d i x).slewed = s.slewed := rfl
@[simp] theorem setSend_synced : (s.setSend d i x).synced = s.synced := rfl
@[simp] theorem setSend_fabCtl : (s.setSend d i x).fabCtl = s.fabCtl := rfl
@[simp] theorem setSend_parts : (s.setSend d i x).parts = s.parts := rfl
@[simp] theorem setSend_reserved : (s.setSend d i x).reserved = s.reserved := rfl
@[simp] theorem setSend_tlbiLo : (s.setSend d i x).tlbiLo = s.tlbiLo := rfl
@[simp] theorem setSend_tlbiHi : (s.setSend d i x).tlbiHi = s.tlbiHi := rfl
@[simp] theorem setSend_tlbiLen : (s.setSend d i x).tlbiLen = s.tlbiLen := rfl
@[simp] theorem setSend_tlbiCtl : (s.setSend d i x).tlbiCtl = s.tlbiCtl := rfl
@[simp] theorem setSend_migrate : (s.setSend d i x).migrate = s.migrate := rfl
@[simp] theorem setSend_errs : (s.setSend d i x).errs = s.errs := rfl
@[simp] theorem setSend_devFaults : (s.setSend d i x).devFaults = s.devFaults := rfl
@[simp] theorem setSend_devRead : (s.setSend d i x).devRead = s.devRead := rfl
@[simp] theorem setSend_devRegs : (s.setSend d i x).devRegs = s.devRegs := rfl
@[simp] theorem setSend_mbx : (s.setSend d i x).mbx = s.mbx := rfl
@[simp] theorem setSend_thermal : (s.setSend d i x).thermal = s.thermal := rfl
@[simp] theorem setSend_wear : (s.setSend d i x).wear = s.wear := rfl
@[simp] theorem setSend_wearFlushed : (s.setSend d i x).wearFlushed = s.wearFlushed := rfl
@[simp] theorem setSend_boot : (s.setSend d i x).boot = s.boot := rfl
@[simp] theorem setSend_flash : (s.setSend d i x).flash = s.flash := rfl
@[simp] theorem setSend_ident : (s.setSend d i x).ident = s.ident := rfl
@[simp] theorem setSend_gidNext : (s.setSend d i x).gidNext = s.gidNext := rfl
@[simp] theorem setSend_engNext : (s.setSend d i x).engNext = s.engNext := rfl
@[simp] theorem setSend_serial : (s.setSend d i x).serial = s.serial := rfl
@[simp] theorem setSend_ridNext : (s.setSend d i x).ridNext = s.ridNext := rfl
@[simp] theorem setSend_batchNext : (s.setSend d i x).batchNext = s.batchNext := rfl
@[simp] theorem setSend_out : (s.setSend d i x).out = s.out := rfl
@[simp] theorem setSend_agenda : (s.setSend d i x).agenda = s.agenda := rfl
@[simp] theorem setSend_freeCtr : (s.setSend d i x).freeCtr = s.freeCtr := rfl
end

end Sys2Proof.Machine
end

