-- ==== Sys2Proof/Laws/Memory.lean ====
section
/-! SUPPORT. Memory: what a store leaves in each byte, that every operation keeps the canonical form, and what the
translation of an access changes. -/

namespace Sys2Proof.Machine

theorem get_filter {α : Type} (d : α) (m : SMap α) (p : Nat → Bool) (k : Nat) (h : p k = true) :
    SMap.get d (m.filter (fun c => p c.1)) k = SMap.get d m k := by
  induction m with
  | nil => rfl
  | cons c m ih =>
    obtain ⟨i, x⟩ := c
    by_cases hi : p i = true
    · simp [hi, SMap.get, ih]
    · have hne : ¬ i = k := fun e => hi (e ▸ h)
      simp [hi, SMap.get, ih, hne]

/-- A byte after a run of bytes is stored: the byte stored there, or what was there. -/
theorem putBytes_get (loc : Nat) (bs : List Byte) (m : SMap Byte) (a : Nat) :
    (putBytes loc bs m).get 0 a = if loc ≤ a ∧ a < loc + bs.length then bs.getD (a - loc) 0 else m.get 0 a := by
  induction bs generalizing loc m with
  | nil => simp [putBytes]
  | cons b bs ih =>
    simp only [putBytes, ih, SMap.get_put, List.length_cons]
    by_cases h0 : loc = a
    · subst h0; simp
    · by_cases h1 : loc + 1 ≤ a ∧ a < loc + 1 + bs.length
      · have h2 : loc ≤ a ∧ a < loc + (bs.length + 1) := by omega
        have h3 : a - loc = a - (loc + 1) + 1 := by omega
        rw [if_pos h1, if_pos h2, h3, List.getD_cons_succ]
      · have h2 : ¬ (loc ≤ a ∧ a < loc + (bs.length + 1)) := by omega
        rw [if_neg h1, if_neg h2, if_neg h0]

theorem putBytes_outside (loc : Nat) (bs : List Byte) (m : SMap Byte) (a : Nat) (h : a < loc ∨ loc + bs.length ≤ a) :
    (putBytes loc bs m).get 0 a = m.get 0 a := by
  rw [putBytes_get, if_neg (by omega)]

/-- Storing bytes keeps the canonical form. -/
theorem putBytes_wf (loc : Nat) (bs : List Byte) (m : SMap Byte) (h : Memory.wf m = true) :
    Memory.wf (putBytes loc bs m) = true := by
  induction bs generalizing loc m with
  | nil => exact h
  | cons b bs ih => exact ih _ _ (SMap.wf_put 0 m loc b h)

@[simp] theorem natBytes_length (n x : Nat) : (natBytes n x).length = n := by
  induction n generalizing x with
  | zero => rfl
  | succ n ih => simp [natBytes, ih]

/-! ### Stores to a location -/

/-- A store past the caches changes memory and the tags of the hierarchy only. -/
theorem poke_eq (s : State) (loc : Nat) (bs : List Byte) :
    ∃ m h, s.poke loc bs = { s with mem := m, hier := h } := by
  unfold State.poke; split <;> exact ⟨_, _, rfl⟩

theorem poke_outside (s : State) (loc : Nat) (bs : List Byte) (a : Nat) (h : a < loc ∨ loc + bs.length ≤ a) :
    (s.poke loc bs).mem.get 0 a = s.mem.get 0 a := by
  unfold State.poke; split
  · rfl
  · exact putBytes_outside loc bs s.mem a h

/-- A byte stored reads back, unless it lies behind a CXL link that is down. -/
theorem poke_inside (s : State) (loc : Nat) (bs : List Byte) (a : Nat) (hc : s.cxlLost loc = false)
    (h : loc ≤ a ∧ a < loc + bs.length) : (s.poke loc bs).mem.get 0 a = bs.getD (a - loc) 0 := by
  unfold State.poke
  rw [if_neg (by simp [hc])]
  show (putBytes loc bs s.mem).get 0 a = _
  rw [putBytes_get, if_pos h]

theorem poke_wf (s : State) (loc : Nat) (bs : List Byte) (h : s.MemInv) : (s.poke loc bs).MemInv := by
  unfold State.poke; split
  · exact h
  · exact putBytes_wf loc bs s.mem h

/-! ### Translations -/

/-- An update of an entry changes its eight bytes only. -/
theorem pteUpdate_outside (s : State) (addr : Nat) (on off : W64) (a : Nat) (h : a < addr ∨ addr + 8 ≤ a) :
    (s.pteUpdate addr on off).mem.get 0 a = s.mem.get 0 a := putBytes_outside _ _ _ _ (by simpa using h)

/-- A walk changes memory and the tags of the hierarchy only. -/
theorem walked_eq (s : State) (asid va : Nat) (e cur : W64) (lvl addr : Nat) :
    ∃ m h, s.walked asid va e cur lvl addr = { s with mem := m, hier := h } := by
  unfold State.walked State.zeroFrame State.pteUpdate
  dsimp only
  split <;> split <;> exact ⟨_, _, rfl⟩

theorem walked_outside (s : State) (asid va : Nat) (e cur : W64) (lvl addr a : Nat) (h : Outside a (leafReach e addr)) :
    (s.walked asid va e cur lvl addr).mem.get 0 a = s.mem.get 0 a := by
  have h1 : a < addr ∨ addr + 8 ≤ a := h (addr, 8) (by simp [leafReach])
  have h2 : a < pteFrame e ∨ pteFrame e + (if pteZf e then 65536 else 0) ≤ a :=
    h (pteFrame e, if pteZf e then 65536 else 0) (by simp [leafReach])
  have hz : (if ((pteZf e && pteZf cur) && !pteFt e) = true then s.zeroFrame (pteFrame e) else s).mem.get 0 a = s.mem.get 0 a := by
    split
    · rename_i hb
      have hb : pteZf e = true := by simp_all
      rw [if_pos hb] at h2
      exact get_filter 0 s.mem (fun c => decide (c < pteFrame e) || decide (pteFrame e + 65536 ≤ c)) a (by simpa using h2)
    · rfl
  unfold State.walked
  dsimp only
  split
  · exact hz
  · rw [pteUpdate_outside _ _ _ _ _ h1]; exact hz

theorem walked_wf (s : State) (asid va : Nat) (e cur : W64) (lvl addr : Nat) (h : s.MemInv) :
    (s.walked asid va e cur lvl addr).MemInv := by
  have hz : (if ((pteZf e && pteZf cur) && !pteFt e) = true then s.zeroFrame (pteFrame e) else s).MemInv := by
    split
    · exact SMap.wf_filter 0 s.mem _ h
    · exact h
  unfold State.walked
  dsimp only
  split
  · exact hz
  · exact putBytes_wf _ _ _ hz

/-- The translation of a piece changes memory and the tags of the hierarchy only. -/
theorem seenPiece_eq (s : State) (asid : Nat) (p : Piece) : ∃ m h, s.seenPiece asid p = { s with mem := m, hier := h } := by
  unfold State.seenPiece
  split
  · exact ⟨_, _, rfl⟩
  · split
    · exact ⟨_, _, rfl⟩
    · split
      · exact ⟨_, _, rfl⟩
      · dsimp only; split
        · exact walked_eq _ _ _ _ _ _ _
        · exact ⟨_, _, rfl⟩

theorem seenPiece_outside (s : State) (asid : Nat) (p : Piece) (a : Nat) (h : Outside a p.reach) :
    (s.seenPiece asid p).mem.get 0 a = s.mem.get 0 a := by
  unfold State.seenPiece
  unfold Piece.reach at h
  split
  · rfl
  · rename_i e lvl addr hp
    rw [hp] at h
    split
    · rfl
    · split
      · rfl
      · dsimp only; split
        · exact walked_outside _ _ _ _ _ _ _ _ h
        · rfl

theorem seenPiece_wf (s : State) (asid : Nat) (p : Piece) (h : s.MemInv) : (s.seenPiece asid p).MemInv := by
  unfold State.seenPiece
  split
  · exact h
  · split
    · exact h
    · split
      · exact h
      · dsimp only; split
        · exact walked_wf _ _ _ _ _ _ _ h
        · exact h

theorem cacheRead_eq (s : State) (asid : Nat) (p : Piece) : ∃ h, s.cacheRead asid p = { s with hier := h } := by
  unfold State.cacheRead
  split
  · exact ⟨_, rfl⟩
  · split <;> exact ⟨_, rfl⟩

/-- D in an entry changes memory and the tags of the hierarchy only. -/
theorem dirtied_eq (s : State) (addr : Nat) : ∃ m h, s.dirtied addr = { s with mem := m, hier := h } := ⟨_, _, rfl⟩

/-- An access of a piece changes memory and the tags of the hierarchy only. -/
theorem touch_eq (s : State) (asid : Nat) (wr : Bool) (p : Piece) :
    ∃ m h, s.touch asid wr p = { s with mem := m, hier := h } := by
  obtain ⟨m, h, hs⟩ := seenPiece_eq s asid p
  unfold State.touch
  split
  · exact ⟨_, _, rfl⟩
  · dsimp only
    rw [hs]
    generalize hu : ({ s with mem := m, hier := h } : State) = u
    have key : ∀ t : State, (∃ m' h', t = { u with mem := m', hier := h' }) → ∃ m' h', t = { s with mem := m', hier := h' } := by
      rintro t ⟨m', h', rfl⟩
      subst hu
      exact ⟨m', h', rfl⟩
    apply key
    split
    · split
      · exact ⟨_, _, rfl⟩
      · exact dirtied_eq u _
    · obtain ⟨h', e⟩ := cacheRead_eq u asid p
      exact ⟨u.mem, h', e⟩

theorem dirtied_outside (s : State) (addr a : Nat) (h : a < addr ∨ addr + 8 ≤ a) :
    (s.dirtied addr).mem.get 0 a = s.mem.get 0 a := pteUpdate_outside s addr 0x20000#64 0 a h

theorem dirtied_wf (s : State) (addr : Nat) (h : s.MemInv) : (s.dirtied addr).MemInv :=
  putBytes_wf addr (natBytes 8 ((w64 (s.peek addr 8) ||| 0x20000#64) &&& ~~~0#64).toNat) s.mem h

theorem cacheRead_mem (s : State) (asid : Nat) (p : Piece) : (s.cacheRead asid p).mem = s.mem := by
  unfold State.cacheRead
  split
  · rfl
  · split <;> rfl

theorem touch_outside (s : State) (asid : Nat) (wr : Bool) (p : Piece) (a : Nat) (h : Outside a p.reach) :
    (s.touch asid wr p).mem.get 0 a = s.mem.get 0 a := by
  have h0 := seenPiece_outside s asid p a h
  unfold State.touch
  unfold Piece.reach at h
  split
  · rfl
  · rename_i e lvl addr hp
    rw [hp] at h
    have h1 : a < addr ∨ addr + 8 ≤ a := h (addr, 8) (by simp [leafReach])
    dsimp only
    split
    · split
      · exact h0
      · rw [dirtied_outside _ _ _ h1]; exact h0
    · rw [cacheRead_mem]; exact h0

theorem touch_wf (s : State) (asid : Nat) (wr : Bool) (p : Piece) (h : s.MemInv) : (s.touch asid wr p).MemInv := by
  have h0 := seenPiece_wf s asid p h
  unfold State.touch
  split
  · exact h
  · dsimp only
    split
    · split
      · exact h0
      · exact dirtied_wf _ _ h0
    · unfold State.MemInv; rw [cacheRead_mem]; exact h0

theorem touchAll_eq (s : State) (asid : Nat) (wr : Bool) (ps : List Piece) :
    ∃ m h, s.touchAll asid wr ps = { s with mem := m, hier := h } := by
  unfold State.touchAll
  induction ps generalizing s with
  | nil => exact ⟨_, _, rfl⟩
  | cons p ps ih =>
    obtain ⟨m, h, e⟩ := touch_eq s asid wr p
    rw [List.foldl_cons, e]
    exact ih { s with mem := m, hier := h }

theorem touchAll_outside (s : State) (asid : Nat) (wr : Bool) (ps : List Piece) (a : Nat)
    (h : Outside a (ps.flatMap Piece.reach)) : (s.touchAll asid wr ps).mem.get 0 a = s.mem.get 0 a := by
  unfold State.touchAll
  induction ps generalizing s with
  | nil => rfl
  | cons p ps ih =>
    rw [List.foldl_cons, ih]
    · exact touch_outside s asid wr p a (fun r hr => h r (by simp [hr]))
    · exact fun r hr => h r (List.mem_flatMap.mpr (by
        obtain ⟨q, hq, hr⟩ := List.mem_flatMap.mp hr
        exact ⟨q, List.mem_cons_of_mem _ hq, hr⟩))

theorem touchAll_wf (s : State) (asid : Nat) (wr : Bool) (ps : List Piece) (h : s.MemInv) :
    (s.touchAll asid wr ps).MemInv := by
  unfold State.touchAll
  induction ps generalizing s with
  | nil => exact h
  | cons p ps ih => exact ih _ (touch_wf s asid wr p h)

end Sys2Proof.Machine
end

