-- ==== Sys2Proof/Laws/Wire.lean ====
section
/-! SUPPORT. The sending side of the fabric, and stores to pieces: what each of them can change. -/

namespace Sys2Proof.Machine

/-- The machine differs only on the sending side of the fabric: spans, send log, write-combining buffer, packets that
leave or wait, the progress counts of partitions, and serial numbers. -/
def FabricOnly (s t : State) : Prop :=
  ∃ sends sendLog slogDrop parts pathWait out lineLast wcb serial,
    t = { s with sends := sends, sendLog := sendLog, slogDrop := slogDrop, parts := parts, pathWait := pathWait, out := out
                 lineLast := lineLast, wcb := wcb, serial := serial }

theorem FabricOnly.refl (s : State) : FabricOnly s s := ⟨_, _, _, _, _, _, _, _, _, rfl⟩

theorem FabricOnly.trans {s t u : State} (h1 : FabricOnly s t) (h2 : FabricOnly t u) : FabricOnly s u := by
  obtain ⟨_, _, _, _, _, _, _, _, _, rfl⟩ := h1
  obtain ⟨_, _, _, _, _, _, _, _, _, rfl⟩ := h2
  exact ⟨_, _, _, _, _, _, _, _, _, rfl⟩

theorem FabricOnly.foldl {α : Type} (f : State → α → State) (hf : ∀ s x, FabricOnly s (f s x)) (l : List α) (s : State) :
    FabricOnly s (l.foldl f s) := by
  induction l generalizing s with
  | nil => exact .refl s
  | cons x l ih => exact (hf s x).trans (ih _)

theorem progress_fabric (s : State) (a : Nat) : FabricOnly s (s.progress a) := ⟨_, _, _, _, _, _, _, _, _, rfl⟩

theorem flits_fabric (s : State) (d : BitVec 16) : FabricOnly s (s.flits d) := by
  unfold State.flits; split
  · exact progress_fabric s _
  · exact .refl s

theorem transmit_fabric (s : State) (p : Packet) : FabricOnly s (s.transmit p) := by
  refine (flits_fabric s p.dctx).trans ?_
  unfold State.transmit
  dsimp only
  split <;> exact ⟨_, _, _, _, _, _, _, _, _, rfl⟩

theorem logPacket_fabric (s : State) (p : Packet) : FabricOnly s (s.logPacket p) := ⟨_, _, _, _, _, _, _, _, _, rfl⟩

theorem setSend_fabric (s : State) (d i : Nat) (x : SendState) : FabricOnly s (s.setSend d i x) :=
  ⟨_, _, _, _, _, _, _, _, _, rfl⟩

theorem emit_fabric (s : State) (o : Out) : FabricOnly s (s.emit o) := ⟨_, _, _, _, _, _, _, _, _, rfl⟩

theorem sendCounted_fabric (s : State) (c : Nat) (p : Packet) : FabricOnly s (s.sendCounted c p) := by
  unfold State.sendCounted
  dsimp only
  split
  · exact ⟨_, _, _, _, _, _, _, _, _, rfl⟩
  · split
    · exact setSend_fabric _ _ _ _
    · split
      · exact ((setSend_fabric _ _ _ _).trans (logPacket_fabric _ _)).trans (transmit_fabric _ _)
      · exact (setSend_fabric _ _ _ _).trans (logPacket_fabric _ _)

theorem drainWcb_fabric (s : State) (p : WcbEntry → Bool) : FabricOnly s (s.drainWcb p) := by
  unfold State.drainWcb
  refine FabricOnly.trans (t := { s with wcb := s.wcb.filter (fun e => !p e) }) ⟨_, _, _, _, _, _, _, _, _, rfl⟩ ?_
  exact FabricOnly.foldl _ (fun s e => sendCounted_fabric s _ _) _ _

theorem closeSpan_fabric (s : State) (dst slot : Nat) (d : BitVec 16) (a : Nat) (v : W32) :
    FabricOnly s (s.closeSpan dst slot d a v).2 := by
  unfold State.closeSpan
  dsimp only
  refine FabricOnly.trans ?_ (FabricOnly.foldl _ (fun s p => sendCounted_fabric s _ _) _ _)
  refine FabricOnly.trans ?_ (setSend_fabric _ _ _ _)
  refine FabricOnly.trans ?_ (FabricOnly.foldl _ (fun s _ => (emit_fabric s _).trans (flits_fabric _ _)) _ _)
  exact (logPacket_fabric _ _).trans ⟨_, _, _, _, _, _, _, _, _, rfl⟩

theorem wcbRoom_fabric (s : State) (core n : Nat) : FabricOnly s (s.wcbRoom core n) := by
  induction n generalizing s with
  | zero => exact .refl s
  | succ n ih =>
    unfold State.wcbRoom
    split
    · exact .refl s
    · split
      · exact (drainWcb_fabric _ _).trans (ih _)
      · exact .refl s

theorem wcbLine_fabric (s : State) (core asid : Nat) (d : BitVec 16) (ep pa slot : Nat) (bs : List Byte) :
    FabricOnly s (s.wcbLine core asid d ep pa slot bs) := by
  unfold State.wcbLine
  extract_lets same s1 r e s2 fill s3
  have h1 : FabricOnly s s1 := by
    simp only [s1]; split
    · exact drainWcb_fabric _ _
    · exact .refl s
  have h2 : FabricOnly s s2 := by
    refine h1.trans ?_
    simp only [s2]; split
    · exact .refl _
    · exact (wcbRoom_fabric _ _ _).trans ⟨_, _, _, _, _, _, _, _, _, rfl⟩
  have h3 : FabricOnly s s3 := h2.trans ⟨_, _, _, _, _, _, _, _, _, rfl⟩
  split
  · exact h3.trans (drainWcb_fabric _ _)
  · exact h3

theorem wcbStore_fabric (s : State) (core asid ep pa slot : Nat) (bs : List Byte) :
    FabricOnly s (s.wcbStore core asid ep pa slot bs) := by
  unfold State.wcbStore
  have h : ∀ (l : List (Nat × Nat)) (d : BitVec 16) (x : State × List Byte), FabricOnly x.1 ((l.foldl
      (fun (x : State × List Byte) r => (x.1.wcbLine core asid d ep r.1 slot (x.2.take r.2), x.2.drop r.2)) x).1) := by
    intro l d
    induction l with
    | nil => exact fun x => .refl _
    | cons r l ih => exact fun x => (wcbLine_fabric _ _ _ _ _ _ _ _).trans (ih _)
  exact h _ _ _

/-! ### Stores to pieces -/

/-- The machine differs only in memory, in the tags of the hierarchy, in the state of replicas and apertures, and on the
sending side of the fabric. -/
def StoreOnly (s t : State) : Prop :=
  ∃ mem hier sl sn ap u, FabricOnly s u ∧ t = { u with mem := mem, hier := hier, seqLog := sl, seqNum := sn, apStores := ap }

theorem StoreOnly.refl (s : State) : StoreOnly s s := ⟨_, _, _, _, _, s, .refl s, rfl⟩

theorem StoreOnly.of_fabric {s t : State} (h : FabricOnly s t) : StoreOnly s t := ⟨_, _, _, _, _, t, h, rfl⟩

theorem StoreOnly.trans {s t u : State} (h1 : StoreOnly s t) (h2 : StoreOnly t u) : StoreOnly s u := by
  obtain ⟨_, _, _, _, _, _, ⟨_, _, _, _, _, _, _, _, _, rfl⟩, rfl⟩ := h1
  obtain ⟨_, _, _, _, _, _, ⟨_, _, _, _, _, _, _, _, _, rfl⟩, rfl⟩ := h2
  exact ⟨_, _, _, _, _, _, ⟨_, _, _, _, _, _, _, _, _, rfl⟩, rfl⟩

theorem StoreOnly.foldl {α : Type} (f : State → α → State) (hf : ∀ s x, StoreOnly s (f s x)) (l : List α) (s : State) :
    StoreOnly s (l.foldl f s) := by
  induction l generalizing s with
  | nil => exact .refl s
  | cons x l ih => exact (hf s x).trans (ih _)

theorem pokeData_eq (s : State) (loc : Nat) (bs : List Byte) : ∃ m, s.pokeData loc bs = { s with mem := m } := by
  unfold State.pokeData; split <;> exact ⟨_, rfl⟩

theorem pokeData_outside (s : State) (loc : Nat) (bs : List Byte) (a : Nat) (h : a < loc ∨ loc + bs.length ≤ a) :
    (s.pokeData loc bs).mem.get 0 a = s.mem.get 0 a := by
  unfold State.pokeData; split
  · rfl
  · exact putBytes_outside loc bs s.mem a h

theorem pokeData_wf (s : State) (loc : Nat) (bs : List Byte) (h : s.MemInv) : (s.pokeData loc bs).MemInv := by
  unfold State.pokeData; split
  · exact h
  · exact putBytes_wf loc bs s.mem h

/-- What a store to a local piece can be: nothing to memory, or bytes at the piece, past the caches or through them; the
tags, the sequence of replicated writes and the apertures' stores may follow. -/
theorem writeLocal_cases (s : State) (core asid : Nat) (far : Bool) (tid : List W32) (p : Piece) (bs : List Byte) :
    ∃ u hier sl sn ap, (u = s ∨ u = s.poke p.loc bs ∨ u = s.pokeData p.loc bs)
      ∧ s.writeLocal core asid far tid p bs = { u with hier := hier, seqLog := sl, seqNum := sn, apStores := ap } := by
  unfold State.writeLocal
  split
  · exact ⟨_, _, _, _, _, .inr (.inl rfl), rfl⟩
  · split
    · exact ⟨_, _, _, _, _, .inr (.inl rfl), rfl⟩
    · split
      · split
        · unfold State.apertureStored; split <;> exact ⟨_, _, _, _, _, .inl rfl, rfl⟩
        · exact ⟨_, _, _, _, _, .inl rfl, rfl⟩
      · split
        · exact ⟨_, _, _, _, _, .inr (.inr rfl), rfl⟩
        · exact ⟨_, _, _, _, _, .inr (.inl rfl), rfl⟩

theorem writeLocal_store (s : State) (core asid : Nat) (far : Bool) (tid : List W32) (p : Piece) (bs : List Byte) :
    StoreOnly s (s.writeLocal core asid far tid p bs) := by
  obtain ⟨u, _, _, _, _, hu, h⟩ := writeLocal_cases s core asid far tid p bs
  rw [h]
  rcases hu with rfl | rfl | rfl
  · exact ⟨_, _, _, _, _, _, .refl _, rfl⟩
  · obtain ⟨_, _, e⟩ := poke_eq s p.loc bs
    rw [e]; exact ⟨_, _, _, _, _, s, .refl s, rfl⟩
  · obtain ⟨_, e⟩ := pokeData_eq s p.loc bs
    rw [e]; exact ⟨_, _, _, _, _, s, .refl s, rfl⟩

theorem writePiece_store (s : State) (core asid slot : Nat) (tid : List W32) (p : Piece) (bs : List Byte) :
    StoreOnly s (s.writePiece core asid slot tid p bs) := by
  unfold State.writePiece; split
  · exact .of_fabric (wcbStore_fabric _ _ _ _ _ _ _)
  · exact writeLocal_store _ _ _ _ _ _ _

theorem writePieces_store (s : State) (core asid slot : Nat) (tid : List W32) (ps : List Piece) (bs : List Byte) :
    StoreOnly s (s.writePieces core asid slot tid ps bs) := by
  induction ps generalizing s bs with
  | nil => exact .refl s
  | cons p ps ih => exact (writePiece_store _ _ _ _ _ _ _).trans (ih _ _)

/-- A store to a piece leaves the bytes outside it. -/
theorem writePiece_outside (s : State) (core asid slot : Nat) (tid : List W32) (p : Piece) (bs : List Byte) (a : Nat)
    (h : a < p.loc ∨ p.loc + bs.length ≤ a) : (s.writePiece core asid slot tid p bs).mem.get 0 a = s.mem.get 0 a := by
  unfold State.writePiece; split
  · obtain ⟨_, _, _, _, _, _, _, _, _, e⟩ := wcbStore_fabric s core asid ‹Nat› p.loc slot bs
    rw [e]
  · obtain ⟨u, _, _, _, _, hu, e⟩ := writeLocal_cases s core asid false tid p bs
    rw [e]
    rcases hu with rfl | rfl | rfl
    · rfl
    · exact poke_outside s _ _ a h
    · exact pokeData_outside s _ _ a h

theorem writePieces_outside (s : State) (core asid slot : Nat) (tid : List W32) (ps : List Piece) (bs : List Byte) (a : Nat)
    (h : Outside a (ps.map (fun p => (p.loc, p.len)))) :
    (s.writePieces core asid slot tid ps bs).mem.get 0 a = s.mem.get 0 a := by
  induction ps generalizing s bs with
  | nil => rfl
  | cons p ps ih =>
    have h1 : a < p.loc ∨ p.loc + p.len ≤ a := h (p.loc, p.len) (by simp)
    simp only [State.writePieces]
    rw [ih _ _ (fun r hr => h r (by simp_all))]
    refine writePiece_outside s _ _ _ _ p _ a ?_
    have : (bs.take p.len).length ≤ p.len := by simp
    omega

theorem writeLocal_wf (s : State) (core asid : Nat) (far : Bool) (tid : List W32) (p : Piece) (bs : List Byte) (h : s.MemInv) :
    (s.writeLocal core asid far tid p bs).MemInv := by
  obtain ⟨u, _, _, _, _, hu, e⟩ := writeLocal_cases s core asid far tid p bs
  rw [e]
  rcases hu with rfl | rfl | rfl
  · exact h
  · exact poke_wf s _ _ h
  · exact pokeData_wf s _ _ h

theorem FabricOnly.memInv {s t : State} (h : FabricOnly s t) (hs : s.MemInv) : t.MemInv := by
  obtain ⟨_, _, _, _, _, _, _, _, _, rfl⟩ := h
  exact hs

theorem writePieces_wf (s : State) (core asid slot : Nat) (tid : List W32) (ps : List Piece) (bs : List Byte) (h : s.MemInv) :
    (s.writePieces core asid slot tid ps bs).MemInv := by
  induction ps generalizing s bs with
  | nil => exact h
  | cons p ps ih =>
    refine ih _ _ ?_
    unfold State.writePiece; split
    · exact (wcbStore_fabric _ _ _ _ _ _ _).memInv h
    · exact writeLocal_wf _ _ _ _ _ _ _ h

end Sys2Proof.Machine
end

