-- ==== Sys2Proof/Laws/Word.lean ====
section
/-! SUPPORT. The run of one word: its end, the wait for its operands, its backing slots, and what follows for a word
whose effects are taken. -/

namespace Sys2Proof.Machine

/-! ### The end of a word -/

/-- The next word, or the end of the clause, moves PCs only. -/
theorem nextWord_eq (g : Group) : ∃ r k l, g.nextWord = { g with run := r, keep := k, lanes := l } := by
  unfold Group.nextWord
  split
  · exact ⟨_, _, _, rfl⟩
  · split <;> exact ⟨_, _, _, rfl⟩

theorem nextWord_lane (g : Group) (L : Nat) : ∃ pc, g.nextWord.lane L = { g.lane L with pc := pc } := by
  unfold Group.nextWord
  split
  · exact ⟨_, rfl⟩
  · split
    · exact ⟨_, rfl⟩
    · rename_i r _ _
      have h := mapLanes_lane g (below 32 g.runs) (fun _ x => { x with pc := r.next }) L (below_nodup _ _)
      by_cases hL : L ∈ below 32 g.runs
      · rw [if_pos hL] at h; exact ⟨_, h⟩
      · rw [if_neg hL] at h; exact ⟨_, h⟩

/-- A word retires: counters, the stall, used answers and progress; nothing architectural. -/
theorem retire_eq (s : State) : ∃ n r p, s.retire = { s with g := { s.g with issued := n, stall := none }, remotes := r, parts := p } :=
  ⟨_, _, _, rfl⟩

theorem advance_eq (s : State) : ∃ r k l n m p,
    s.advance = { s with g := { s.g with run := r, keep := k, lanes := l, issued := n, stall := none }, remotes := m, parts := p } := by
  obtain ⟨r, k, l, h⟩ := nextWord_eq s.g
  unfold State.advance
  rw [h]
  exact ⟨_, _, _, _, _, _, rfl⟩

theorem advance_lane (s : State) (L : Nat) : ∃ pc, s.advance.g.lane L = { s.g.lane L with pc := pc } :=
  nextWord_lane s.g L

theorem endTransfer_eq (s : State) : ∃ n m p,
    s.endTransfer = { s with g := { s.g with run := none, keep := none, issued := n, stall := none }, remotes := m, parts := p } :=
  ⟨_, _, _, rfl⟩

/-! ### Translations of backing slots -/

/-- The piece a backing slot is. -/
def slotPiece (va : Nat) (e : W64) (lvl addr : Nat) : Piece :=
  { loc := leafPa e lvl va, len := 4, va := va, pte := some (e, lvl, addr), ep := if pteFt e then some (pteEp e) else none }

/-- What the check of one backing slot needs and gives. -/
theorem permitAll_one {a : Acc} {va : Nat} {w : Walk} {ps : List Piece} (h : permitAll a [(va, 4, w)] = .ok ps) :
    ∃ e lvl addr, w = .leaf e lvl addr ∧ ps = [slotPiece va e lvl addr] := by
  unfold permitAll at h
  split at h
  · exact absurd h (by simp)
  · cases w with
    | leaf e lvl addr =>
      refine ⟨e, lvl, addr, rfl, ?_⟩
      simp only [allOk, permit] at h
      split at h
      · exact absurd h (by simp)
      · rename_i ps' hp
        split at hp
        · exact absurd hp (by simp)
        · rename_i y hy
          split at hy
          · simp only [Except.ok.injEq] at hy hp
            split at h
            · exact absurd h (by simp)
            · simp only [Except.ok.injEq] at h
              rw [← h, ← hp, ← hy]; rfl
          · exact absurd hy (by simp)
    | notValid => exact absurd h (by simp [allOk, permit])
    | notPresent e l a => exact absurd h (by simp [allOk, permit])
    | format e l a => exact absurd h (by simp [allOk, permit])

/-- Where one slot lies, with what its translation can change. -/
def slotRuns (s : State) (x : Nat × Nat × Bool) : List (Nat × Nat) :=
  match s.lookup s.g.asid x.2.1 with
  | .leaf e lvl addr => (leafPa e lvl x.2.1, 4) :: leafReach e addr
  | _ => []

theorem slotReach_eq (s : State) (i : Instr) (gd : Guard) :
    s.slotReach i gd = (s.backing (s.g.active gd) (wordRegs i)).flatMap (slotRuns s) := rfl

/-- The check of backing slots that pass: translations only; each slot is a piece of a leaf, and nothing outside their
reach has changed. -/
theorem checkBacking_spec (s s1 : State) (l : List (Nat × Nat × Bool)) (h : s.checkBacking l = .ok s1) :
    (∃ m h, s1 = { s with mem := m, hier := h })
      ∧ (∀ a, Outside a (l.flatMap (slotRuns s)) → s1.mem.get 0 a = s.mem.get 0 a)
      ∧ (s.MemInv → s1.MemInv) := by
  induction l generalizing s1 with
  | nil =>
    simp only [State.checkBacking, Except.ok.injEq] at h
    subst h
    exact ⟨⟨_, _, rfl⟩, fun _ _ => rfl, id⟩
  | cons x l ih =>
    obtain ⟨L, va, wr⟩ := x
    simp only [State.checkBacking] at h
    split at h
    · exact absurd h (by simp)
    · rename_i ps hps
      split at h
      · exact absurd h (by simp)
      · rename_i s2 hs2
        simp only [Except.ok.injEq] at h
        obtain ⟨⟨m, z, h2⟩, hm, hwf⟩ := ih s2 hs2
        obtain ⟨e, lvl, addr, hw, hp⟩ := permitAll_one (w := s.lookup s.g.asid va) hps
        have hone : s1 = s2.touch s.g.asid wr (slotPiece va e lvl addr) := by
          rw [← h, hp]; rfl
        refine ⟨?_, ?_, ?_⟩
        · obtain ⟨m', z', h3⟩ := touch_eq s2 s.g.asid wr (slotPiece va e lvl addr)
          rw [hone, h3, h2]
          exact ⟨_, _, rfl⟩
        · intro a ha
          have h1 : Outside a (slotRuns s (L, va, wr)) := fun r hr => ha r (by simp [hr])
          have h2 : Outside a (l.flatMap (slotRuns s)) := fun r hr => ha r (by
            rw [List.flatMap_cons]; exact List.mem_append_right _ hr)
          rw [hone, touch_outside, hm a h2]
          intro r hr
          refine h1 r ?_
          unfold slotRuns
          simp only [hw]
          exact List.mem_cons_of_mem _ hr
        · intro hs
          rw [hone]
          exact touch_wf _ _ _ _ (hwf hs)

/-! ### Backing slots after the effects (R17) -/

/-- The machine differs by stores, and in which backing slots hold their registers. -/
structure SavedOnly (s t : State) : Prop where
  store : ∃ l, StoreOnly s { t with g := s.g } ∧ t.g = { s.g with lanes := l }
  lane : ∀ L, ∃ b, t.g.lane L = { s.g.lane L with inSlot := b }

theorem SavedOnly.refl (s : State) : SavedOnly s s := ⟨⟨_, .refl s, rfl⟩, fun _ => ⟨_, rfl⟩⟩

theorem StoreOnly.withG {s t : State} (h : StoreOnly s t) (g : Group) : StoreOnly { s with g := g } { t with g := g } := by
  obtain ⟨_, _, _, _, _, _, ⟨_, _, _, _, _, _, _, _, _, rfl⟩, rfl⟩ := h
  exact ⟨_, _, _, _, _, _, ⟨_, _, _, _, _, _, _, _, _, rfl⟩, rfl⟩

theorem StoreOnly.group {s t : State} (h : StoreOnly s t) : t.g = s.g := by
  obtain ⟨_, _, _, _, _, _, ⟨_, _, _, _, _, _, _, _, _, rfl⟩, rfl⟩ := h
  rfl

theorem SavedOnly.trans {s t u : State} (h1 : SavedOnly s t) (h2 : SavedOnly t u) : SavedOnly s u := by
  obtain ⟨⟨l1, s1, g1⟩, n1⟩ := h1
  obtain ⟨⟨l2, s2, g2⟩, n2⟩ := h2
  refine ⟨⟨l2, s1.trans ?_, by rw [g2, g1]⟩, fun L => ?_⟩
  · exact s2.withG s.g
  · obtain ⟨a, ha⟩ := n1 L
    obtain ⟨b, hb⟩ := n2 L
    exact ⟨b, by rw [hb, ha]⟩

/-- Copying registers to their backing slots stores bytes at the slots, marks the slots, and does nothing more. -/
theorem saveTo_saved (s : State) (l : List ((Nat × Nat) × List Piece)) : SavedOnly s (s.saveTo l) := by
  unfold State.saveTo
  induction l generalizing s with
  | nil => exact .refl s
  | cons x l ih =>
    rw [List.foldl_cons]
    refine SavedOnly.trans ?_ (ih _)
    split
    · exact .refl s
    · have hs := writePieces_store s s.g.core s.g.asid s.g.slotSel.toNat [(s.g.lane x.1.1).threadId] x.2
        (natBytes 4 ((s.g.lane x.1.1).vr x.1.2).toNat)
      have hg := hs.group
      dsimp only
      generalize s.writePieces s.g.core s.g.asid s.g.slotSel.toNat [(s.g.lane x.1.1).threadId] x.2
        (natBytes 4 ((s.g.lane x.1.1).vr x.1.2).toNat) = t at hs hg
      refine ⟨⟨_, ?_, by rw [← hg]; rfl⟩, fun L => ?_⟩
      · have := hs.withG s.g
        exact this
      · show ∃ b, (t.g.slotHolds x.1.1 x.1.2).lane L = _
        rw [← hg]
        unfold Group.slotHolds
        rw [mapLanes_lane _ _ _ _ (by simp)]
        split
        · exact ⟨_, rfl⟩
        · exact ⟨_, rfl⟩

theorem saveTo_wf (s : State) (l : List ((Nat × Nat) × List Piece)) (h : s.MemInv) : (s.saveTo l).MemInv := by
  unfold State.saveTo
  induction l generalizing s with
  | nil => exact h
  | cons x l ih =>
    rw [List.foldl_cons]
    refine ih _ ?_
    split
    · exact h
    · exact writePieces_wf _ _ _ _ _ _ _ h

/-- The copies go to the pieces found for them. -/
theorem saveTo_outside (s : State) (l : List ((Nat × Nat) × List Piece)) (a : Nat)
    (h : ∀ x ∈ l, Outside a (x.2.map (fun p => (p.loc, p.len)))) : (s.saveTo l).mem.get 0 a = s.mem.get 0 a := by
  unfold State.saveTo
  induction l generalizing s with
  | nil => rfl
  | cons x l ih =>
    rw [List.foldl_cons, ih _ (fun y hy => h y (List.mem_cons_of_mem _ hy))]
    split
    · rfl
    · exact writePieces_outside s _ _ _ _ _ _ a (h x List.mem_cons_self)

/-- The slots found for a word's registers lie within its slots' reach. -/
theorem slotPieces_outside {s : State} {i : Instr} {gd : Guard} {a : Nat} (ho : Outside a (s.slotReach i gd)) :
    ∀ x ∈ s.slotPieces (s.g.active gd) (wordRegs i).vw, Outside a (x.2.map (fun p => (p.loc, p.len))) := by
  intro x hx
  unfold State.slotPieces at hx
  obtain ⟨L, hL, hx⟩ := List.mem_flatMap.mp hx
  obtain ⟨n, hn, rfl⟩ := List.mem_map.mp hx
  dsimp only
  have hin : (L, s.slotAddr L n, true) ∈ s.backing (s.g.active gd) (wordRegs i) := by
    unfold State.backing
    exact List.mem_flatMap.mpr ⟨L, hL, List.mem_append_right _ (List.mem_map.mpr ⟨n, hn, rfl⟩)⟩
  split
  · rename_i ps hps
    obtain ⟨e, lvl, addr, hw, rfl⟩ := permitAll_one (w := s.lookup s.g.asid (s.slotAddr L n)) hps
    intro r hr
    refine ho r (List.mem_flatMap.mpr ⟨_, hin, ?_⟩)
    simp only [hw]
    simp only [List.map_cons, List.map_nil, List.mem_singleton] at hr
    rw [hr]
    exact List.mem_cons_self
  · intro r hr
    simp at hr

/-! ### The run of a word -/

/-- A word whose operands are there takes its own checks and effects, in a state that differs from this one in the
translations of its backing slots and in the keep latch. -/
theorem word_ready {s : State} {i : Instr} {gd : Guard} (body : State → Res) (h : s.Ready i gd) :
    ∃ s1 kp, s.checkBacking (s.backing (s.g.active gd) (wordRegs i)) = .ok s1
      ∧ s.word i gd body = .next (((body (s1.withG (s.g.setKeep kp))).saved s.g.gid
          (s.slotPieces (s.g.active gd) (wordRegs i).vw)).finish) := by
  obtain ⟨⟨hrun, hact⟩, htok, hpoi, hback⟩ := h
  obtain ⟨r, hr⟩ := Option.isSome_iff_exists.mp hrun
  have hact' : (s.g.active gd).isEmpty = false := by
    cases hc : s.g.active gd with
    | nil => exact absurd hc hact
    | cons _ _ => rfl
  rcases hcb : s.checkBacking (s.backing (s.g.active gd) (wordRegs i)) with e | s1
  · rw [hcb] at hback; exact absurd hback (by simp [Except.isOk, Except.toBool])
  · have hg : s1.g = s.g := by
      obtain ⟨⟨m, z, h1⟩, -⟩ := checkBacking_spec s s1 _ hcb
      rw [h1]
    obtain ⟨kp, hk⟩ := fillKeep_eq s1.g i (s.g.active gd)
    rw [hg] at hk
    refine ⟨s1, kp, rfl, ?_⟩
    unfold State.word State.operandsReady
    rw [hr]
    simp only [hact', htok, hpoi, hcb, hg, hk, Bool.false_eq_true, if_false]
    rfl

/-- What the group of a word may become by its effects. -/
structure GroupFrame (g h : Group) (vs ps : Nat → Nat → Prop) (ws rs : Nat → Prop) : Prop where
  v : ∀ L n, ¬ vs L n → (h.lane L).vr n = (g.lane L).vr n
  p : ∀ L n, n < 8 → ¬ ps L n → (h.lane L).pred n = (g.lane L).pred n
  w : ∀ n, ¬ ws n → h.wr n = g.wr n
  rng : ∀ L, ¬ rs L → (h.lane L).rng = (g.lane L).rng
  lane : ∀ L, LaneKept (g.lane L) (h.lane L)
  rest : ∃ l w kp, h = { g with lanes := l, w := w, keep := kp }

/-- A state that differs in memory and in the tags of the hierarchy only. -/
def Touched (s t : State) : Prop := ∃ m h, t = { s with mem := m, hier := h }

/-- The rest of the machine that a store leaves as it was. -/
theorem StoreOnly.keeps {s t : State} (h : StoreOnly s t) :
    t.g = s.g ∧ t.others = s.others ∧ t.acc = s.acc ∧ t.accPoison = s.accPoison ∧ t.ctxs = s.ctxs := by
  obtain ⟨_, _, _, _, _, _, ⟨_, _, _, _, _, _, _, _, _, rfl⟩, rfl⟩ := h
  exact ⟨rfl, rfl, rfl, rfl, rfl⟩

theorem advance_keeps (s : State) : s.advance.g.w = s.g.w ∧ s.advance.g.k = s.g.k ∧ RestKept s s.advance
    ∧ s.advance.mem = s.mem := by
  obtain ⟨r, k, l, n, m, p, h⟩ := advance_eq s
  rw [h]
  exact ⟨rfl, rfl, ⟨rfl, rfl, rfl, rfl, rfl, rfl, rfl, rfl, rfl, rfl⟩, rfl⟩

theorem RestKept.trans {s t u : State} (h1 : RestKept s t) (h2 : RestKept t u) : RestKept s u :=
  ⟨h2.1.trans h1.1, h2.2.trans h1.2, h2.3.trans h1.3, h2.4.trans h1.4, h2.5.trans h1.5, h2.6.trans h1.6, h2.7.trans h1.7,
    h2.8.trans h1.8, h2.9.trans h1.9, h2.10.trans h1.10⟩

/-- The copies to backing slots after a word's effects lie within the slots' reach. -/
theorem saved_outside {s s1 t : State} {i : Instr} {gd : Guard}
    (hcb : s.checkBacking (s.backing (s.g.active gd) (wordRegs i)) = .ok s1) (hm : t.mem = s1.mem) (a : Nat)
    (ho : Outside a (s.slotReach i gd)) :
    (t.saveTo (s.slotPieces (s.g.active gd) (wordRegs i).vw)).mem.get 0 a = s.mem.get 0 a := by
  obtain ⟨-, hmem, -⟩ := checkBacking_spec s s1 _ hcb
  rw [saveTo_outside _ _ a (slotPieces_outside ho), hm]
  exact hmem a (by rw [← slotReach_eq]; exact ho)

/-- Opening a word makes translations and fills the keep latch. -/
theorem opened_eq {s : State} {i : Instr} {gd : Guard} (h : s.Ready i gd) :
    ∃ s1 kp, s.checkBacking (s.backing (s.g.active gd) (wordRegs i)) = .ok s1 ∧ Touched s s1
      ∧ s.opened i gd = s1.withG (s.g.setKeep kp) := by
  obtain ⟨s1, kp, hcb, -⟩ := word_ready (fun s => .done s) h
  have ht := (checkBacking_spec s s1 _ hcb).1
  obtain ⟨kq, hk⟩ := fillKeep_eq s1.g i (s.g.active gd)
  refine ⟨s1, kq, hcb, ht, ?_⟩
  unfold State.opened
  rw [hcb]
  have hg : s1.g = s.g := by obtain ⟨_, _, e⟩ := ht; rw [e]
  rw [hg] at hk
  simp only [hg, hk]
  rfl

/-- A ready word takes its own checks and effects in the opened state. -/
theorem word_opened {s : State} {i : Instr} {gd : Guard} (body : State → Res) (h : s.Ready i gd) :
    s.word i gd body = .next (((body (s.opened i gd)).saved s.g.gid
      (s.slotPieces (s.g.active gd) (wordRegs i).vw)).finish) := by
  have h' := h
  obtain ⟨⟨hrun, hact⟩, htok, hpoi, hback⟩ := h
  obtain ⟨r, hr⟩ := Option.isSome_iff_exists.mp hrun
  have hact' : (s.g.active gd).isEmpty = false := by
    cases hc : s.g.active gd with
    | nil => exact absurd hc hact
    | cons _ _ => rfl
  rcases hcb : s.checkBacking (s.backing (s.g.active gd) (wordRegs i)) with e | s1
  · rw [hcb] at hback; exact absurd hback (by simp [Except.isOk, Except.toBool])
  · have hg : s1.g = s.g := by
      obtain ⟨⟨m, z, h1⟩, -⟩ := checkBacking_spec s s1 _ hcb
      rw [h1]
    unfold State.word State.operandsReady State.opened
    rw [hr]
    simp only [hact', htok, hpoi, hcb, Bool.false_eq_true, if_false]

/-- The end of a word whose effects have been taken, its backing slots aside. -/
theorem finish_parts (t : State) (sl : List ((Nat × Nat) × List Piece)) :
    let r := (t.saveTo sl).advance
    (∀ L, ∃ pc b, r.g.lane L = { t.g.lane L with pc := pc, inSlot := b }) ∧ r.g.w = t.g.w ∧ r.g.k = t.g.k ∧ RestKept t r := by
  intro r
  obtain ⟨⟨l, hs, hg⟩, hl⟩ := saveTo_saved t sl
  obtain ⟨kg, ko, ka, kp, kc⟩ := hs.keeps
  obtain ⟨aw, ak, ar, am⟩ := advance_keeps (t.saveTo sl)
  have al := advance_lane (t.saveTo sl)
  refine ⟨fun L => ?_, by rw [aw, hg], by rw [ak, hg], ?_⟩
  · obtain ⟨pc, hpc⟩ := al L
    obtain ⟨b, hb⟩ := hl L
    exact ⟨pc, b, by rw [hpc, hb]⟩
  · exact ⟨by rw [ar.1, hg], by rw [ar.2, hg], by rw [ar.3, hg], by rw [ar.4, hg], by rw [ar.5, hg], by rw [ar.6, hg],
      by rw [ar.7]; exact ko, by rw [ar.8]; exact ka, by rw [ar.9]; exact kp, by rw [ar.10]; exact kc⟩

/-- The end of a word whose effects have been taken. -/
theorem finish_frame {s s1 t : State} {i : Instr} {gd : Guard} {vs ps : Nat → Nat → Prop} {ws rs : Nat → Prop}
    (hcb : s.checkBacking (s.backing (s.g.active gd) (wordRegs i)) = .ok s1) (hm : t.mem = s1.mem)
    (ho : t.others = s.others) (hac : t.acc = s.acc) (hap : t.accPoison = s.accPoison) (hc : t.ctxs = s.ctxs)
    (hg : GroupFrame s.g t.g vs ps ws rs) :
    (∀ L, ∃ pc b, ((t.saveTo (s.slotPieces (s.g.active gd) (wordRegs i).vw)).advance.g.lane L)
        = { t.g.lane L with pc := pc, inSlot := b })
      ∧ (t.saveTo (s.slotPieces (s.g.active gd) (wordRegs i).vw)).advance.g.w = t.g.w
      ∧ WordFrame s (t.saveTo (s.slotPieces (s.g.active gd) (wordRegs i).vw)).advance i gd vs ps ws rs [] := by
  have hout := fun a => saved_outside hcb hm a
  have hmem := (advance_keeps (t.saveTo (s.slotPieces (s.g.active gd) (wordRegs i).vw))).2.2.2
  obtain ⟨hlane, hw, hk, hrest⟩ := finish_parts t (s.slotPieces (s.g.active gd) (wordRegs i).vw)
  generalize t.saveTo (s.slotPieces (s.g.active gd) (wordRegs i).vw) = u at hout hmem hlane hw hk hrest
  generalize u.advance = r at hmem hlane hw hk hrest
  refine ⟨hlane, hw, ⟨?_, ?_, ?_, ?_, ?_, ?_⟩, ?_, ?_⟩
  · intro L n hn
    obtain ⟨pc, b, hpc⟩ := hlane L
    rw [hpc]; exact hg.v L n hn
  · intro L n h8 hn
    obtain ⟨pc, b, hpc⟩ := hlane L
    rw [hpc]; exact hg.p L n h8 hn
  · intro n hn
    have : r.g.wr n = t.g.wr n := by unfold Group.wr; rw [hw]
    rw [this]; exact hg.w n hn
  · intro L hL
    obtain ⟨pc, b, hpc⟩ := hlane L
    rw [hpc]; exact hg.rng L hL
  · obtain ⟨_, _, _, e⟩ := hg.rest
    rw [hk, e]
  · intro L
    obtain ⟨pc, b, hpc⟩ := hlane L
    rw [hpc]
    exact ⟨(hg.lane L).status, (hg.lane L).threadId, (hg.lane L).mr, (hg.lane L).hold, (hg.lane L).ypc⟩
  · obtain ⟨_, _, _, e⟩ := hg.rest
    refine RestKept.trans ?_ hrest
    exact ⟨by rw [e], by rw [e], by rw [e], by rw [e], by rw [e], by rw [e], ho, hac, hap, hc⟩
  · intro a ha
    rw [hmem]
    exact hout a (by simpa using ha)

/-- A word whose effects change its group alone: it completes, its lanes are as the effects leave them but for their PCs,
and the frame of the effects is the frame of the word. -/
theorem word_group {s : State} {i : Instr} {gd : Guard} {body : State → Res} {h : Option Keep → Group}
    {vs ps : Nat → Nat → Prop} {ws rs : Nat → Prop} (hexec : exec i s = s.word i gd body) (hr : s.Ready i gd)
    (hbody : ∀ s1 kp, Touched s s1 → body (s1.withG (s.g.setKeep kp)) = .done (s1.withG (h kp)))
    (hframe : ∀ kp, GroupFrame s.g (h kp) vs ps ws rs) :
    Completes i s (fun t => (∃ kp, (∀ L, ∃ pc b, t.g.lane L = { (h kp).lane L with pc := pc, inSlot := b }) ∧ t.g.w = (h kp).w)
      ∧ WordFrame s t i gd vs ps ws rs []) := by
  obtain ⟨s1, kp, hcb, hw⟩ := word_ready body hr
  have ht : Touched s s1 := (checkBacking_spec s s1 _ hcb).1
  rw [hbody s1 kp ht] at hw
  have hk : s1.others = s.others ∧ s1.acc = s.acc ∧ s1.accPoison = s.accPoison ∧ s1.ctxs = s.ctxs := by
    obtain ⟨_, _, e⟩ := ht
    rw [e]; exact ⟨rfl, rfl, rfl, rfl⟩
  obtain ⟨hl, hww, hf⟩ := finish_frame (t := (s1.withG (h kp))) hcb rfl hk.1 hk.2.1 hk.2.2.1 hk.2.2.2 (hframe kp)
  exact ⟨_, hexec.trans hw, ⟨kp, hl, hww⟩, hf⟩

end Sys2Proof.Machine
end

