-- ==== Sys2Proof/Laws/LaneWords.lean ====
section
/-! SUPPORT. Words whose effects are writes to registers or predicates of their executing lanes, or to w registers: one
lemma for each shared operation. -/

namespace Sys2Proof.Machine

/-- Changing the lanes of a list: what holds of the change in every lane holds of the group. -/
theorem mapLanes_frame (g : Group) (ls : List Nat) (f : Nat → Lane → Lane) (hd : ls.Nodup) (kp : Option Keep)
    {vs ps : Nat → Nat → Prop} {rs : Nat → Prop}
    (hv : ∀ L ∈ ls, ∀ n, ¬ vs L n → (f L (g.lane L)).vr n = (g.lane L).vr n)
    (hp : ∀ L ∈ ls, ∀ n, n < 8 → ¬ ps L n → (f L (g.lane L)).pred n = (g.lane L).pred n)
    (hr : ∀ L ∈ ls, ¬ rs L → (f L (g.lane L)).rng = (g.lane L).rng)
    (hk : ∀ L ∈ ls, LaneKept (g.lane L) (f L (g.lane L))) :
    GroupFrame g ((g.mapLanes ls f).setKeep kp) vs ps none1 rs := by
  have hl : ∀ L, ((g.mapLanes ls f).setKeep kp).lane L = if L ∈ ls then f L (g.lane L) else g.lane L :=
    fun L => mapLanes_lane g ls f L hd
  refine ⟨fun L n h => ?_, fun L n h8 h => ?_, fun _ _ => rfl, fun L h => ?_, fun L => ?_, ⟨_, _, _, rfl⟩⟩
  · rw [hl]; split
    · exact hv L ‹_› n h
    · rfl
  · rw [hl]; split
    · exact hp L ‹_› n h8 h
    · rfl
  · rw [hl]; split
    · exact hr L ‹_› h
    · rfl
  · rw [hl]; split
    · exact hk L ‹_›
    · exact ⟨rfl, rfl, rfl, rfl, rfl⟩

theorem pc_vrN (x : Lane) (pc : W32) (b : SMap Bool) (n k : Nat) :
    ({ x with pc := pc, inSlot := b } : Lane).vrN n k = x.vrN n k :=
  vrN_congr _ _ _ _ (fun _ _ _ => rfl)

/-- A register written in a lane. -/
theorem vwN_kept (x : Lane) (n k y : Nat) : LaneKept x (x.vwN n k y) := by
  obtain ⟨v, q, h⟩ := vwN_eq x n k y
  rw [h]; exact ⟨rfl, rfl, rfl, rfl, rfl⟩

theorem writeV_lane (g : Group) (ls : List Nat) (n k : Nat) (f : Nat → Nat) (L : Nat) (hd : ls.Nodup) :
    (g.writeV ls n k f).lane L = if L ∈ ls then (g.lane L).vwN n k (f L) else g.lane L := by
  unfold Group.writeV
  obtain ⟨kp, h⟩ := touchKeep_eq (g.mapLanes ls (fun L x => x.vwN n k (f L))) n k
  rw [h]
  exact mapLanes_lane g ls (fun L x => x.vwN n k (f L)) L hd

theorem writeV_frame (g : Group) (ls : List Nat) (n k : Nat) (f : Nat → Nat) (hd : ls.Nodup) :
    GroupFrame g (g.writeV ls n k f) (regsOf ls n k) noRegs none1 none1 := by
  unfold Group.writeV
  obtain ⟨kp, h⟩ := touchKeep_eq (g.mapLanes ls (fun L x => x.vwN n k (f L))) n k
  rw [h]
  refine mapLanes_frame g ls _ hd kp (fun L hL j hj => ?_) (fun L _ j _ _ => ?_) (fun L _ _ => ?_) (fun L _ => vwN_kept _ _ _ _)
  · rw [vwN_vr, if_neg (fun hc => hj ⟨hL, hc⟩)]
  · obtain ⟨v, q, e⟩ := vwN_eq (g.lane L) n k (f L)
    rw [e]; rfl
  · obtain ⟨v, q, e⟩ := vwN_eq (g.lane L) n k (f L)
    rw [e]

/-- A frame of a group does not see the keep latch. -/
theorem GroupFrame.of_keep {g h : Group} {kp : Option Keep} {vs ps : Nat → Nat → Prop} {ws rs : Nat → Prop}
    (hf : GroupFrame (g.setKeep kp) h vs ps ws rs) : GroupFrame g h vs ps ws rs :=
  ⟨hf.v, hf.p, hf.w, hf.rng, hf.lane, by obtain ⟨l, w, k, e⟩ := hf.rest; exact ⟨l, w, k, e⟩⟩

/-- A word whose effect is a value in DST of its executing lanes. -/
theorem laneWord_write {s : State} {i : Instr} {gd : Guard} {dst k : Nat} {body : State → Res}
    (f : Option Keep → Nat → Nat) (val : Nat → Nat) (hexec : exec i s = s.word i gd body)
    (hbody : ∀ s1 kp, Touched s s1 → body (s1.withG (s.g.setKeep kp))
      = .done (s1.withG ((s.g.setKeep kp).writeV (s.g.executing gd) dst k (f kp))))
    (hval : ∀ kp, ∀ L ∈ s.g.executing gd, f kp L = val L) :
    LaneWord s i gd dst k val := by
  intro hr
  obtain ⟨t, ht, ⟨kp, hl, -⟩, hf⟩ := word_group hexec hr hbody
    (fun kp => (writeV_frame (s.g.setKeep kp) (s.g.executing gd) dst k (f kp) (executing_nodup _ _)).of_keep)
  refine ⟨t, ht, fun L hL => ?_, hf⟩
  obtain ⟨pc, b, hpc⟩ := hl L
  rw [hpc, writeV_lane _ _ _ _ _ _ (executing_nodup _ _), if_pos hL]
  rw [pc_vrN, vwN_vrN, hval kp L hL]

/-- State.alu: the value computed from the group as it stood. -/
theorem laneWord_alu {s : State} {i : Instr} {gd : Guard} {dst k : Nat} {f : Group → Nat → Nat} (val : Nat → Nat)
    (hexec : exec i s = s.alu i gd dst k f) (hval : ∀ kp, f (s.g.setKeep kp) = val) : LaneWord s i gd dst k val :=
  laneWord_write (fun kp => f (s.g.setKeep kp)) val hexec (fun _ _ _ => rfl) (fun kp L _ => by rw [hval])

/-! ### Predicates -/

theorem writeP_frame (g : Group) (ls : List Nat) (n : Nat) (f : Nat → Bool) (hd : ls.Nodup) :
    GroupFrame g (g.writeP ls n f) noRegs (regsOf ls n 1) none1 none1 := by
  refine mapLanes_frame g ls (fun L x => x.setPred n (f L)) hd g.keep (fun _ _ _ _ => rfl) (fun L hL j h8 hj => ?_)
    (fun _ _ _ => rfl) (fun _ _ => ⟨rfl, rfl, rfl, rfl, rfl⟩)
  rw [setPred_pred _ _ _ _ h8, if_neg]
  rintro rfl
  exact hj ⟨hL, le_refl _, by omega⟩

/-- State.aluP. -/
theorem predWord_alu {s : State} {i : Instr} {gd : Guard} {p : Nat} {f : Group → Nat → Bool} (val : Nat → Bool)
    (hexec : exec i s = s.aluP i gd p f) (hval : ∀ kp, f (s.g.setKeep kp) = val) (hp : p < 8) :
    PredWord s i gd p val := by
  intro hr
  obtain ⟨t, ht, ⟨kp, hl, -⟩, hf⟩ := word_group
    (h := fun kp => (s.g.setKeep kp).writeP (s.g.executing gd) p (f (s.g.setKeep kp)))
    hexec hr (fun _ _ _ => rfl)
    (fun kp => (writeP_frame (s.g.setKeep kp) (s.g.executing gd) p _ (executing_nodup _ _)).of_keep)
  refine ⟨t, ht, fun L hL => ?_, hf⟩
  obtain ⟨pc, b, hpc⟩ := hl L
  rw [hpc]
  have h1 : ((s.g.setKeep kp).writeP (s.g.executing gd) p (f (s.g.setKeep kp))).lane L
      = (s.g.lane L).setPred p (val L) := by
    unfold Group.writeP
    rw [mapLanes_lane _ _ _ _ (executing_nodup _ _), if_pos hL, hval]
    rfl
  rw [h1]
  show ((s.g.lane L).setPred p (val L)).pred p = _
  rw [setPred_pred _ _ _ _ hp, if_pos rfl]

/-! ### w registers -/

theorem wwN_frame (g : Group) (n k y : Nat) : GroupFrame g (g.wwN n k y) noRegs noRegs (fun j => n ≤ j ∧ j < n + k) none1 := by
  obtain ⟨w, h⟩ := wwN_eq g n k y
  refine ⟨?_, ?_, fun j hj => ?_, ?_, ?_, ⟨_, w, _, h⟩⟩
  · rw [h]; exact fun _ _ _ => rfl
  · rw [h]; exact fun _ _ _ _ => rfl
  · rw [wwN_wr, if_neg hj]
  · rw [h]; exact fun _ _ => rfl
  · rw [h]; exact fun _ => ⟨rfl, rfl, rfl, rfl, rfl⟩

/-- A word whose effect is a uniform value. -/
theorem uniformWord_write {s : State} {i : Instr} {gd : Guard} {dst k val : Nat} {body : State → Res}
    (hexec : exec i s = s.word i gd body)
    (hbody : ∀ s1 kp, Touched s s1 → body (s1.withG (s.g.setKeep kp)) = .done (s1.withG ((s.g.setKeep kp).wwN dst k val))) :
    UniformWord s i gd dst k val := by
  intro hr
  obtain ⟨t, ht, ⟨kp, -, hw⟩, hf⟩ := word_group hexec hr hbody (fun kp => (wwN_frame (s.g.setKeep kp) dst k val).of_keep)
  refine ⟨t, ht, ?_, hf⟩
  have h1 : t.g.wrN dst k = ((s.g.setKeep kp).wwN dst k val).wrN dst k := by
    have : ∀ j, t.g.wr j = ((s.g.setKeep kp).wwN dst k val).wr j := fun j => by unfold Group.wr; rw [hw]
    generalize ((s.g.setKeep kp).wwN dst k val) = h at this
    clear hbody ht hf hw
    induction k generalizing dst with
    | zero => rfl
    | succ k ih => simp only [Group.wrN, this, ih]
  rw [h1, wwN_wrN]

/-! ### Rounding -/

/-- State.rounding. -/
theorem roundWord_rounding {s : State} {i : Instr} {gd : Guard} {code n dst k : Nat}
    {f : Group → Rm → List Nat → Nat → Nat} (val : List Nat → Nat → Nat)
    (hexec : exec i s = s.rounding i gd code n dst k f)
    (hval : ∀ kp us L, f (s.g.setKeep kp) (s.g.rm code) us L = val us L) : RoundWord s i gd code n dst k val := by
  intro hr
  let lane (kp : Option Keep) (L : Nat) (x : Lane) : Lane :=
    if s.g.rm code = .rs then
      { x.vwN dst k (f (s.g.setKeep kp) (s.g.rm code) (draws n x.rng).1 L) with rng := (draws n x.rng).2 }
    else x.vwN dst k (f (s.g.setKeep kp) (s.g.rm code) [] L)
  have hlane : ∀ kp L x, ∃ v q r, lane kp L x = { x with v := v, vPoison := q, rng := r }
      ∧ (s.g.rm code ≠ .rs → r = x.rng)
      ∧ (∀ j, ¬ (dst ≤ j ∧ j < dst + k) → (lane kp L x).vr j = x.vr j) := by
    intro kp L x
    simp only [lane]
    split
    · rename_i hm
      obtain ⟨v, q, h⟩ := vwN_eq x dst k (f (s.g.setKeep kp) (s.g.rm code) (draws n x.rng).1 L)
      refine ⟨v, q, (draws n x.rng).2, by rw [h], fun h => absurd hm h, fun j hj => ?_⟩
      have := vwN_vr x dst k (f (s.g.setKeep kp) (s.g.rm code) (draws n x.rng).1 L) j
      rw [if_neg hj] at this
      exact this
    · obtain ⟨v, q, h⟩ := vwN_eq x dst k (f (s.g.setKeep kp) (s.g.rm code) [] L)
      refine ⟨v, q, x.rng, by rw [h], fun _ => rfl, fun j hj => ?_⟩
      rw [vwN_vr, if_neg hj]
  obtain ⟨t, ht, ⟨kp, hl, -⟩, hf⟩ := word_group (vs := regsOf (s.g.executing gd) dst k) (ps := noRegs) (ws := none1)
    (rs := fun L => s.g.rm code = .rs ∧ L ∈ s.g.executing gd)
    (h := fun kp => (((s.g.setKeep kp).mapLanes (s.g.executing gd) (lane kp)).touchKeep dst k)) hexec hr (fun _ _ _ => rfl)
    (fun kp => by
      obtain ⟨kq, hq⟩ := touchKeep_eq ((s.g.setKeep kp).mapLanes (s.g.executing gd) (lane kp)) dst k
      rw [hq]
      refine GroupFrame.of_keep (kp := kp) (mapLanes_frame (s.g.setKeep kp) _ _ (executing_nodup _ _) _ ?_ ?_ ?_ ?_)
      · intro L hL j hj
        exact (hlane kp L _).choose_spec.choose_spec.choose_spec.2.2 j (fun hc => hj ⟨hL, hc⟩)
      · intro L _ j _ _
        obtain ⟨v, q, r, h, -⟩ := hlane kp L ((s.g.setKeep kp).lane L)
        rw [h]; rfl
      · intro L hL hrs
        obtain ⟨v, q, r, h, hr, -⟩ := hlane kp L ((s.g.setKeep kp).lane L)
        rw [h]
        exact hr (fun hm => hrs ⟨hm, hL⟩)
      · intro L _
        obtain ⟨v, q, r, h, -⟩ := hlane kp L ((s.g.setKeep kp).lane L)
        rw [h]; exact ⟨rfl, rfl, rfl, rfl, rfl⟩)
  refine ⟨t, ht, fun L hL => ?_, hf⟩
  obtain ⟨pc, b, hpc⟩ := hl L
  have hL' : ((((s.g.setKeep kp).mapLanes (s.g.executing gd) (lane kp)).touchKeep dst k).lane L) = lane kp L (s.g.lane L) := by
    obtain ⟨kq, hq⟩ := touchKeep_eq ((s.g.setKeep kp).mapLanes (s.g.executing gd) (lane kp)) dst k
    rw [hq, setKeep_lane, mapLanes_lane _ _ _ _ (executing_nodup _ _), if_pos hL]
    rfl
  rw [hL'] at hpc
  refine ⟨fun hm => ?_, fun hm => ?_⟩
  · have hm' : s.g.rm code = .rs := hm
    simp only [lane, hm', if_true] at hpc
    rw [hpc]
    refine ⟨?_, rfl⟩
    rw [← hval kp (draws n (s.g.lane L).rng).1 L, ← vwN_vrN (s.g.lane L) dst k, hm']
    exact vrN_congr _ _ _ _ (fun _ _ _ => rfl)
  · have hm' : ¬ s.g.rm code = .rs := hm
    simp only [lane, hm', if_false] at hpc
    rw [hpc, ← hval kp [] L, ← vwN_vrN (s.g.lane L) dst k]
    exact vrN_congr _ _ _ _ (fun _ _ _ => rfl)

/-! ### Traps -/

/-- A word whose body ends in a trap without having changed anything. -/
theorem word_trap {s : State} {i : Instr} {gd : Guard} {body : State → Res} {t : Trap}
    (hexec : exec i s = s.word i gd body) (hr : s.Ready i gd)
    (hbody : ∀ s1 kp, Touched s s1 → body (s1.withG (s.g.setKeep kp)) = .trap (s1.withG (s.g.setKeep kp)) t) :
    Traps i s t := by
  obtain ⟨s1, kp, hcb, hw⟩ := word_ready body hr
  have ht : Touched s s1 := (checkBacking_spec s s1 _ hcb).1
  rw [hbody s1 kp ht] at hw
  obtain ⟨m, z, e⟩ := ht
  refine ⟨s1.withG (s.g.setKeep kp), ?_, hexec.trans hw⟩
  unfold SameButSlots
  rw [e]; rfl

end Sys2Proof.Machine
end

