-- ==== Sys2Proof/Laws/MemoryOps.lean ====
section
/-! SUPPORT. The operations that move or clear whole runs of memory keep its canonical form, and what an overlay leaves
in each entry. -/

namespace Sys2Proof.Machine

/-- Entries kept by a filter keep the canonical form. -/
theorem filter_wf (m : SMap Byte) (p : Nat × Byte → Bool) (h : Memory.wf m = true) : Memory.wf (m.filter p) = true :=
  SMap.wf_filter 0 m p h

/-- Writing a list of entries keeps the canonical form. -/
theorem putAll_wf (l m : SMap Byte) (h : Memory.wf m = true) :
    Memory.wf (l.foldl (fun m c => SMap.put 0 m c.1 c.2) m) = true := by
  induction l generalizing m with
  | nil => exact h
  | cons c l ih => exact ih _ (SMap.wf_put 0 m c.1 c.2 h)

/-- An overlay keeps the canonical form, whatever it lays over. -/
theorem overlayOf_wf (m new : SMap Byte) (key n : Nat) (h : Memory.wf m = true) : Memory.wf (overlayOf 0 m key n new) = true :=
  putAll_wf _ _ (filter_wf m _ h)

/-- Writing entries leaves every other key as it was. -/
theorem putAll_other {α : Type} [DecidableEq α] (d : α) (l m : SMap α) (k : Nat) (h : ∀ c ∈ l, c.1 ≠ k) :
    (l.foldl (fun m c => SMap.put d m c.1 c.2) m).get d k = m.get d k := by
  induction l generalizing m with
  | nil => rfl
  | cons c l ih =>
    rw [List.foldl_cons, ih _ (fun x hx => h x (List.mem_cons_of_mem _ hx)), SMap.get_put_other]
    exact h c List.mem_cons_self

/-- Outside its run an overlay leaves every entry as it was. -/
theorem overlayOf_outside {α : Type} [DecidableEq α] (d : α) (m new : SMap α) (key n k : Nat) (h : k < key ∨ key + n ≤ k) :
    (overlayOf d m key n new).get d k = m.get d k := by
  unfold overlayOf
  rw [putAll_other]
  · exact get_filter d m (fun j => decide (j < key) || decide (key + n ≤ j)) k (by simpa using h)
  · intro c hc
    simp only [List.mem_filter, Bool.and_eq_true, decide_eq_true_eq] at hc
    omega

theorem zeroFrame_wf (s : State) (pa : Nat) (h : s.MemInv) : (s.zeroFrame pa).MemInv := filter_wf _ _ h
theorem moveBytes_wf (s : State) (src dst n : Nat) (h : s.MemInv) : (s.moveBytes src dst n).MemInv := overlayOf_wf _ _ _ _ h
theorem restart_wf (s : State) (h : s.MemInv) : s.restart.MemInv := filter_wf _ _ h
theorem zeroModule_wf (s : State) (h : s.MemInv) : s.zeroModule.MemInv := filter_wf _ _ h
theorem copyFrame_wf (s : State) (src dst lvl : Nat) (h : s.MemInv) : (s.copyFrame src dst lvl).MemInv := overlayOf_wf _ _ _ _ h
theorem rewriteEntry_wf (s : State) (addr : Nat) (e : W64) (h : s.MemInv) :
    (s.rewriteEntry addr e).MemInv := putBytes_wf _ _ _ h
theorem restoreBlock_wf (s : State) (all : List (Block × Nat)) (b : Block) (core : Nat) (h : s.MemInv) :
    (s.restoreBlock all b core).MemInv := overlayOf_wf _ _ _ _ h

/-- Bytes outside the run they are moved to stay as they were. -/
theorem moveBytes_outside (s : State) (src dst n a : Nat) (h : a < dst ∨ dst + n ≤ a) :
    (s.moveBytes src dst n).mem.get 0 a = s.mem.get 0 a := overlayOf_outside 0 _ _ _ _ _ h

/-- An operation that leaves memory as it was keeps its form. -/
theorem State.MemInv.of_eq {s t : State} (h : s.MemInv) (e : t.mem = s.mem) : t.MemInv := by
  unfold State.MemInv at *
  rw [e]; exact h

end Sys2Proof.Machine
end

