-- ==== Sys2Proof/Laws/Sources.lean ====
section
/-! SUPPORT. The sources of a word do not depend on the keep latch. -/

namespace Sys2Proof.Machine

variable (g : Group) (x : Option Keep)

@[simp] theorem setKeep_srcVal (t : Ty) (s : Src) (L : Nat) : (g.setKeep x).srcVal t s L = g.srcVal t s L := by
  simp [Group.srcVal]
@[simp] theorem setKeep_src32 (t : Ty) (s : Src) (L : Nat) : (g.setKeep x).src32 t s L = g.src32 t s L := by
  simp [Group.src32]
@[simp] theorem setKeep_srcEnc (t : Ty) (s : Src) (L : Nat) : (g.setKeep x).srcEnc t s L = g.srcEnc t s L := by
  cases s <;> simp [Group.srcEnc]
@[simp] theorem setKeep_srcNum (t : Ty) (s : Src) (L : Nat) : (g.setKeep x).srcNum t s L = g.srcNum t s L := by
  simp [Group.srcNum]
@[simp] theorem setKeep_srcPacked (t : Ty) (s : Src) (e L : Nat) : (g.setKeep x).srcPacked t s e L = g.srcPacked t s e L := by
  cases s <;> simp [Group.srcPacked]
@[simp] theorem setKeep_srcRed (t : Ty) (s : Src) (L : Nat) : (g.setKeep x).srcRed t s L = g.srcRed t s L := by
  simp [Group.srcRed]
theorem setKeep_srcRed_fn (t : Ty) (s : Src) : (g.setKeep x).srcRed t s = g.srcRed t s := by
  funext L; simp
@[simp] theorem setKeep_srcTriple (s : Src) (L : Nat) : (g.setKeep x).srcTriple s L = g.srcTriple s L := by
  simp [Group.srcTriple]
@[simp] theorem setKeep_lowest (gd : Guard) : (g.setKeep x).lowest gd = g.lowest gd := rfl
@[simp] theorem setKeep_voters (f : FmtA) : (g.setKeep x).voters f = g.voters f := rfl
@[simp] theorem setKeep_resultLane (gd : Guard) (L : Nat) : (g.setKeep x).resultLane gd L = g.resultLane gd L := rfl
@[simp] theorem setKeep_rm (c : Nat) : (g.setKeep x).rm c = g.rm c := rfl
@[simp] theorem setKeep_laneAddr (f : FmtM) (z L : Nat) : (g.setKeep x).laneAddr f z L = g.laneAddr f z L := by
  simp [Group.laneAddr]
@[simp] theorem setKeep_uniAddr (f : FmtM) (z : Nat) : (g.setKeep x).uniAddr f z = g.uniAddr f z := by
  simp [Group.uniAddr]

end Sys2Proof.Machine
end

