-- ==== Sys2Proof/Machine/ZasText.lean ====
section
/-! DEFINITION. The text of the assembly language zas: source lines (R65), operands (R66), numbers and expressions
(R68), and the exact conversion of a constant to the type of its operand (R51, R68). A source is a list of
characters. -/

namespace Sys2Proof.Machine.Zas

/-- The errors of R73. -/
inductive Error where
  /-- a line of none of the forms of R65, or an operand of none of the forms of R66 -/
  | form
  /-- an unknown mnemonic or directive -/
  | unknown
  /-- a suffix that is unknown, that the instruction does not accept, or out of order (R67) -/
  | suffix
  /-- a register outside its limits -/
  | register
  /-- a target that is no label of the kernel -/
  | target
  /-- a label defined twice in one kernel -/
  | duplicate
  /-- a yield handler named outside a segment -/
  | yieldOutside
  /-- a role beyond the fifth, or group counts above 32 -/
  | roles
  /-- an immediate that R68 rejects -/
  | immediate
  /-- a kernel above the resource floor without a device class (R72) -/
  | floor
  /-- a directive outside its place, or an operand of it outside its limits (R70) -/
  | directive
deriving DecidableEq, Repr

/-! ### Characters and lines (R65) -/

def isStart (c : Char) : Bool := c.isAlpha || c == '_'
def isPart (c : Char) : Bool := c.isAlphanum || c == '_'
def isBlank (c : Char) : Bool := c == ' ' || c == '\t' || c == '\r'

def trim (t : List Char) : List Char := (((t.dropWhile isBlank).reverse).dropWhile isBlank).reverse

/-- The parts of a text between the occurrences of a character. -/
def splitAt (c : Char) : List Char → List (List Char)
  | [] => [[]]
  | x :: xs =>
    match splitAt c xs with
    | [] => [[x]]
    | p :: ps => if x == c then [] :: p :: ps else (x :: p) :: ps

def lower (t : List Char) : List Char := t.map Char.toLower

/-- A text that is an identifier. -/
def ident (t : List Char) : Option String :=
  match t with
  | c :: cs => if isStart c && cs.all isPart then some (String.ofList t) else none
  | [] => none

/-- A source line: a label, a guard, then a mnemonic with its suffixes or a directive, and the operands as texts. The
head is in lower case; `dot` says that it began with a dot. -/
structure Line where
  label : Option String
  guard : Guard
  dot : Bool
  head : List String
  args : List (List Char)
deriving DecidableEq, Repr

/-- A guard `(pn)` or `(!pn)` at the head of a text, with what follows it. -/
def guardOf (t : List Char) : Except Error (Guard × List Char) :=
  match t with
  | '(' :: '!' :: 'p' :: d :: ')' :: r => if '0' ≤ d ∧ d ≤ '7' then .ok (.on true (BitVec.ofNat 3 (d.toNat - 48)), r) else .error .form
  | '(' :: 'p' :: d :: ')' :: r => if '0' ≤ d ∧ d ≤ '7' then .ok (.on false (BitVec.ofNat 3 (d.toNat - 48)), r) else .error .form
  | '(' :: _ => .error .form
  | _ => .ok (.always, t)

/-- A line's operands: the texts between the commas, none where there is no text. -/
def argsOf (t : List Char) : List (List Char) :=
  if (trim t).isEmpty then [] else (splitAt ',' t).map trim

/-- One line of a source; its comment is dropped (R65). Mnemonics, suffixes, predicates and directives do not depend on
case. -/
def lineOf (t : List Char) : Except Error Line :=
  let t := trim (t.takeWhile (fun c => c != ';'))
  let i := t.takeWhile isPart
  let (label, t) := match ident i, t.drop i.length with
    | some s, ':' :: r => (some s, trim r)
    | _, _ => (none, t)
  let low := match t with
    | '(' :: _ => lower (t.take 5) ++ t.drop 5
    | _ => t
  match guardOf low with
  | .error e => .error e
  | .ok (g, r) =>
    let r := trim r
    let h := r.takeWhile (fun c => !isBlank c)
    let args := argsOf (r.drop h.length)
    match h with
    | [] => if g = .always then .ok { label := label, guard := g, dot := false, head := [], args := [] } else .error .form
    | '.' :: d =>
      if label.isSome || g ≠ .always then .error .form
      else .ok { label := none, guard := g, dot := true, head := [String.ofList (lower d)], args := args }
    | _ => .ok { label := label, guard := g, dot := false, head := (splitAt '.' (lower h)).map String.ofList, args := args }

/-! ### Numbers and expressions (R68) -/

/-- The value of a digit of any base up to 16. -/
def digit (c : Char) : Nat :=
  if '0' ≤ c ∧ c ≤ '9' then c.toNat - 48 else if 'a' ≤ c ∧ c ≤ 'f' then c.toNat - 87
  else if 'A' ≤ c ∧ c ≤ 'F' then c.toNat - 55 else 99

/-- Digits of a base, with underscores between them. -/
def digits (base : Nat) (t : List Char) : Option Nat :=
  let ok (c : Option Char) := match c with | some c => decide (digit c < base) | none => false
  if ok t.head? && ok t.getLast? && t.all (fun c => c == '_' || decide (digit c < base)) then
    some ((t.filter (· != '_')).foldl (fun n c => base * n + digit c) 0)
  else none

/-- A number without a sign: decimal, hexadecimal or binary. -/
def number (t : List Char) : Option Nat :=
  match t with
  | '0' :: 'x' :: r => digits 16 r
  | '0' :: 'X' :: r => digits 16 r
  | '0' :: 'b' :: r => digits 2 r
  | '0' :: 'B' :: r => digits 2 r
  | _ => digits 10 t

/-- The value of an operand that is no register: an integer, a decimal constant ±n × 10^p, or a name that is no constant
and so can only be a label. -/
inductive Value where
  | int (x : Int)
  | dec (neg : Bool) (n : Nat) (p : Int)
  | name (s : String)
deriving DecidableEq, Repr

/-- A decimal floating-point constant: it has a point or an exponent. -/
def decimal (t : List Char) : Option Value :=
  let (neg, t) := match t with
    | '-' :: r => (true, r)
    | _ => (false, t)
  let m := t.takeWhile (fun c => c != 'e' && c != 'E')
  let ex : Option (Option Int) := match t.drop m.length with
    | [] => some none
    | _ :: '-' :: r => (digits 10 r).map (fun n => some (-(n : Int)))
    | _ :: '+' :: r => (digits 10 r).map (fun n => some (n : Int))
    | _ :: r => (digits 10 r).map (fun n => some (n : Int))
  match splitAt '.' m, ex with
  | [a], some (some e) => (digits 10 a).map (fun n => .dec neg n e)
  | [a, b], some e =>
    if b.isEmpty then none
    else match digits 10 a, digits 10 b with
      | some x, some y =>
        let k := (b.filter (· != '_')).length
        some (.dec neg (x * 10 ^ k + y) ((e.getD 0) - k))
      | _, _ => none
  | _, _ => none

/-- Tokens of an expression; a shift is one token, `<` or `>`. -/
inductive Tok where
  | num (n : Nat)
  | name (s : String)
  | op (c : Char)
deriving DecidableEq, Repr

/-- The tokens of an expression, with fuel for its length. -/
def tokens : Nat → List Char → Option (List Tok)
  | 0, t => if t.isEmpty then some [] else none
  | k + 1, t =>
    match t.dropWhile isBlank with
    | [] => some []
    | '<' :: '<' :: r => (tokens k r).map (.op '<' :: ·)
    | '>' :: '>' :: r => (tokens k r).map (.op '>' :: ·)
    | c :: r =>
      if isPart c then
        let w := (c :: r).takeWhile isPart
        let rest := tokens k ((c :: r).drop w.length)
        match number w, ident w with
        | some n, _ => rest.map (.num n :: ·)
        | none, some s => rest.map (.name s :: ·)
        | none, none => none
      else if ['+', '-', '*', '/', '&', '|', '(', ')'].contains c then (tokens k r).map (.op c :: ·)
      else none

/-- How tightly an operator binds: the usual order, which R68 leaves open. DESIGN CHOICE, log 121. -/
def level (c : Char) : Nat :=
  if c == '*' || c == '/' then 5 else if c == '+' || c == '-' then 4 else if c == '<' || c == '>' then 3
  else if c == '&' then 2 else if c == '|' then 1 else 0

/-- A value as a 64-bit two's-complement integer. -/
def wrap (x : Int) : Int := (BitVec.ofInt 64 x).toInt

/-- An operator on 64-bit two's-complement integers; a division by zero has no value. -/
def apply (c : Char) (a b : Int) : Option Int :=
  match c with
  | '+' => some (wrap (a + b))
  | '-' => some (wrap (a - b))
  | '*' => some (wrap (a * b))
  | '/' => if b = 0 then none else some (wrap (a.tdiv b))
  | '<' => if b < 0 then none else some (wrap (if 64 ≤ b then 0 else a * 2 ^ b.toNat))
  | '>' => if b < 0 then none else some (wrap a >>> (min b 63).toNat)
  | '&' => some (BitVec.ofInt 64 a &&& BitVec.ofInt 64 b).toInt
  | '|' => some (BitVec.ofInt 64 a ||| BitVec.ofInt 64 b).toInt
  | _ => none

/-- What is being read: a unit, or the rest of an expression after a value, of operators of at least a level. -/
inductive Mode where
  | unit
  | rest (least : Nat) (x : Int)

/-- The value of an expression and the tokens after it, with the constants defined so far. -/
def compute (consts : List (String × Int)) : Nat → Mode → List Tok → Option (Int × List Tok)
  | 0, _, _ => none
  | k + 1, .unit, ts =>
    match ts with
    | .num n :: r => some (n, r)
    | .name s :: r => (consts.lookup s).map (fun x => (x, r))
    | .op '-' :: r => (compute consts k .unit r).map (fun (x, r) => (-x, r))
    | .op '(' :: r =>
      match compute consts k .unit r with
      | none => none
      | some (x, r) => match compute consts k (.rest 1 x) r with
        | some (x, .op ')' :: r) => some (x, r)
        | _ => none
    | _ => none
  | k + 1, .rest least x, ts =>
    match ts with
    | .op c :: r =>
      if level c < least || level c == 0 then some (x, ts)
      else match compute consts k .unit r with
        | none => none
        | some (y, r) => match compute consts k (.rest (level c + 1) y) r with
          | none => none
          | some (y, r) => match apply c x y with
            | none => none
            | some z => compute consts k (.rest least z) r
    | _ => some (x, ts)

/-- The value of an expression that is a whole text. -/
def expr (consts : List (String × Int)) (t : List Char) : Option Int :=
  match tokens t.length t with
  | none => none
  | some ts => match compute consts (4 * ts.length + 4) .unit ts with
    | none => none
    | some (x, r) => match compute consts (4 * ts.length + 4) (.rest 1 x) r with
      | some (x, []) => some x
      | _ => none

/-- An operand that is no register: an expression, a decimal constant, or a name. -/
def valueOf (consts : List (String × Int)) (t : List Char) : Option Value :=
  match expr consts t with
  | some x => some (.int x)
  | none => match decimal t with
    | some v => some v
    | none => (ident t).map .name

/-! ### Operands (R66) -/

/-- An operand: registers `first` to `last` of the v or w file, a predicate, a tile predicate, a tile slot, a queue of a
gang's member, or a value. -/
inductive Operand where
  | reg (w : Bool) (first last : Nat)
  | pred (neg : Bool) (n : Nat)
  | kpred (n : Nat)
  | tile (n : Nat)
  | member (m q : Nat)
  | value (v : Value)
deriving DecidableEq, Repr

/-- Decimal digits only. -/
def plain (t : List Char) : Option Nat := if t.all Char.isDigit then digits 10 t else none

/-- `N` or `N..M`. -/
def range (t : List Char) : Option (Nat × Nat) :=
  match splitAt '.' t with
  | [a] => (plain a).map (fun n => (n, n))
  | [a, [], b] => match plain a, plain b with
    | some n, some m => some (n, m)
    | _, _ => none
  | _ => none

/-- A register operand; none for any other. -/
def registerOf (t : List Char) : Option Operand :=
  match lower t with
  | 'v' :: r => (range r).map (fun x => .reg false x.1 x.2)
  | 'w' :: r => (range r).map (fun x => .reg true x.1 x.2)
  | 'p' :: r => (plain r).map (.pred false)
  | '!' :: 'p' :: r => (plain r).map (.pred true)
  | 'k' :: r => (plain r).map .kpred
  | 't' :: r => (plain r).map .tile
  | 'g' :: r => match splitAt ':' r with
    | [a, b] => match plain a, plain (trim b) with
      | some m, some q => some (.member m q)
      | _, _ => none
    | _ => none
  | _ => none

def operandOf (consts : List (String × Int)) (t : List Char) : Except Error Operand :=
  match registerOf t with
  | some o => .ok o
  | none => match valueOf consts t with
    | some v => .ok (.value v)
    | none => .error .form

/-! ### Constants of a type (R51, R68) -/

/-- The width of a type's values in bits (R75). -/
def bitsOfTy (t : Ty) : Nat :=
  match t with
  | .s8 | .n8 | .e4m3 | .e5m2 | .e3m2 | .e2m3 => 8
  | .s16 | .n16 | .bf16 | .f16 => 16
  | .s64 | .n64 => 64
  | _ => 32

/-- The exact value of a constant, where it has one in binary. -/
def exact (v : Value) : Option FNum :=
  match v with
  | .int x => some (FNum.ofInt x)
  | .dec neg n p =>
    if 0 ≤ p then some (.fin neg (n * 10 ^ p.toNat) 0 false)
    else if n % 5 ^ (-p).toNat = 0 then some (.fin neg (n / 5 ^ (-p).toNat) p false)
    else none
  | .name _ => none

/-- The encoding of a constant in a floating-point type, where the type holds it exactly. -/
def floatBits (t : Ty) (v : Value) : Option Nat :=
  match exact v with
  | none => none
  | some x =>
    let b := roundF (fmtOf t) .rz 0 false x
    match decodeF (fmtOf t) b with
    | .fin neg n e _ => if FNum.cmp (.fin neg n e false) x == .eq then some b else none
    | _ => none

/-- The integer a constant is, where it is one; −0.0 is none. -/
def intOf (v : Value) : Option Int :=
  match v with
  | .int x => some x
  | .dec neg n p =>
    if 0 ≤ p then (if neg && n == 0 then none else some (if neg then -(n * 10 ^ p.toNat : Nat) else (n * 10 ^ p.toNat : Nat)))
    else if n % 10 ^ (-p).toNat = 0 && !(neg && n == 0) then
      some (if neg then -(n / 10 ^ (-p).toNat : Nat) else (n / 10 ^ (-p).toNat : Nat))
    else none
  | .name _ => none

/-- The bits of a constant in a type, where it holds the constant exactly. A raw or 64-bit type takes a negative number
and an unsigned one of its width alike, since expressions are two's-complement integers. DESIGN CHOICE, log 121. -/
def typeBits (t : Ty) (v : Value) : Option Nat :=
  if t.isFloat then floatBits t v
  else
    let w := bitsOfTy t
    match v with
    | .int x =>
      let low : Int := if t.isSigned || t == .b32 || t == .n64 then -(2 ^ (w - 1) : Nat) else 0
      let high : Int := if t.isSigned && w ≠ 64 then (2 ^ (w - 1) : Nat) else (2 ^ w : Nat)
      if low ≤ x ∧ x < high then some (x % (2 ^ w : Nat)).toNat else none
    | _ => none

/-- The value of a number that is written as an integer. -/
def Value.int? : Value → Option Int
  | .int x => some x
  | _ => none

/-- The short immediate that yields exactly a constant in a type (R51). -/
def shortImm (t : Ty) (v : Value) : Option (BitVec 8) :=
  match (if t.isFloat then intOf v else v.int?) with
  | none => none
  | some x =>
    if t.isFloat || t.isSigned then
      (if -128 ≤ x ∧ x < 128 ∧ Enc.immFits t (BitVec.ofInt 8 x) then some (BitVec.ofInt 8 x) else none)
    else if 0 ≤ x ∧ x < 256 then some (BitVec.ofInt 8 x) else none

end Sys2Proof.Machine.Zas
end

