-- ==== Sys2Proof/Machine/ZasForms.lean ====
section
/-! DEFINITION. The instructions of the assembly language zas: the mnemonics with the suffixes each accepts in the order
of R67, the operands in the order of R66, and the draft of a word they give. Which operands a word has, and of which
kinds, is read from the encoding tables (Machine/Encoding.lean). -/

namespace Sys2Proof.Machine.Zas

open Sys2Proof.Enc

/-! ### Suffixes (R67) -/

/-- What a suffix sets; numbers are added to what other suffixes gave, MOD modulo 16. -/
inductive Effect where
  | mod (n : Nat)
  | imm (n : Nat)
  | fieldC (n : Nat)
  | ord (o : Ord)
  | scope (s : Scope)
  | ty (t : Ty)
  | srcTy (t : Ty)
  | sat
  | keep
deriving DecidableEq, Repr

structure Suffix where
  name : String
  effects : List Effect
deriving DecidableEq, Repr

/-- One place for a suffix. -/
structure Slot where
  required : Bool
  options : List Suffix
deriving DecidableEq, Repr

/-- A number among the operands that goes into IMM12: its bits there, what is taken off it, whether it stands after the
other operands or after the destination, and whether only MOD 0 has it. -/
structure NumSlot where
  last : Bool
  shift : Nat
  width : Nat
  less : Nat
  onlyMod0 : Bool
  /-- the name of a system register (R254) -/
  sys : Bool
deriving DecidableEq, Repr

/-- A mnemonic: its opcode, the suffixes it accepts, and its numbers. Types are given here for formats E and W only. -/
structure Form where
  name : String
  opc : Nat
  variants : List Slot := []
  rounding : List Slot := []
  types : List Slot := []
  nums : List NumSlot := []

/-- What the suffixes have set. -/
structure Bits where
  mod : Nat
  imm : Nat
  fieldC : Nat
  ty : Option Ty
  srcTy : Option Ty
  sat : Bool
  keep : Bool
  scope : Scope
  ord : Ord
deriving DecidableEq, Repr

def Bits.none : Bits :=
  { mod := 0, imm := 0, fieldC := 0, ty := Option.none, srcTy := Option.none, sat := false, keep := false, scope := .none, ord := .plain }

def Bits.take (b : Bits) : Effect → Bits
  | .mod n => { b with mod := (b.mod + n) % 16 }
  | .imm n => { b with imm := b.imm + n }
  | .fieldC n => { b with fieldC := b.fieldC + n }
  | .ord o => { b with ord := o }
  | .scope s => { b with scope := s }
  | .ty t => { b with ty := some t }
  | .srcTy t => { b with srcTy := some t, fieldC := b.fieldC + t.code.toNat }
  | .sat => { b with sat := true }
  | .keep => { b with keep := true }

/-- The suffixes of a line, taken in the order of their places. -/
def suffixes : List Slot → List String → Bits → Except Error Bits
  | [], [], b => .ok b
  | [], _ :: _, _ => .error .suffix
  | s :: ss, xs, b =>
    match xs with
    | [] => if s.required then .error .suffix else suffixes ss [] b
    | x :: r =>
      match s.options.find? (fun o => o.name == x) with
      | some o => suffixes ss r (o.effects.foldl Bits.take b)
      | none => if s.required then .error .suffix else suffixes ss xs b

/-- Suffixes for the numbers 0, step, 2 × step and so on. -/
def counted (names : List String) (step : Nat) (f : Nat → Effect) : List Suffix :=
  names.zipIdx.map (fun (n, i) => { name := n, effects := [f (step * i)] })

def req (names : List String) (step : Nat) (f : Nat → Effect) : Slot := ⟨true, counted names step f⟩
def opt (name : String) (e : Effect) : Slot := ⟨false, [{ name := name, effects := [e] }]⟩

/-- Suffixes of the types (R56). -/
def tySuffix (t : Ty) : String :=
  match t with
  | .b32 => "b32" | .s8 => "s8" | .s16 => "s16" | .s32 => "s32" | .s64 => "s64" | .n8 => "n8" | .n16 => "n16"
  | .n32 => "n32" | .n64 => "n64" | .f32 => "f32" | .bf16 => "bf16" | .f16 => "f16" | .e4m3 => "e4m3" | .e5m2 => "e5m2"
  | .e3m2 => "e3m2" | .e2m3 => "e2m3" | .fq4 => "fq4" | .t2 => "t2" | .b1 => "b1"

def tyOfSuffix (s : String) : Option Ty := allTys.find? (fun t => tySuffix t == s)

def scopeNames : List (String × Scope) :=
  [("quad", .quad), ("group", .group), ("block", .block), ("gang", .gang), ("pkg", .package), ("domain", .domain), ("sys", .system)]

def rmNames : List String := ["rne", "rz", "ru", "rd", "rs", "rdyn"]

/-- The rounding suffixes (R47), for a field of MOD or IMM12. -/
def rm (f : Nat → Effect) (step : Nat := 1) : List Slot := [⟨false, counted rmNames step f⟩]

def ordSlot : Slot := ⟨false, [⟨"acq", [.ord .acquire]⟩, ⟨"rel", [.ord .release]⟩, ⟨"acqrel", [.ord .acqrel]⟩]⟩
def scopeSlot : Slot := ⟨false, scopeNames.map (fun (n, s) => ⟨n, [.scope s]⟩)⟩
def satSlot : Slot := opt "sat" .sat
def tySlot : Slot := ⟨false, allTys.map (fun t => ⟨tySuffix t, [.ty t]⟩)⟩
def srcTySlot : Slot := ⟨true, allTys.map (fun t => ⟨tySuffix t, [.srcTy t]⟩)⟩
def keepSlot : Slot := opt "keep" .keep

/-! ### Mnemonics -/

/-- Mnemonics with consecutive opcodes and no suffixes of their own. -/
def from' (opc : Nat) (names : List String) : List Form := names.zipIdx.map (fun (n, i) => { name := n, opc := opc + i })

/-- The same with rounding suffixes in MOD[2:0]. -/
def fromRm (opc : Nat) (names : List String) : List Form :=
  names.zipIdx.map (fun (n, i) => { name := n, opc := opc + i, rounding := rm .mod })

/-- Mnemonics with the same suffixes of their own. -/
def fromV (opc : Nat) (vs : List Slot) (names : List String) : List Form :=
  names.zipIdx.map (fun (n, i) => { name := n, opc := opc + i, variants := vs })

/-- A number after the operands. -/
def lastNum (shift width : Nat) (less : Nat := 0) : NumSlot := ⟨true, shift, width, less, false, false⟩
/-- A number after the destination. -/
def midNum (shift width : Nat) : NumSlot := ⟨false, shift, width, 0, false, false⟩
def sysNum : NumSlot := ⟨false, 0, 12, 0, false, true⟩

def conds : List String := ["eq", "ne", "lt", "le", "gt", "ge", "ord", "unord"]
def reds : List String := ["add", "min", "max", "and", "or", "xor"]
def combine : Slot := ⟨false, [⟨"and", [.fieldC 8]⟩, ⟨"or", [.fieldC 16]⟩, ⟨"xor", [.fieldC 24]⟩]⟩

/-- Integer, logic, move, address and floating-point mnemonics (R106 to R122). -/
def computeForms : List Form :=
  from' 0x001 ["iadd", "isub", "iaddc", "isubb", "imul", "imulh", "imad", "imad64", "imin", "imax", "iabs", "ineg", "dot4"]
  ++ from' 0x010 ["and", "or", "xor", "andn", "not", "shl", "shr", "sar", "rotl", "popc", "clz", "ctz", "brev", "bfx", "bfi", "prmt"]
  ++ from' 0x020 ["sel", "mov"]
  ++ [{ name := "movi", opc := 0x022, types := [⟨false, [⟨"b32", []⟩, ⟨"s32", []⟩, ⟨"n32", []⟩]⟩] }]
  ++ from' 0x023 ["movw", "wmov"]
  ++ from' 0x040 ["aadd", "asub", "adiff"]
  ++ [{ name := "acmp", opc := 0x043, variants := [req (conds.take 6) 1 .mod] }, { name := "amovi", opc := 0x044 },
      { name := "sptest", opc := 0x045, variants := [req ["spad", "clus", "priv", "glob", "local"] 1 .mod] },
      { name := "spcast", opc := 0x046, variants := [req ["clus", "spad", "self"] 1 .mod] }]
  ++ fromRm 0x050 ["fadd", "fsub", "fmul", "ffma"]
  ++ fromV 0x054 [opt "nan" (.mod 8)] ["fmin", "fmax"]
  ++ fromRm 0x056 ["frcp", "frsq", "fsqrt", "fex2", "flg2", "fsin", "fcos", "ftanh"]
  ++ from' 0x05E ["fclass"] ++ fromRm 0x05F ["frnd", "fscale", "fcvt", "icvt", "ficvt"]
  ++ fromRm 0x068 ["pkadd", "pkmul", "pkfma"]
  ++ [{ name := "pkcvt", opc := 0x06B, variants := [⟨false, counted ["h0", "h1"] 8 .mod⟩], rounding := rm .mod }]

/-- Compare, predicate, quad and group mnemonics (R123 to R128). DESIGN CHOICE, log 128. -/
def laneForms : List Form :=
  [{ name := "icmp", opc := 0x080, variants := [req (conds.take 6) 1 .mod, combine] },
   { name := "fcmp", opc := 0x081, variants := [req conds 1 .mod, combine] }]
  ++ from' 0x082 ["pset", "pand", "por", "pxor", "pnot", "pmov", "ppack"]
  ++ fromV 0x089 [opt "mask" (.mod 1)] ["punpk"]
  ++ from' 0x090 ["qswz"] ++ fromV 0x091 [req ["h", "v", "d"] 1 .mod] ["qxch"] ++ fromV 0x092 [req reds 1 .mod] ["qred"]
  ++ [{ name := "qdiff", opc := 0x093, variants := [req ["h", "v"] 8 .mod], rounding := rm .mod }]
  ++ from' 0x094 ["qhelp"] ++ fromV 0x098 [req ["all", "any", "uni"] 1 .mod] ["gvote"] ++ from' 0x099 ["gballot"]
  ++ fromV 0x09A [req ["idx", "up", "down", "xor"] 1 .mod] ["gshfl"] ++ from' 0x09B ["gbcst"]
  ++ fromV 0x09C [req reds 1 .mod] ["gred"]
  ++ fromV 0x09D [req reds 1 .mod, opt "excl" (.mod 8)] ["gscan"]
  ++ from' 0x09E ["gmatch"] ++ fromV 0x09F [req ["max", "min"] 1 .mod] ["gtopk"] ++ from' 0x0A0 ["gcount"]

/-- Control mnemonics (R131 to R138). -/
def controlForms : List Form :=
  from' 0x0B0 ["nop", "bra", "brc", "brx", "call", "callx", "ret"] ++ fromV 0x0B7 [opt "clear" (.mod 1)] ["meet"]
  ++ from' 0x0B8 ["exit"]
  ++ [{ name := "park", opc := 0x0B9, variants := [req ["now", "time", "y", "flag"] 1 .mod], nums := [lastNum 0 9] },
      { name := "yield", opc := 0x0BA, nums := [lastNum 0 9] }]

/-- Memory and synchronisation mnemonics (R148 to R172). -/
def memoryForms : List Form :=
  from' 0x0C0 ["ld", "st", "ldw", "stw"] ++ fromV 0x0C4 [req ["x2", "x4", "x8"] 1 .mod] ["ldx", "stx"] ++ from' 0x0C6 ["nibst"]
  ++ fromV 0x0C8 [req ["add", "min", "max", "and", "or", "xor", "exch", "cas"] 1 .mod, opt "nr" (.mod 8)] ["atom", "atomw"]
  ++ fromV 0x0D0 [req ["l1", "l2", "l2w"] 1 .mod] ["pref"] ++ from' 0x0D1 ["dcz", "llock", "lulock"]
  ++ fromV 0x0D4 [req ["l1", "all"] 1 .mod] ["cwb", "cinv"] ++ from' 0x0D6 ["icinv"]
  ++ [{ name := "fence", opc := 0x0D7,
        variants := [req ["acqrel", "acq", "rel", "all"] 8 .imm, req (scopeNames.map Prod.fst) 1 .imm] },
      { name := "await", opc := 0x0E0, nums := [lastNum 0 9] }]
  ++ from' 0x0E4 ["tbinit"] ++ fromV 0x0E5 [opt "exp" (.mod 1)] ["tbarv"] ++ from' 0x0E6 ["tbexp"]
  ++ [{ name := "tbwait", opc := 0x0E7, nums := [lastNum 0 9] }]
  ++ from' 0x0E8 ["tbphase"] ++ from' 0x0F0 ["qinit"]
  ++ [{ name := "qpush", opc := 0x0F1, nums := [lastNum 0 9] }, { name := "qpop", opc := 0x0F2, nums := [lastNum 0 9] }]
  ++ fromV 0x0F3 [req ["pop", "push"] 1 .mod] ["qtry"] ++ from' 0x0F4 ["qgrant"]
  ++ fromV 0x0F5 [req ["occ", "allow"] 1 .mod] ["qstat"]

def fs (f : Nat → Effect) (step : Nat := 1) : Slot := req ["f32", "s32"] step f

/-- Matrix mnemonics (R185 to R205). -/
def matrixForms : List Form :=
  fromV 0x100 [opt "z" (.imm 1)] ["mma", "mmau"]
  ++ fromV 0x102 [opt "z" (.imm 1), req ["s24", "s48"] 2 .imm] ["mmas"]
  ++ from' 0x103 ["udesc"] ++ from' 0x110 ["aclr"] ++ fromV 0x111 [opt "sparse" (.mod 1)] ["ald"] ++ from' 0x112 ["ast", "asts"]
  ++ [{ name := "acvt", opc := 0x114, rounding := rm .imm ++ [opt "sat" (.imm 8)],
        types := [⟨true, [⟨"s32", []⟩, ⟨"f32", [.mod 2]⟩]⟩, ⟨true, [⟨"f32", []⟩, ⟨"s32", [.mod 15]⟩]⟩] },
      { name := "aquant", opc := 0x115, variants := [req ["row", "col"] 4 .imm, req ["uint", "e2m1", "pow2", "hyb"] 1 .imm],
        rounding := rm .imm 8 },
      { name := "atopk", opc := 0x116, variants := [opt "prune" (.mod 1)], types := [fs .imm], nums := [lastNum 1 6] },
      { name := "aredr", opc := 0x117, variants := [req ["add", "max", "min", "amax"] 1 .mod], types := [fs .imm] }]
  ++ fromV 0x120 [opt "load" (.mod 1)] ["abind"] ++ fromV 0x121 [opt "flush" (.mod 1)] ["aunbind"] ++ from' 0x122 ["aflush"]
  ++ [{ name := "kset", opc := 0x130, variants := [opt "mask" (.mod 1)], nums := [{ lastNum 0 1 with onlyMod0 := true }] }]
  ++ from' 0x131 ["kand", "kor", "knot"] ++ fromV 0x134 [opt "mask" (.mod 1)] ["ktest"]

/-- Engine and fabric mnemonics (R206 to R232). -/
def engineForms : List Form :=
  from' 0x180 ["xtmpl"] ++ fromV 0x181 [opt "notok" (.imm 1)] ["xcopy"]
  ++ fromV 0x182 [opt "notok" (.imm 1), opt "bar" (.imm 2)] ["xgath", "xscat"]
  ++ fromV 0x188 [req ["count", "emit"] 1 .mod] ["sinter"] ++ from' 0x189 ["smerge"]
  ++ [{ name := "mred", opc := 0x190, types := [{ fs .imm 1024 with required := false }], nums := [midNum 0 4, lastNum 4 6 1] },
      { name := "mrcv", opc := 0x191, nums := [midNum 0 4] },
      { name := "mrsel", opc := 0x192, variants := [req ["open", "close"] 1 .mod], nums := [midNum 0 4] }]
  ++ from' 0x1A0 ["xslot", "xstc", "xflag"]

def kw : Slot := req ["k32", "k64"] 8 .imm
def vw : Slot := req ["v32", "v64"] 16 .imm

/-- Hash, task and system mnemonics (R239 to R259). -/
def systemForms : List Form :=
  [{ name := "htclaim", opc := 0x1C0, nums := [midNum 0 3] }, { name := "htfree", opc := 0x1C1, nums := [midNum 0 3] },
   { name := "htins", opc := 0x1C2, variants := [kw, vw], nums := [midNum 0 3] },
   { name := "htprobe", opc := 0x1C3, variants := [kw, vw], nums := [midNum 0 3] },
   { name := "htdel", opc := 0x1C4, variants := [kw], nums := [midNum 0 3] },
   { name := "htacc", opc := 0x1C5, nums := [midNum 0 3],
     variants := [req ["add", "min", "max", "or"] 1 .mod,
       ⟨true, [⟨"s32", []⟩, ⟨"n32", [.mod 4]⟩, ⟨"f32", [.mod 8]⟩, ⟨"s64", [.imm 16]⟩, ⟨"n64", [.mod 4, .imm 16]⟩]⟩, kw] },
   { name := "htdrain", opc := 0x1C6, variants := [opt "key" (.imm 8), opt "clear" (.imm 16)], nums := [midNum 0 3] },
   { name := "htstat", opc := 0x1C7, variants := [req ["count", "spill", "cfg"] 1 .mod], nums := [midNum 0 3] },
   { name := "sread", opc := 0x1E0, variants := [opt "w" (.mod 1)], nums := [sysNum] },
   { name := "swrite", opc := 0x1E1, variants := [opt "w" (.mod 1)], nums := [sysNum] },
   { name := "tstamp", opc := 0x1E2, variants := [opt "v" (.mod 1)] },
   { name := "trap", opc := 0x1E3, nums := [midNum 0 12] }, { name := "bkpt", opc := 0x1E4, nums := [midNum 0 12] },
   { name := "tret", opc := 0x1E5, variants := [opt "skip" (.mod 1)] },
   { name := "ecall", opc := 0x1E6, nums := [midNum 0 12] }]
  ++ from' 0x1E8 ["launch"] ++ from' 0x1EC ["tkrsv", "tkpub", "tksig"]

/-- Every mnemonic but `hint`. -/
def forms : List Form :=
  computeForms ++ laneForms ++ controlForms ++ memoryForms ++ matrixForms ++ engineForms ++ systemForms

/-- The numbers of the system registers (R254); the sixteen MR_LATE registers carry their channel as digits. -/
def sysNames : List (String × Nat) :=
  [("LANE_ID", 0x000), ("QUAD_ID", 0x001), ("THREAD_ID", 0x002), ("RNG_STATE", 0x003), ("CORE_ID", 0x010), ("CLUSTER_ID", 0x011),
   ("REG_BOUND", 0x012), ("GANG_MAP", 0x013), ("CTX_ID", 0x020), ("PART_ID", 0x021), ("ENDPOINT_ID", 0x022),
   ("RNG_SEED", 0x023), ("CODE_BASE", 0x030), ("PRIV_BASE", 0x031), ("PRIV_SIZE", 0x032), ("STK_LIMIT", 0x033),
   ("TMPL_BASE", 0x034), ("TMPL_COUNT", 0x035), ("FMT_DEFAULT", 0x040), ("PARK_THRESH", 0x041), ("ENG_MODE", 0x042),
   ("LOCK_QUOTA", 0x043), ("LOCK_USED", 0x044), ("APER_DROP", 0x045), ("DBG_CTL", 0x046), ("TRAP_CAUSE", 0x080),
   ("TRAP_DETAIL", 0x081), ("TRAP_PC", 0x082), ("TRAP_WIX", 0x083), ("TRAP_LANE", 0x084)]

/-- DESIGN CHOICE, log 128. -/
def sysOf (t : List Char) : Option Nat :=
  let u := t.map Char.toUpper
  match sysNames.lookup (String.ofList u) with
  | some n => some n
  | none =>
    if u.take 7 = ['M', 'R', '_', 'L', 'A', 'T', 'E'] then
      match plain (u.drop 7) with
      | some n => if n < 16 then some (0x50 + n) else none
      | none => none
    else none

/-! ### The draft of a word -/

/-- A literal word: its bits, or the code address of a label. -/
inductive Lit where
  | bits (w : W64)
  | addr (label : String)
deriving DecidableEq, Repr

/-- A word whose literal indices and targets are still open. Positions: 0 DST, 1 A, 2 B, 3 C. -/
structure Draft where
  opc : Nat
  guard : Guard
  keep : Bool
  mod : Nat
  dst : Nat
  a : Nat × Nat
  b : Nat × Nat
  c : Nat × Nat
  ty : Ty
  sat : Bool
  scope : Scope
  ord : Ord
  imm : Nat
  /-- IMM28 of format W -/
  wide : Nat
  /-- the label of format J, or of MOVI -/
  target : Option String
  lits : List (Nat × List Lit)
deriving DecidableEq, Repr

def Draft.put (d : Draft) (pos cls val : Nat) : Draft :=
  match pos with
  | 0 => { d with dst := val }
  | 1 => { d with a := (cls, val) }
  | 2 => { d with b := (cls, val) }
  | _ => { d with c := (cls, d.c.2 + val) }

/-- What an operand of a word is to be. -/
inductive Want where
  | field (pos : Nat) (k : FieldKind)
  | source (pos : Nat) (k : SrcKind)
  | label
  | wide
  | offset
  | num (n : NumSlot)

def wantField (pos : Nat) (k : FieldKind) : List Want :=
  match k with
  | .none => []
  | _ => [.field pos k]

def wantSource (pos : Nat) (k : SrcKind) (c : Nat) : List Want :=
  match k with
  | .unused => []
  | .srcTy _ => []
  | .cmp => if c = 0 then [] else [.source pos k]
  | _ => [.source pos k]

/-- The operands of a word in their order (R66). -/
def wants (f : Form) (fmt : Fmt) (b : Bits) : List Want :=
  let m := b.mod
  let i := b.imm
  let ns (last : Bool) := (f.nums.filter (fun n => n.last == last && (m == 0 || !n.onlyMod0))).map Want.num
  match fmt with
  | .a s _ => wantField 0 s.dst ++ wantSource 1 s.a 0 ++ wantSource 2 s.b 0 ++ wantSource 3 s.c b.fieldC
  | .w _ => [.field 0 (.v .one), .wide]
  | .j dst zeroOff _ => wantField 0 dst ++ (if zeroOff then [] else [.label])
  | .m s _ => wantField 0 (s.dst m) ++ wantField 1 s.a ++ wantField 2 (s.b m) ++ [.offset]
  | .e s _ => wantField 0 (s.dst m i) ++ ns false ++ wantField 1 (s.a m i) ++ wantField 2 (s.b m i) ++ wantField 3 (s.c m i) ++ ns true

/-- Registers n to m name `count` registers of a file of `size`: by the first alone, or as a range. -/
def span (count size n m : Nat) : Except Error Nat :=
  if n < size ∧ m < size ∧ (m = n ∨ m + 1 = n + count) then .ok n else .error .register

/-- An operand of a field whose class the opcode fixes. -/
def fillField (ty : Ty) (k : FieldKind) (o : Operand) : Except Error Nat :=
  match k, o with
  | .v w, .reg false n m => span (w.regs ty) 256 n m
  | .w w, .reg true n m => span (w.regs ty) 64 n m
  | .vBlock c, .reg false n m => span c 256 n m
  | .wBlock c, .reg true n m => span c 64 n m
  | .pred, .pred false n => if n < 8 then .ok n else .error .register
  | .found, .pred false n => if n < 8 then .ok n else .error .register
  | .kpred, .kpred n => if n < 16 then .ok n else .error .register
  | .tile, .tile n => if n < 16 then .ok n else .error .register
  | .queue, .value (.int q) => if 0 ≤ q ∧ q < 32 then .ok q.toNat else .error .immediate
  | .queue, .member m q => if m < 4 ∧ q < 32 then .ok (128 + 32 * m + q) else .error .immediate
  | _, _ => .error .form

/-- The type whose width a source operand has: the source type of a conversion, or TYPE (R105, R120). -/
def immSrcTy (k : ImmTy) (ty cty : Ty) : Ty := if k = .cTy then cty else ty

/-- The type a source constant is converted to (R51, R68, R105): 32 bits under the byte types of DOT4, 64 bits in a pair,
32 bits in a single register of an instruction of a 64-bit type. -/
def constTy (ty cty : Ty) (w : Width) (imT : ImmTy) : Ty :=
  let t := match imT with
    | .ty => (match ty with | .s8 => Ty.s32 | .n8 => Ty.n32 | t => t)
    | .cTy => cty
    | .int => .s32
  match w, t with
  | .two, .s32 => .s64
  | .two, .n32 => .n64
  | .one, .s64 => .s32
  | .one, .n64 => .n32
  | _, t => t

/-- The words a constant stands in: PKADD, PKMUL and PKFMA take it in both halves, PKCVT as FP32 (R68, R121, R122). -/
def literal (opc : Nat) (t : Ty) (v : Value) : Option W64 :=
  if opc = 0x06B then (typeBits .f32 v).map (BitVec.ofNat 64)
  else (typeBits t v).map (fun x =>
    BitVec.ofNat 64 (if 0x068 ≤ opc ∧ opc ≤ 0x06A then x + x * 2 ^ 16 else x))

/-- A source immediate (R68): short where R51 yields it, else a literal, else an error. DESIGN CHOICE, log 121. -/
def fillValue (d : Draft) (cty : Ty) (pos : Nat) (w : Width) (im li : Bool) (imT : ImmTy) (v : Value) : Except Error Draft :=
  match w, v with
  | .three, .int x =>
    if li ∧ 0 ≤ x ∧ x < (2 ^ 80 : Nat) then
      .ok { (d.put pos 3 0) with lits := d.lits ++ [(pos, [.bits (BitVec.ofInt 64 x), .bits (BitVec.ofNat 64 (x.toNat / 2 ^ 64))])] }
    else .error .immediate
  | .three, _ => .error .immediate
  | _, .name s => if li then .ok { (d.put pos 3 0) with lits := d.lits ++ [(pos, [.addr s])] } else .error .immediate
  | _, v =>
    let t := constTy d.ty cty w imT
    match im, shortImm t v with
    | true, some x => .ok (d.put pos 2 x.toNat)
    | _, _ =>
      match li, literal d.opc t v with
      | true, some x => .ok { (d.put pos 3 0) with lits := d.lits ++ [(pos, [.bits x])] }
      | _, _ => .error .immediate

/-- MOVI's choice of MOD for a value, with IMM28 (R112). -/
def moviOf (x : Int) : Option (Nat × Nat) :=
  if 0 ≤ x ∧ x < (2 ^ 28 : Nat) then some (0, x.toNat)
  else if -(2 ^ 27 : Nat) ≤ x ∧ x < 0 then some (1, (x + (2 ^ 28 : Nat)).toNat)
  else if -(2 ^ 31 : Nat) ≤ x ∧ x < (2 ^ 32 : Nat) ∧ x % 16 = 0 then some (2, (x % (2 ^ 32 : Nat)).toNat / 16)
  else none

/-- An offset of format M (R68): a register, or a number in units of the access size. -/
def fillOffset (d : Draft) (o : Operand) : Except Error Draft :=
  match o with
  | .reg false n m => (span 1 256 n m).map (d.put 3 0)
  | .reg true n m => (span 1 64 n m).map (d.put 3 1)
  | .value (.int u) =>
    if -128 ≤ u ∧ u < 128 then .ok (d.put 3 2 (u % 256).toNat)
    else
      let x := u * (bitsOfTy d.ty / 8 : Nat)
      if -(2 ^ 63 : Nat) ≤ x ∧ x < (2 ^ 63 : Nat) then
        .ok { (d.put 3 3 0) with lits := d.lits ++ [(3, [.bits (BitVec.ofInt 64 x)])] }
      else .error .immediate
  | .value _ => .error .immediate
  | _ => .error .form

/-- One operand of a word. -/
def fill (consts : List (String × Int)) (cty : Ty) (w : Want) (t : List Char) (d : Draft) : Except Error Draft :=
  match w with
  | .num n =>
    if n.sys then
      match sysOf t with
      | some x => .ok { d with imm := d.imm + x }
      | none => .error .register
    else match valueOf consts t with
      | some (.int x) =>
        let y := x - n.less
        if 0 ≤ y ∧ y < (2 ^ n.width : Nat) then .ok { d with imm := d.imm + y.toNat * 2 ^ n.shift } else .error .immediate
      | _ => .error .immediate
  | .label =>
    match ident t with
    | some s => .ok { d with target := some s }
    | none => .error .target
  | _ => (operandOf consts t).bind fun o =>
    match w, o with
    | .field pos k, o => (fillField d.ty k o).map (d.put pos 0)
    | .offset, o => fillOffset d o
    | .wide, .value (.int x) => match moviOf x with
      | some (m, i) => .ok { d with mod := m, wide := i }
      | none => .error .immediate
    | .wide, .value (.name s) => .ok { d with target := some s }
    | .wide, _ => .error .immediate
    | .source pos (.pred ng), .pred neg n =>
      if n < 8 ∧ (ng ∨ !neg) then .ok (d.put pos 0 (n + (if neg then 8 else 0))) else .error .register
    | .source pos .cmp, .pred neg n => if n < 8 then .ok (d.put pos 0 (n + (if neg then 32 else 0))) else .error .register
    | .source pos (.val wd _ _ _ _ imT), .reg false n m => (span (wd.regs (immSrcTy imT d.ty cty)) 256 n m).map (d.put pos 0)
    | .source pos (.val wd _ _ _ _ imT), .reg true n m => (span (wd.regs (immSrcTy imT d.ty cty)) 64 n m).map (d.put pos 1)
    | .source pos (.val wd _ _ im li imT), .value v => fillValue d cty pos wd im li imT v
    | _, _ => .error .form

/-- All operands of a word, as many as it has. -/
def fillAll (consts : List (String × Int)) (cty : Ty) : List Want → List (List Char) → Draft → Except Error Draft
  | [], [], d => .ok d
  | w :: ws, t :: ts, d => (fill consts cty w t d).bind (fillAll consts cty ws ts)
  | _, _, _ => .error .form

/-- The types a row accepts. -/
def typesOf (fmt : Fmt) (b : Bits) : List Ty :=
  match fmt with
  | .a s _ => allTys.filter (fun t => s.ok b.mod t b.sat)
  | .m s _ => allTys.filter (fun t => s.ok b.mod t b.scope b.ord)
  | _ => [.b32]

/-- The places for suffixes of a mnemonic, in the order of R67. -/
def slotsOf (f : Form) (fmt : Fmt) : List Slot :=
  let types := match fmt with
    | .a s _ => match s.c with
      | .srcTy _ => [{ tySlot with required := true }, srcTySlot]
      | _ => [tySlot]
    | .m .. => [tySlot]
    | _ => f.types
  let sat := match fmt with
    | .a .. => [satSlot]
    | _ => []
  let mem := match fmt with
    | .m .. => [ordSlot, scopeSlot]
    | _ => []
  f.variants ++ mem ++ f.rounding ++ sat ++ types ++ [keepSlot]

/-- A hint (R64): `hint n`, or `hint n, vD` for those but 0. DESIGN CHOICE, log 128. -/
def hintDraft (g : Guard) (args : List (List Char)) (consts : List (String × Int)) : Except Error Draft :=
  let d (n : Nat) (dst : Nat) : Draft :=
    { opc := 0x3C0 + n, guard := g, keep := false, mod := 0, dst := dst, a := (0, 0), b := (0, 0), c := (0, 0), ty := .b32
      sat := false, scope := .none, ord := .plain, imm := 0, wide := 0, target := none, lits := [] }
  match args.map (operandOf consts) with
  | [.ok (.value (.int n))] => if 0 ≤ n ∧ n < 64 ∧ n ≠ 1 then .ok (d n.toNat 0) else .error .immediate
  | [.ok (.value (.int h)), .ok (.reg false n m)] =>
    if 1 ≤ h ∧ h < 64 then (span 1 256 n m).map (d h.toNat) else .error .immediate
  | _ => .error .form

/-- The draft of an instruction line (R65 to R68). A type suffix may be left out where the instruction accepts one type
only. DESIGN CHOICE, log 128. -/
def draft (consts : List (String × Int)) (g : Guard) (head : List String) (args : List (List Char)) : Except Error Draft :=
  match head with
  | [] => .error .form
  | name :: sfx =>
    if name == "hint" then (if sfx.isEmpty then hintDraft g args consts else .error .suffix)
    else match forms.find? (fun f => f.name == name) with
      | none => .error .unknown
      | some f =>
        match rowFor f.opc 0 with
        | none => .error .unknown
        | some r0 => (suffixes (slotsOf f r0.fmt) sfx Bits.none).bind fun b =>
          match rowFor f.opc b.mod with
          | none => .error .suffix
          | some r =>
            let ty := match b.ty, typesOf r.fmt b with
              | some t, ts => if ts.contains t then some t else none
              | none, [t] => some t
              | none, _ => none
            match ty with
            | none => .error .suffix
            | some ty =>
              fillAll consts (b.srcTy.getD .b32) (wants f r.fmt b) args
                { opc := f.opc, guard := g, keep := b.keep, mod := b.mod, dst := 0, a := (0, 0), b := (0, 0), c := (0, b.fieldC), ty := ty
                  sat := b.sat, scope := b.scope, ord := b.ord, imm := b.imm, wide := 0, target := none, lits := [] }

/-- The word of a draft, with the index of the literal of each position and the value of its target: OFF36 of format J,
or the address that MOVI loads. -/
def Draft.word (d : Draft) (idx : Nat → Nat) (target : Int) : Except Error W64 :=
  let src (pos : Nat) (x : Nat × Nat) : Src :=
    srcOf (BitVec.ofNat 2 x.1) (BitVec.ofNat 8 (if (d.lits.lookup pos).isSome then idx pos else x.2))
  let md := BitVec.ofNat 4 d.mod
  let dst := BitVec.ofNat 8 d.dst
  if 0x3C0 ≤ d.opc then
    .ok (packE d.opc { guard := d.guard, keep := false, mod := 0, dst := dst, a := 0, b := 0, c := 0, imm := 0 })
  else match (rowFor d.opc d.mod).map Row.fmt with
    | none => .error .suffix
    | some (.a _ _) => .ok (packA d.opc
        { guard := d.guard, keep := d.keep, mod := md, dst := dst, a := src 1 d.a, b := src 2 d.b, c := src 3 d.c, ty := d.ty, sat := d.sat })
    | some (.w _) =>
      match d.target with
      | none => .ok (packW d.opc { guard := d.guard, keep := d.keep, mod := md, dst := dst, a := 0, imm := BitVec.ofNat 28 d.wide })
      | some _ => match moviOf target with
        | none => .error .immediate
        | some (m, i) => .ok (packW d.opc
            { guard := d.guard, keep := d.keep, mod := BitVec.ofNat 4 m, dst := dst, a := 0, imm := BitVec.ofNat 28 i })
    | some (.j _ _ _) =>
      if -(2 ^ 35 : Nat) ≤ target ∧ target < (2 ^ 35 : Nat) then
        .ok (packJ d.opc { guard := d.guard, keep := d.keep, mod := md, dst := dst, off := BitVec.ofInt 36 target })
      else .error .immediate
    | some (.m _ _) => .ok (packM d.opc
        { guard := d.guard, keep := d.keep, mod := md, dst := dst, a := BitVec.ofNat 8 d.a.2, b := BitVec.ofNat 8 d.b.2, off := src 3 d.c
          ty := d.ty, scope := d.scope, ord := d.ord })
    | some (.e _ _) => .ok (packE d.opc
        { guard := d.guard, keep := d.keep, mod := md, dst := dst, a := BitVec.ofNat 8 d.a.2, b := BitVec.ofNat 8 d.b.2
          c := BitVec.ofNat 8 d.c.2, imm := BitVec.ofNat 12 d.imm })

end Sys2Proof.Machine.Zas
end

