-- ==== Sys2Proof/Machine/Zas.lean ====
section
/-! DEFINITION. The assembler zas: how clauses are formed (R69), the directives (R70, R71), the resource floor (R72), the
errors (R73), and the code object that a source gives (R330). -/

namespace Sys2Proof.Machine.Zas

open Sys2Proof.Enc

/-! ### Clauses (R69) -/

/-- A clause being formed: its words, the literal indices of each, its literals, its class, and whether a control
transfer or a segment-ending word has ended it. -/
structure Clause where
  addr : Nat
  drafts : List (Draft × List (Nat × Nat))
  lits : List Lit
  cls : Nat
  ended : Bool
deriving DecidableEq, Repr

/-- The index at which a run of one or two literals stands among others. -/
def findLit (x : List Lit) : List Lit → Nat → Option Nat
  | [], _ => none
  | l :: ls, i => if (l :: ls).take x.length == x then some i else findLit x ls (i + 1)

/-- The literals of a word beside those of its clause, with the index each position gets; equal values share one. -/
def placeLits : List (Nat × List Lit) → List Lit → List Lit × List (Nat × Nat)
  | [], ls => (ls, [])
  | (pos, x) :: r, ls =>
    let (ls1, i) := match findLit x ls 0 with
      | some i => (ls, i)
      | none => (ls ++ x, ls.length)
    let (ls2, is) := placeLits r ls1
    (ls2, (pos, i) :: is)

/-- The clause with one word more, where the word may stand in it. -/
def Clause.add (c : Clause) (d : Draft) : Option Clause :=
  let cls := classOf d.opc
  let (lits, idx) := placeLits d.lits c.lits
  if c.ended || (cls != 0 && c.cls != 0 && cls != c.cls) || decide (16 < c.drafts.length + 1 + lits.length) || decide (7 < lits.length) then none
  else some { c with drafts := c.drafts ++ [(d, idx)], lits := lits, cls := max c.cls cls
                     ended := isTransfer d.opc || isSegEnd d.opc }

/-- Bytes of a clause: its header, its words and its literals (R39). -/
def Clause.size (c : Clause) : Nat := 8 * (1 + c.drafts.length + c.lits.length)

/-- A clause header (R40). -/
def header (lit : Nat) (meet seg : Bool) (cls count : Nat) : W64 :=
  BitVec.ofNat 64 (0xCE * 2 ^ 56 + lit * 2 ^ 10 + (if meet then 2 ^ 9 else 0) + (if seg then 2 ^ 8 else 0) + cls * 16 + count)

/-- The NOP clauses that fill a gap of doublewords; none fits in one (R71). -/
def padding : Nat → Nat → List W64
  | 0, _ => []
  | _, 0 => []
  | k + 1, g =>
    let n := if g ≤ 17 then g else if g = 18 then 16 else 17
    header 0 false false 0 (n - 2) :: List.replicate (n - 1) (packE 0x0B0
      { guard := .always, keep := false, mod := 0, dst := 0, a := 0, b := 0, c := 0, imm := 0 }) ++ padding k (g - n)

/-- The gap in doublewords to a boundary of n bytes; a gap of one goes on to the next boundary. -/
def gap (at' n : Nat) : Nat :=
  let g := (n - at' % n) % n / 8
  if g = 1 then g + n / 8 else g

/-! ### Kernels, variants and the object -/

structure Role where
  name : String
  groups : Nat
  regs : Option Nat
  tiles : Option Nat
  entry : Option Nat
deriving DecidableEq, Repr

structure Seg where
  name : String
  start : Option Nat
  stop : Option Nat
  handler : Option String
  binKey : Nat
deriving DecidableEq, Repr

/-- A clause, or words of padding. -/
inductive Item where
  | clause (c : Clause)
  | words (ws : List W64)
deriving DecidableEq, Repr

/-- A kernel being read; the lists hold the newest first. -/
structure Kernel where
  name : String
  regs : Nat
  spad : Nat
  tiles : Nat
  tbar : Nat
  queue : Nat
  bound : Nat
  devClass : Bool
  roles : List Role
  segs : List Seg
  labels : List (String × Option Nat)
  items : List Item
  traps : List String
  entry : Option Nat
deriving DecidableEq, Repr

def Kernel.empty (name : String) : Kernel :=
  { name := name, regs := 128, spad := 0, tiles := 0, tbar := 0, queue := 0, bound := 0, devClass := false, roles := [], segs := []
    labels := [], items := [], traps := [], entry := none }

/-- A variant (R330): its code, segment table, kernel table, and the trap-handler entries it exports. -/
structure Variant where
  sig : Nat
  devClass : Bool
  code : List W64
  segs : List (List Byte)
  kernels : List (List Byte)
  traps : List (String × Nat)
deriving DecidableEq, Repr

/-- The assembler between two lines. `at'` is the number of code bytes of the current variant so far. -/
structure Asm where
  consts : List (String × Int)
  done : List Variant
  cur : Variant
  inVariant : Bool
  at' : Nat
  kernel : Option Kernel
  opened : Option Clause
  data : List Byte
  inData : Bool
deriving DecidableEq, Repr

def anySig : Nat := 2 ^ 64 - 1

def Variant.empty (sig : Nat) : Variant := { sig := sig, devClass := false, code := [], segs := [], kernels := [], traps := [] }

def Asm.start : Asm :=
  { consts := [], done := [], cur := Variant.empty anySig, inVariant := false, at' := 0, kernel := none, opened := none, data := []
    inData := false }

/-- End the open clause. -/
def Asm.close (a : Asm) : Asm :=
  match a.opened, a.kernel with
  | some c, some k => { a with opened := none, kernel := some { k with items := .clause c :: k.items }, at' := a.at' + c.size }
  | _, _ => { a with opened := none }

/-- The segments when a clause starts: the newest takes its start, and the one before it its end. -/
def startSegs (x : Nat) : List Seg → List Seg
  | [] => [{ name := "entry", start := some x, stop := none, handler := none, binKey := 0 }]
  | s :: ss =>
    if s.start.isSome then s :: ss
    else { s with start := some x } :: (match ss with
      | p :: r => { p with stop := some x } :: r
      | [] => [])

/-- What a clause's start fixes: the labels that name it, its segment, the entry of a role and of the kernel. -/
def Kernel.clauseAt (k : Kernel) (x : Nat) : Kernel :=
  { k with
    labels := k.labels.map (fun (n, p) => (n, some (p.getD x)))
    segs := startSegs x k.segs
    roles := k.roles.map (fun r => { r with entry := some (r.entry.getD x) })
    entry := some (k.entry.getD x) }

/-- One word: in the open clause where it may stand there, else in a new one. -/
def Asm.word (a : Asm) (d : Draft) : Except Error Asm :=
  match a.kernel with
  | none => .error .directive
  | some _ =>
    match a.opened.bind (fun c => c.add d) with
    | some c => .ok { a with opened := some c }
    | none =>
      let a := a.close
      match a.kernel, Clause.add { addr := a.at', drafts := [], lits := [], cls := 0, ended := false } d with
      | some k, some c => .ok { a with kernel := some (k.clauseAt a.at'), opened := some c }
      | _, _ => .error .form

/-! ### The end of a kernel -/

def Kernel.label (k : Kernel) (s : String) : Except Error Nat :=
  match k.labels.lookup s with
  | some (some x) => .ok x
  | _ => .error .target

def litWord (k : Kernel) : Lit → Except Error W64
  | .bits w => .ok w
  | .addr s => (k.label s).map (BitVec.ofNat 64)

/-- Apply a function to each of a list, up to the first error. -/
def each {α β : Type} (f : α → Except Error β) : List α → Except Error (List β)
  | [] => .ok []
  | x :: xs => (f x).bind fun y => (each f xs).map (y :: ·)

/-- The error of a word that would fail a check of R58; zas emits none. -/
def checkError (n : Nat) : Error := if n = 3 then .suffix else if n = 4 then .register else .form

/-- The value of a word's target in a clause at `x`: the distance in doublewords (R53), or the address that MOVI loads. -/
def targetOf (k : Kernel) (x : Nat) (d : Draft) : Except Error Int :=
  match d.target with
  | none => .ok 0
  | some s => (k.label s).bind fun y => .ok (if d.opc = 0x022 then (y : Int) else ((y : Int) - x) / 8)

/-- A word of a clause at `x` with the literals `lits`. -/
def emitWord (k : Kernel) (x : Nat) (lits : List W64) (d : Draft) (idx : List (Nat × Nat)) : Except Error W64 :=
  (targetOf k x d).bind fun t => (d.word (fun p => (idx.lookup p).getD 0) t).bind fun w =>
    match decodeWord lits w with
    | .ok _ => .ok w
    | .error n => .error (checkError n)

/-- The words of a clause; `meets` are the addresses that MEET instructions of the kernel name (R69). -/
def emitClause (k : Kernel) (meets : List Nat) (c : Clause) : Except Error (List W64) :=
  (each (litWord k) c.lits).bind fun lits =>
    (each (fun (d, idx) => emitWord k c.addr lits d idx) c.drafts).map fun ws =>
      header lits.length (meets.contains c.addr) ((c.drafts.getLast?.map (fun d => isSegEnd d.1.opc)).getD false) c.cls
        (ws.length + lits.length - 1) :: (ws ++ lits)

/-- The targets of the MEET instructions of a kernel (R131). -/
def Kernel.meets (k : Kernel) : List Nat :=
  k.items.flatMap (fun
    | .clause c => c.drafts.filterMap (fun d => if d.1.opc = 0x0B7 then d.1.target.bind (fun s => (k.label s).toOption) else none)
    | .words _ => [])

/-- A segment table entry (R330). -/
def segBytes (k : Kernel) (last : Nat) (s : Seg) : Except Error (List Byte) :=
  match s.start, s.handler with
  | none, _ => .error .directive
  | some x, none => .ok (leBytes 4 x ++ leBytes 4 (s.stop.getD last) ++ leBytes 4 0xFFFFFFFF ++ leBytes 4 s.binKey)
  | some x, some h => (k.label h).map fun y => leBytes 4 x ++ leBytes 4 (s.stop.getD last) ++ leBytes 4 y ++ leBytes 4 s.binKey

/-- The roles of a kernel in order; one of one group where it names none (R70). DEDUCED, log 129. -/
def Kernel.allRoles (k : Kernel) : List Role :=
  if k.roles.isEmpty then [{ name := k.name, groups := 1, regs := none, tiles := none, entry := k.entry }] else k.roles.reverse

/-- The kernel is above the resource floor (R72). -/
def Kernel.aboveFloor (k : Kernel) : Bool :=
  k.allRoles.any (fun r => decide (128 < r.regs.getD k.regs)) || decide (262144 < k.spad) || decide (16 < k.tbar)
    || decide (8 < k.queue) || decide (4 < k.bound)

/-- A kernel table entry: the name, then the launch-record template of R336. -/
def Kernel.entryBytes (k : Kernel) : List Byte :=
  let name := (k.name.toList.map (fun c => BitVec.ofNat 8 c.toNat)).take 32
  let rs := k.allRoles
  let role (r : Role) : List Byte :=
    leBytes 8 (r.entry.getD 0 + r.regs.getD k.regs * 2 ^ 32 + r.groups * 2 ^ 41 + r.tiles.getD k.tiles * 2 ^ 47) ++ leBytes 8 0
  name ++ List.replicate (32 - name.length) 0
    ++ leBytes 8 (1 + rs.length * 16) ++ leBytes 8 0 ++ leBytes 8 0
    ++ leBytes 8 ((k.spad + 127) / 128 * 2 ^ 16 + k.tbar * 2 ^ 30 + k.queue * 2 ^ 37 + k.bound * 2 ^ 43) ++ leBytes 8 0 ++ leBytes 8 0
    ++ rs.flatMap role ++ List.replicate (16 * (5 - rs.length)) 0

/-- Close a kernel: its labels are all known, and its words are written. -/
def Asm.endKernel (a : Asm) : Except Error Asm :=
  let a := a.close
  match a.kernel with
  | none => .error .directive
  | some k =>
    if k.entry.isNone || k.roles.any (fun r => r.entry.isNone) then .error .directive
    else if k.aboveFloor && !k.devClass then .error .floor
    else
      let ms := k.meets
      (each (fun
        | .clause c => emitClause k ms c
        | .words ws => .ok ws) k.items.reverse).bind fun ws =>
      (each (segBytes k a.at') k.segs.reverse).bind fun segs =>
      (each (fun s => (k.label s).map (fun x => (s, x))) k.traps.reverse).map fun traps =>
        { a with kernel := none
                 cur := { a.cur with code := a.cur.code ++ ws.flatten, segs := a.cur.segs ++ segs
                                     kernels := a.cur.kernels ++ [k.entryBytes], devClass := a.cur.devClass || k.devClass
                                     traps := a.cur.traps ++ traps } }

/-! ### Directives (R70, R71) -/

/-- Go to the code of the variant with a signature, which may have been begun before. -/
def Asm.enter (a : Asm) (sig : Nat) (inside : Bool) : Asm :=
  let all := if a.done.any (fun v => v.sig == a.cur.sig) then a.done.map (fun v => if v.sig == a.cur.sig then a.cur else v)
    else a.done ++ [a.cur]
  let v := (all.find? (fun v => v.sig == sig)).getD (Variant.empty sig)
  { a with done := all, cur := v, inVariant := inside, at' := 8 * v.code.length }

/-- The number an operand of a directive is, within its limits. -/
def Asm.num (a : Asm) (t : List Char) (low high : Nat) : Except Error Nat :=
  match expr a.consts t with
  | some x => if (low : Int) ≤ x ∧ x ≤ high then .ok x.toNat else .error .directive
  | none => .error .directive

def named (t : List Char) : Except Error String :=
  match ident t with
  | some s => .ok s
  | none => .error .directive

/-- The kernel that a directive acts on. -/
def Asm.inKernel (a : Asm) (f : Kernel → Except Error Kernel) : Except Error Asm :=
  match a.kernel with
  | none => .error .directive
  | some k => (f k).map fun k => { a with kernel := some k }

/-- The newest segment of a kernel. -/
def Kernel.inSeg (k : Kernel) (e : Error) (f : Seg → Except Error Seg) : Except Error Kernel :=
  match k.segs with
  | [] => .error e
  | s :: ss => (f s).map fun s => { k with segs := s :: ss }

def Kernel.openSeg (k : Kernel) (name : String) : Kernel :=
  { k with segs := { name := name, start := none, stop := none, handler := none, binKey := 0 } :: k.segs }

/-- A power of two. -/
def powerOfTwo (n : Nat) : Bool := (List.range 13).any (fun i => n == 2 ^ i)

/-- A data statement: values in the width of a type, lowest byte first (R71). -/
def Asm.datum (a : Asm) (t : Ty) (args : List (List Char)) : Except Error Asm :=
  if t == .fq4 || t == .t2 || t == .b1 then .error .directive
  else if args.isEmpty then .error .form
  else (each (fun x => match valueOf a.consts x with
      | some v => (match typeBits t v with
        | some b => .ok (leBytes (bitsOfTy t / 8) b)
        | none => .error .immediate)
      | none => .error .immediate) args).map fun bs => { a with data := a.data ++ bs.flatten }

/-- `.end` closes the innermost of kernel, variant and data. -/
def Asm.endOf (a : Asm) : Except Error Asm :=
  if a.kernel.isSome then a.endKernel
  else if a.inData then .ok { a with inData := false }
  else if a.inVariant then .ok (a.enter anySig false)
  else .error .directive

/-- `.align`: NOP clauses in code, which are clauses of the kernel, and zeros in data. DEDUCED, log 129. -/
def Asm.align (a : Asm) (n : Nat) : Except Error Asm :=
  if !powerOfTwo n then .error .directive
  else if a.inData then .ok { a with data := a.data ++ List.replicate ((n - a.data.length % n) % n) 0 }
  else if n < 8 then .error .directive
  else
    let a := a.close
    let g := gap a.at' n
    let ws := padding g g
    match a.kernel with
    | some k =>
      let k := if g = 0 then k else k.clauseAt a.at'
      .ok { a with kernel := some { k with items := .words ws :: k.items }, at' := a.at' + 8 * g }
    | none => .ok { a with cur := { a.cur with code := a.cur.code ++ ws }, at' := a.at' + 8 * g }

/-- The signature of `.variant`: 16 hexadecimal digits, or `any`. -/
def sigOf (t : List Char) : Except Error Nat :=
  if lower t == ['a', 'n', 'y'] then .ok anySig
  else if t.length = 16 && !t.contains '_' then
    match digits 16 t with
    | some n => .ok n
    | none => .error .directive
  else .error .directive

/-- `.role`: a segment of the same name, at most 5 roles and 32 groups. -/
def Asm.role (a : Asm) (n g : List Char) : Except Error Asm :=
  (named n).bind fun name => (a.num g 1 32).bind fun groups =>
    a.close.inKernel fun k =>
      if 5 ≤ k.roles.length ∨ 32 < groups + (k.roles.map Role.groups).sum then .error .roles
      else .ok { k.openSeg name with roles := { name := name, groups := groups, regs := none, tiles := none, entry := none } :: k.roles }

/-- `.regs` and `.tiles` act on the open role, or on the kernel before its first role (R71). -/
def Kernel.regsOr (k : Kernel) (onRole : Role → Role) (onKernel : Kernel) : Kernel :=
  match k.roles with
  | r :: rs => { k with roles := onRole r :: rs }
  | [] => onKernel

/-- One directive. DESIGN CHOICE, log 121. -/
def Asm.directive (a : Asm) (name : String) (args : List (List Char)) : Except Error Asm :=
  match name, args with
  | "kernel", [n] =>
    if a.kernel.isSome || a.inData then .error .directive
    else (named n).bind fun s =>
      if 32 < s.length then .error .directive
      else .ok { a with opened := none, kernel := some (Kernel.empty s) }
  | "role", [n, g] => a.role n g
  | "regs", [n] => (a.num n 1 256).bind fun x => a.inKernel fun k => .ok (k.regsOr ({ · with regs := some x }) { k with regs := x })
  | "tiles", [n] => (a.num n 0 16).bind fun x => a.inKernel fun k => .ok (k.regsOr ({ · with tiles := some x }) { k with tiles := x })
  | "spad", [n] => (a.num n 0 1048576).bind fun x => a.inKernel fun k => .ok { k with spad := x }
  | "quota", [q, n] =>
    match String.ofList (lower q) with
    | "tbar" => (a.num n 0 64).bind fun x => a.inKernel fun k => .ok { k with tbar := x }
    | "queue" => (a.num n 0 32).bind fun x => a.inKernel fun k => .ok { k with queue := x }
    | "bound" => (a.num n 0 16).bind fun x => a.inKernel fun k => .ok { k with bound := x }
    | _ => .error .directive
  | "segment", [n] => (named n).bind fun s => a.close.inKernel fun k => .ok (k.openSeg s)
  | "handler", [h, l] =>
    (named l).bind fun s =>
    match String.ofList (lower h) with
    | "yield" => a.inKernel fun k => k.inSeg .yieldOutside fun g => .ok { g with handler := some s }
    | "trap" => a.inKernel fun k => .ok { k with traps := s :: k.traps }
    | _ => .error .directive
  | "binkey", [n] => (a.num n 0 0xFFFF).bind fun x => a.inKernel fun k => k.inSeg .directive fun g => .ok { g with binKey := x }
  | "variant", [s] =>
    if a.kernel.isSome || a.inData || a.inVariant then .error .directive else (sigOf s).map fun x => a.enter x true
  | "devclass", [n] =>
    if String.ofList (lower n) == "zelolaisk" then a.inKernel fun k => .ok { k with devClass := true } else .error .directive
  | "data", [n] =>
    if a.kernel.isSome || a.inData || a.inVariant then .error .directive else (named n).map fun _ => { a with inData := true }
  | "align", [n] => (a.num n 1 4096).bind a.align
  | "const", [n, e] =>
    (named n).bind fun s => match expr a.consts e with
      | some x => .ok { a with consts := (s, x) :: a.consts }
      | none => .error .immediate
  | "clause", [] => if a.kernel.isSome then .ok a.close else .error .directive
  | "end", [] => a.endOf
  | n, args => match tyOfSuffix n with
    | some t => if a.inData then a.datum t args else .error .directive
    | none =>
      if ["kernel", "role", "regs", "tiles", "spad", "quota", "segment", "handler", "binkey", "variant", "devclass", "data", "align",
        "const", "clause", "end"].contains n then .error .directive else .error .unknown

/-- A label names the next clause of its kernel (R69). -/
def Asm.labelled (a : Asm) (s : String) : Except Error Asm :=
  a.close.inKernel fun k =>
    if (k.labels.lookup s).isSome then .error .duplicate else .ok { k with labels := (s, none) :: k.labels }

/-- One line. -/
def Asm.line (a : Asm) (t : List Char) : Except Error Asm :=
  (lineOf t).bind fun l =>
    if l.dot then (match l.head with
      | [n] => a.directive n l.args
      | _ => .error .unknown)
    else (match l.label with
      | some s => a.labelled s
      | none => .ok a).bind fun a =>
        if l.head.isEmpty then .ok a
        else if a.inData then .error .form
        else (draft a.consts l.guard l.head l.args).bind a.word

/-- All lines, with the number of the line that has the first error. -/
def lines : Nat → List (List Char) → Asm → Except (Nat × Error) Asm
  | _, [], a => .ok a
  | n, t :: ts, a =>
    match a.line t with
    | .ok a => lines (n + 1) ts a
    | .error e => .error (n, e)

/-- What a source gives: the variants with their code, and the data. What is open at its end is closed there. -/
structure Object where
  variants : List Variant
  data : List Byte
deriving DecidableEq, Repr

/-- The assembler: a source's object, or the first error with its line (R73). DEDUCED, log 129. -/
def assemble (src : List Char) : Except (Nat × Error) Object :=
  let ts := splitAt '\n' src
  (lines 1 ts Asm.start).bind fun a =>
    match (if a.kernel.isSome then a.endKernel else .ok a) with
    | .error e => .error (ts.length, e)
    | .ok a => .ok { variants := ((a.enter a.cur.sig false).done.filter (fun v => !v.code.isEmpty)), data := a.data }

/-! ### The code object (R330) -/

/-- Zeros up to the next multiple of 8. -/
def padTo8 (bs : List Byte) : List Byte := bs ++ List.replicate ((8 - bs.length % 8) % 8) 0

/-- The variant's entry, its sections beginning at `off`, and the sections. -/
def Variant.bytes (v : Variant) (off : Nat) : List Byte × List Byte :=
  let code := v.code.flatMap (fun w => leBytes 8 w.toNat)
  let segs := v.segs.flatten
  let kernels := v.kernels.flatten
  (leBytes 8 v.sig ++ leBytes 8 (if v.devClass then 1 else 0) ++ leBytes 8 off ++ leBytes 8 code.length ++ sha256 code
      ++ leBytes 8 (off + code.length) ++ leBytes 8 v.segs.length ++ leBytes 8 (off + code.length + segs.length)
      ++ leBytes 8 v.kernels.length,
    code ++ segs ++ kernels)

/-- Entries and sections of the variants in order. -/
def variantBytes : List Variant → Nat → List Byte × List Byte
  | [], _ => ([], [])
  | v :: vs, off =>
    let (e, b) := v.bytes off
    let (es, bs) := variantBytes vs (off + b.length)
    (e ++ es, b ++ bs)

/-- The bytes of a code object (R330): the header, the variant table, the variants' sections, the data. -/
def Object.bytes (o : Object) : List Byte :=
  let (es, bs) := variantBytes o.variants (64 + 96 * o.variants.length)
  let dataOff := 64 + es.length + bs.length
  leBytes 4 0x7A5C0B01 ++ leBytes 2 1 ++ leBytes 2 o.variants.length ++ leBytes 8 64 ++ List.replicate 16 0
    ++ leBytes 8 dataOff ++ leBytes 8 o.data.length ++ List.replicate 16 0 ++ es ++ bs ++ padTo8 o.data

end Sys2Proof.Machine.Zas
end

