-- ==== Sys2Proof/Laws/Zas.lean ====
section
/-! SUPPORT. The assembler: the words it emits pass the checks of R58, a clause keeps the limits of R69, and a kernel above
the resource floor has a device class (R72). -/

namespace Sys2Proof.Machine.Zas

/-- R73: zas never emits a word that fails a check of R58. -/
theorem emitWord_decodes {k : Kernel} {x : Nat} {lits : List W64} {d : Draft} {idx : List (Nat × Nat)} {w : W64}
    (h : emitWord k x lits d idx = .ok w) : ∃ i, decodeWord lits w = .ok i := by
  simp only [emitWord, Except.bind] at h
  split at h
  · cases h
  · split at h
    · cases h
    · split at h
      · injection h with h
        subst h
        exact ⟨_, ‹_›⟩
      · cases h

/-- R69: a clause holds at most 16 words and literals, 7 of them literals. -/
theorem add_limits {c c' : Clause} {d : Draft} (h : c.add d = some c') :
    c'.drafts.length + c'.lits.length ≤ 16 ∧ c'.lits.length ≤ 7 := by
  simp only [Clause.add] at h
  split at h
  · cases h
  · rename_i hn
    cases h
    simp only [Bool.or_eq_true, Bool.and_eq_true, decide_eq_true_eq, not_or, Nat.not_lt] at hn
    simp only [List.length_append, List.length_cons, List.length_nil]
    omega

/-- R69: nothing follows a control transfer or a segment-ending word in its clause. -/
theorem add_ended {c : Clause} {d : Draft} (h : c.ended = true) : c.add d = none := by
  simp [Clause.add, h]

/-- R72: a kernel above the floor is closed only where it has a device class. -/
theorem endKernel_floor {a b : Asm} {k : Kernel} (h : a.endKernel = .ok b) (hk : a.close.kernel = some k) (hf : k.aboveFloor = true) :
    k.devClass = true := by
  simp only [Asm.endKernel, hk, hf] at h
  split at h
  · cases h
  · split at h
    · cases h
    · simp_all

end Sys2Proof.Machine.Zas
end

