-- ==== Sys2Proof/Tests/Slice0.lean ====
section
/-! SUPPORT. Tests of the model: words written out bit by bit from the encodings of the spec, ill-formed terms, one step of
instructions on small states, and for every statement with hypotheses a state and operands that meet them. The expected
results are worked by hand from the rules named. -/

namespace Sys2Proof.Tests

open Sys2Proof Sys2Proof.Machine

-- one test after another: the kernel's evaluations side by side ask for a thread each
set_option Elab.async false

/-! ### A small machine: one group on core 0, context 1, launch 0, block 0 -/

/-- A LIVE lane L with some v registers. -/
def liveLane (L : Nat) (v : SMap W32) : Lane :=
  { Lane.off with status := .live, pc := 0x200, threadId := BitVec.ofNat 32 L, v := v, p := 0x02 }

/-- A leaf for 64 KiB of local memory at a frame, readable, writable and executable, cacheable, with A and D set (R320). -/
def leafAt (frame : Nat) : W64 := BitVec.ofNat 64 (frame * 2 ^ 18 + 0x37207)

/-- A held translation of a page of context 1, whose entry lies at an address of its own. -/
def held (va frame : Nat) : TlbEntry :=
  { asid := 1, page := va / 65536, pte := leafAt frame, level := 0, addr := 0x900000 + 8 * frame }

/-- A clause that runs one word, at code offset 0x200. -/
def oneWord (w : W64) : Run := { pc := 0x200, wix := 0, words := [w, 0], lits := [], next := 0x218, mask := 3 }

def group : Group :=
  { Group.off with
    gid := 1, core := 0, asid := 1, launch := 0, block := 0, bound := 64, tiles := 2, k := 0x3, run := some (oneWord 0)
    lanes := [(0, liveLane 0 [(1, 7), (2, 5), (3, 0x3F800000), (4, 0x40000000)]), (1, liveLane 1 [(1, 9), (2, 3), (3, 0xBF800000)])
      , (2, { liveLane 0 [] with status := .helper })]
    w := [(1, 11), (2, 6), (3, 0x10000), (4, 0), (5, 0)] }

def ctx : Ctx :=
  { Ctx.off with
    state := .running, dctx := 5, codeBase := 0x20000, codeSize := 65536, privBase := 0x30000, privSize := 256, stkLimit := 0
    poolBase := 0x40000, poolSize := 131072, trapPc := 0x800, fqBase := 0x50000, fqSize := 4, tmplBase := 0x60000, tmplCount := 16
    parkThresh := 512, poolTmo := 50000, binAge := 2000, lockQuota := 64 }

def block : Block :=
  { asid := 1, launch := 0, num := 0, core := 0, spadBase := 0, spadSize := 8192, tbarQuota := 4, queueQuota := 2, boundQuota := 2
    tbars := [], qmap := [], waiters := [], waiterSeq := 0, htabs := [], gang := 0, gangIndex := 0, gangCores := [0]
    imageUnit := 256, imageUnits := 33, saved := false, image := [], imagePoison := [] }

def launch : Launch :=
  { asid := 1, num := 0, queue := 0, words := List.replicate 16 0, const := [], prio := 0, since := 0, nextBlock := 1, blocksEnded := 0
    accepted := true, code := 0, completed := false, slot := none }

/-- The machine: READY, every core of State.reset's fuses in operation, one running context. -/
def unit : State :=
  { State.reset with
    g := group, now := 1000, ctxs := [(1, ctx)], parts := [(0, { Part.init with mask := resetCores })]
    blocks := [block], launches := [launch]
    hier := { Hier.empty with tlb := [(1, [held 0x10000 1, held 0x20000 2, held 0x30000 3, held 0x40000 4, held 0x50000 5, held 0x60000 6])] }
    boot := { State.reset.boot with stage := 6, ready := true }
    ident := { coreEn := resetCores, stackEn := 0xFF, portEn := 0xFFFF, chanEn := 0xFFFF, coreLive := resetCores } }

/-- What a step leaves: nothing where it does not go on. -/
def after (i : Instr) (s : State) : Option State :=
  match exec i s with
  | .next t => some t
  | _ => none

/-- Register n of lane L after an instruction. -/
def vAfter (i : Instr) (s : State) (L n : Nat) : Option W32 := (after i s).map (fun t => (t.g.lane L).vr n)
/-- Predicate n of lane L after an instruction. -/
def pAfter (i : Instr) (s : State) (L n : Nat) : Option Bool := (after i s).map (fun t => (t.g.lane L).pred n)
/-- w register n after an instruction. -/
def wAfter (i : Instr) (s : State) (n : Nat) : Option W32 := (after i s).map (fun t => t.g.wr n)

/-- Format A with v sources 1 and 2, to v10. -/
def fa (ty : Ty) : FmtA :=
  { guard := .always, keep := false, mod := 0, dst := 10, a := .v 1, b := .v 2, c := .v 0, ty := ty, sat := false }
def fe : FmtE := { guard := .always, keep := false, mod := 0, dst := 0, a := 0, b := 0, c := 0, imm := 0 }
def fj : FmtJ := { guard := .always, keep := false, mod := 0, dst := 0, off := 0 }
def fw : FmtW := { guard := .always, keep := false, mod := 0, dst := 10, a := 0, imm := 0 }
def fm : FmtM :=
  { guard := .always, keep := false, mod := 0, dst := 10, a := 4, b := 0, off := .imm 0, ty := .b32, scope := .none, ord := .plain }

/-- A check passes, and its result has a property. -/
def okOf {ε α : Type} (x : Except ε α) (p : α → Bool) : Bool :=
  match x with
  | .ok y => p y
  | .error _ => false

/-- How a check fails. -/
def failOf {ε α : Type} : Except ε α → Option ε
  | .error e => some e
  | .ok _ => none

/-- What the decoder reads from a word, and the check that rejects it. -/
def decoded (lits : List W64) (w : W64) : Option Instr := (decodeWord lits w).toOption
def rejected (lits : List W64) (w : W64) : Option Nat :=
  match decodeWord lits w with
  | .error n => some n
  | .ok _ => none

/-! ### Words written out (R45, R50 to R57, R61 to R63) and the checks of R58 -/

theorem test_decode_imad_literal :
    decoded [0x12345#64] 0b0000000111_0000_0_0_0_000_00000101_00000110_00000111_00000000_000110000110#64
      = some (.imad { fa .s32 with dst := 5, a := .v 6, b := .v 7, c := .lit 0 }) := by decide

theorem test_decode_iaddc :
    decoded [0x12345#64] 0b0000000011_0000_0_0_0_000_00000101_00000110_00000111_00000001_001110000000#64
      = some (.iaddc { fa .n32 with dst := 5, a := .v 6, b := .v 7, c := .v 1 }) := by decide

theorem test_decode_shl_imm :
    decoded [0x12345#64] 0b0000010101_0000_0_0_0_000_00000101_00000110_00000011_00000000_000000010000#64
      = some (.shl { fa .b32 with dst := 5, a := .v 6, b := .imm 3 }) := by decide

theorem test_decode_bfx_keep :
    decoded [0x12345#64] 0b0000011101_0000_1_0_0_000_00000101_00000110_00000011_00000000_001110001000#64
      = some (.bfx { fa .n32 with dst := 5, a := .v 6, b := .w 3, keep := true }) := by decide

theorem test_decode_sel_pair :
    decoded [0x12345#64] 0b0000100000_0000_0_0_0_000_00000100_00000110_00001000_00001010_010000000000#64
      = some (.sel { fa .n64 with dst := 4, a := .v 6, b := .v 8, c := .v 10 }) := by decide

theorem test_decode_movi :
    decoded [0x12345#64] 0b0000100010_0001_0_0_0_000_00001001_00000000_1111111111111111111111111111#64
      = some (.movi { fw with mod := 1, dst := 9, imm := 0xFFFFFFF }) := by decide

theorem test_decode_aadd :
    decoded [0x12345#64] 0b0001000000_0000_0_0_0_000_00001100_00000011_00000101_00000000_000110100000#64
      = some (.aadd { fa .s32 with dst := 12, a := .w 3, b := .v 5 }) := by decide

theorem test_decode_ffma_rs_sat :
    decoded [0x12345#64] 0b0001010011_0101_0_0_0_000_00000101_00000110_00000111_00001000_010110000001#64
      = some (.ffma { fa .f16 with dst := 5, mod := 5, a := .v 6, b := .v 7, c := .v 8, sat := true }) := by decide

theorem test_decode_fcvt_source_type :
    decoded [0x12345#64] 0b0001100001_0000_0_0_0_000_00000101_00000110_00000000_00001001_011000000000#64
      = some (.fcvt { fa .e4m3 with dst := 5, a := .v 6, b := .v 0, c := .v 9 }) := by decide

theorem test_decode_pkcvt_high :
    decoded [0x12345#64] 0b0001101011_1000_0_0_0_000_00000101_00000110_00000111_00000000_011000000000#64
      = some (.pkcvt { fa .e4m3 with dst := 5, mod := 8, a := .v 6, b := .v 7 }) := by decide

theorem test_decode_icmp_guarded :
    decoded [0x12345#64] 0b0010000000_0011_0_1_1_101_00000010_00000110_00000111_00101110_000110000000#64
      = some (.icmp { fa .s32 with guard := .on true 5, dst := 2, mod := 3, a := .v 6, b := .v 7, c := .v 0x2E }) := by decide

theorem test_decode_punpk_mask :
    decoded [0x12345#64] 0b0010001001_0001_0_0_0_000_00000000_00000110_00000111_00000000_000000000000#64
      = some (.punpkMask { fa .b32 with dst := 0, mod := 1, a := .v 6, b := .v 7 }) := by decide

theorem test_decode_qswz :
    decoded [0x12345#64] 0b0010010000_0000_0_0_0_000_00000101_00000110_00011011_00000000_000000010000#64
      = some (.qswz { fa .b32 with dst := 5, a := .v 6, b := .imm 27 }) := by decide

theorem test_decode_gshfl_xor :
    decoded [0x12345#64] 0b0010011010_0011_0_0_0_000_00000101_00000110_00000001_00000000_000000010000#64
      = some (.gshfl { fa .b32 with dst := 5, mod := 3, a := .v 6, b := .imm 1 }) := by decide

theorem test_decode_bra_back :
    decoded [0x12345#64] 0b0010110001_0000_0_1_1_010_00000000_111111111111111111111111111111111000#64
      = some (.bra { fj with guard := .on true 2, off := 0xFFFFFFFF8 }) := by decide

theorem test_decode_brc :
    decoded [0x12345#64] 0b0010110010_0000_0_0_0_000_00000001_000000000000000000000000000000000000#64
      = some (.brc { fj with dst := 1 }) := by decide

theorem test_decode_meet_clear :
    decoded [0x12345#64] 0b0010110111_0001_0_0_0_000_00000000_000000000000000000000000000000000000#64
      = some (.meetClear { fj with mod := 1 }) := by decide

theorem test_decode_callx :
    decoded [0x12345#64] 0b0010110101_0000_0_0_0_000_00000000_00001001_00000000_00000000_000000000000#64
      = some (.callx { fe with a := 9 }) := by decide

theorem test_decode_park_t :
    decoded [0x12345#64] 0b0010111001_0001_0_0_0_000_00000000_00000011_00000000_00000000_000001000000#64
      = some (.park { fe with mod := 1, a := 3, imm := 64 }) := by decide

theorem test_decode_ld_acquire :
    decoded [0x12345#64] 0b0011000000_0000_0_0_0_000_00000101_00001000_00000000_11111100_001101010001#64
      = some (.ld { fm with dst := 5, a := 8, off := .imm 0xFC, ty := .n16, scope := .package, ord := .acquire }) := by decide

theorem test_decode_stx8 :
    decoded [0x12345#64] 0b0011000101_0010_0_0_0_000_00000000_00001000_00010000_00000000_000001011100#64
      = some (.stx { fm with mod := 2, dst := 0, a := 8, b := 16 }) := by decide

theorem test_decode_atom_add_nr :
    decoded [0x12345#64] 0b0011001000_1000_0_0_0_000_00000000_00001000_00000011_00000000_000111011100#64
      = some (.atom { fm with mod := 8, dst := 0, a := 8, b := 3, ty := .s32 }) := by decide

theorem test_decode_dcz :
    decoded [0x12345#64] 0b0011010001_0000_0_0_0_000_00000000_00001000_00000011_00000000_000001011100#64
      = some (.dcz { fm with dst := 0, a := 8, b := 3 }) := by decide

theorem test_decode_cwb_all :
    decoded [0x12345#64] 0b0011010100_0001_0_0_0_000_00000111_00001000_00000011_00000000_000001011100#64
      = some (.cwb { fm with mod := 1, dst := 7, a := 8, b := 3 }) := by decide

theorem test_decode_fence :
    decoded [0x12345#64] 0b0011010111_0000_0_0_0_000_00000000_00000000_00000000_00000000_000000010110#64
      = some (.fence { fe with imm := 0x16 }) := by decide

theorem test_decode_await :
    decoded [0x12345#64] 0b0011100000_0000_0_0_0_000_00000101_00001001_00000000_00000000_000000010000#64
      = some (.await { fe with dst := 5, a := 9, imm := 16 }) := by decide

theorem test_decode_tbarv_tx :
    decoded [0x12345#64] 0b0011100101_0001_0_0_0_000_00000110_00001001_00001100_00001101_000000000000#64
      = some (.tbarv { fe with mod := 1, dst := 6, a := 9, b := 12, c := 13 }) := by decide

theorem test_decode_qtry_push :
    decoded [0x12345#64] 0b0011110011_0001_0_0_0_000_00000110_00000001_00001100_00000000_000000000000#64
      = some (.qtryPush { fe with mod := 1, dst := 6, a := 1, b := 12 }) := by decide

theorem test_decode_mmas :
    decoded [0x12345#64] 0b0100000010_0000_0_0_0_000_00000001_00001000_00001100_00000000_000000000011#64
      = some (.mmas { fe with dst := 1, a := 8, b := 12, imm := 3 }) := by decide

theorem test_decode_ald_sparse :
    decoded [0x12345#64] 0b0100010001_0001_0_0_0_000_00000001_00001001_00000000_00000000_000000000000#64
      = some (.aldSparse { fe with mod := 1, dst := 1, a := 9 }) := by decide

theorem test_decode_aunbind_flush :
    decoded [0x12345#64] 0b0100100001_0001_0_0_0_000_00000000_00000000_00000000_00000000_000000000000#64
      = some (.aunbindFlush { fe with mod := 1 }) := by decide

theorem test_decode_ktest_mask :
    decoded [0x12345#64] 0b0100110100_0001_0_0_0_000_00000101_00000000_00000000_00000000_000000000000#64
      = some (.ktestMask { fe with mod := 1, dst := 5 }) := by decide

theorem test_decode_xcopy_notok :
    decoded [0x12345#64] 0b0110000001_0000_0_0_0_000_00000000_00000101_00000110_00000111_000000000001#64
      = some (.xcopy { fe with a := 5, b := 6, c := 7, imm := 1 }) := by decide

theorem test_decode_smerge :
    decoded [0x12345#64] 0b0110001001_0000_0_0_0_000_00000101_00001000_00010000_00010100_000000000000#64
      = some (.smerge { fe with dst := 5, a := 8, b := 16, c := 20 }) := by decide

theorem test_decode_mrsel_close :
    decoded [0x12345#64] 0b0110010010_0001_0_0_0_000_00000000_00000000_00000000_00000000_000000000011#64
      = some (.mrselClose { fe with mod := 1, imm := 3 }) := by decide

theorem test_decode_xflag :
    decoded [0x12345#64] 0b0110100010_0000_0_0_0_000_00000110_00000011_00001001_00000100_000000000000#64
      = some (.xflag { fe with dst := 6, a := 3, b := 9, c := 4 }) := by decide

theorem test_decode_htacc_umax :
    decoded [0x12345#64] 0b0111000101_0110_0_0_0_000_00000101_00000110_00000111_00000000_000000000010#64
      = some (.htacc { fe with mod := 6, dst := 5, a := 6, b := 7, imm := 2 }) := by decide

theorem test_decode_sread_core :
    decoded [0x12345#64] 0b0111100000_0001_0_0_0_000_00000101_00000000_00000000_00000000_000000010000#64
      = some (.sread { fe with mod := 1, dst := 5, imm := 0x010 }) := by decide

theorem test_decode_tret_skip :
    decoded [0x12345#64] 0b0111100101_0001_0_0_0_000_00000000_00000000_00000000_00000000_000000000000#64
      = some (.tretSkip { fe with mod := 1 }) := by decide

theorem test_decode_launch :
    decoded [0x12345#64] 0b0111101000_0000_0_0_0_000_00000101_00000110_00001001_00000000_000000000000#64
      = some (.launch { fe with dst := 5, a := 6, b := 9 }) := by decide

theorem test_decode_hint_unimplemented :
    decoded [0x12345#64] 0b1111000010_0000_0_0_0_000_00000000_00000000_00000000_00000000_000000000000#64
      = some (.hintUnimplemented 2 0) := by decide +kernel

theorem test_decode_opcode_zero :
    decoded [0x12345#64] 0b0000000000_0000_0_0_0_000_00000000_00000000_00000000_00000000_000000000000#64
      = some (.reservedOpcode 0) := by decide

theorem test_decode_header_shadow :
    decoded [0x12345#64] 0b1100111000_0000_0_0_0_000_00000000_00000000_00000000_00000000_000000000000#64
      = some (.reservedOpcode 0xCE00000000000000) := by decide

theorem test_check_2_guard_bits_without_guard :
    rejected [0x12345#64] 0b0000000001_0000_0_0_0_010_00000101_00000110_00000111_00000000_000110000000#64 = some 2 := by decide

theorem test_check_3_type_not_listed :
    rejected [0x12345#64] 0b0000000001_0000_0_0_0_000_00000101_00000110_00000111_00000000_010010000000#64 = some 3 := by decide

theorem test_check_3_type_code_reserved :
    rejected [0x12345#64] 0b0000000001_0000_0_0_0_000_00000101_00000110_00000111_00000000_111110000000#64 = some 3 := by decide

theorem test_check_3_mod_not_listed :
    rejected [0x12345#64] 0b0000000001_0001_0_0_0_000_00000101_00000110_00000111_00000000_000110000000#64 = some 3 := by decide

theorem test_check_3_sat_not_accepted :
    rejected [0x12345#64] 0b0000001001_0000_0_0_0_000_00000101_00000110_00000111_00000000_000110000001#64 = some 3 := by decide

theorem test_check_4_odd_pair :
    rejected [0x12345#64] 0b0000000001_0000_0_0_0_000_00000101_00000110_00001000_00000000_001000000000#64 = some 4 := by decide

theorem test_check_4_w64 :
    rejected [0x12345#64] 0b0000000001_0000_0_0_0_000_00000101_01000000_00001000_00000000_000110100000#64 = some 4 := by decide

theorem test_check_4_literal_absent :
    rejected [0x12345#64] 0b0000000111_0000_0_0_0_000_00000101_00000110_00000111_00000001_000110000110#64 = some 4 := by decide

theorem test_check_4_tile_slot_16 :
    rejected [0x12345#64] 0b0100010000_0000_0_0_0_000_00010000_00000000_00000000_00000000_000000000000#64 = some 4 := by decide

theorem test_check_5_unused_field :
    rejected [0x12345#64] 0b0000001011_0000_0_0_0_000_00000101_00000110_00000111_00000000_000110000000#64 = some 5 := by decide

theorem test_check_5_unused_immediate_bits :
    rejected [0x12345#64] 0b0010111000_0000_0_0_0_000_00000000_00000000_00000000_00000000_000000000001#64 = some 5 := by decide

theorem test_check_5_carry_negated :
    rejected [0x12345#64] 0b0000000011_0000_0_0_0_000_00000101_00000110_00000111_00001001_001110000000#64 = some 5 := by decide

theorem test_ill_formed_3_type : Instr.wf [0x12345#64] (.iadd (fa .f32)) = false := by decide

theorem test_ill_formed_3_mod : Instr.wf [0x12345#64] (.iadd { fa .s32 with mod := 1 }) = false := by decide

theorem test_ill_formed_3_saturation : Instr.wf [0x12345#64] (.imin { fa .s32 with sat := true }) = false := by decide

theorem test_ill_formed_3_other_row : Instr.wf [0x12345#64] (.punpk { fa .b32 with dst := 0, mod := 1 }) = false := by decide

theorem test_ill_formed_4_odd_pair : Instr.wf [0x12345#64] (.iadd { fa .s64 with dst := 5, a := .v 6, b := .v 8 }) = false := by decide

theorem test_ill_formed_4_w_register : Instr.wf [0x12345#64] (.iadd { fa .s32 with a := .w 64 }) = false := by decide

theorem test_ill_formed_4_literal : Instr.wf [0x12345#64] (.iadd { fa .s32 with a := .lit 1 }) = false := by decide

theorem test_ill_formed_4_live_count : Instr.wf [0x12345#64] (.yield { fe with imm := 257 }) = false := by decide

theorem test_ill_formed_5_unused_field : Instr.wf [0x12345#64] (.iabs (fa .s32)) = false := by decide

theorem test_ill_formed_5_immediate_bits : Instr.wf [0x12345#64] (.exit { fe with imm := 1 }) = false := by decide

theorem test_ill_formed_hint_number : Instr.wf [0x12345#64] (.hintUnimplemented 1 0) = false := by decide

theorem test_ill_formed_reserved_opcode : Instr.wf [0x12345#64] (.reservedOpcode 0x0040000000000000) = false := by decide

theorem test_ill_formed_event_port : Instr.wf [0x12345#64] (.linkTraining 64) = false := by decide

theorem test_ill_formed_event_slot : Instr.wf [0x12345#64] (.replayGone 3 64) = false := by decide

theorem test_ill_formed_event_endpoint : Instr.wf [0x12345#64] (.replayGone 1024 3) = false := by decide

theorem test_ill_formed_event_queue : Instr.wf [0x12345#64] (.doorbellWrite 131072 0) = false := by decide

theorem test_ill_formed_event_packet : Instr.wf [0x12345#64] (.flagArrive { src := 0, dst := 0, slot := 64, dctx := 0, span := 0, gen := 0, stamp := 0, cls := .flag, addr := 0, bytes := [], count := 0, value := 0 }) = false := by decide

theorem test_ill_formed_event_partition : Instr.wf [0x12345#64] (.partUnfreeze 8) = false := by decide

theorem test_ill_formed_event_die : Instr.wf [0x12345#64] (.replicaWriteApplied 4) = false := by decide

theorem test_ill_formed_event_mesh_core : Instr.wf [0x12345#64] (.meshPacketArrive 0 0 0 52) = false := by decide

theorem test_ill_formed_event_ring_size : Instr.wf [0x12345#64] (.queueEnable { fn := 0, block := 0 } 0 0 5 false 1) = false := by decide

theorem test_ill_formed_event_cxl_port : Instr.wf [0x12345#64] (.cxlLinkDown 2) = false := by decide

theorem test_well_formed : ∀ i ∈ [Instr.iadd (fa .s32), .iadd { fa .s64 with dst := 4, a := .v 6, b := .v 8 }, .imad { fa .s32 with c := .lit 0 }, .punpkMask { fa .b32 with dst := 0, mod := 1 }, .yield { fe with imm := 256 }, .hintUnimplemented 2 5, .reservedOpcode 0, .linkTraining 15, .exit fe, .doorbellWrite 131071 0],
    Instr.wf [0x12345#64] i = true := by decide

/-! ### One step of the computing words -/

theorem test_integer_words :
    vAfter (.iadd (fa .s32)) unit 1 10 = some 12 ∧ vAfter (.iadd { fa .s32 with b := .imm 0xF0 }) unit 0 10 = some 0xFFFFFFF7
      ∧ vAfter (.isub (fa .s32)) unit 0 10 = some 2 ∧ vAfter (.imul (fa .s32)) unit 1 10 = some 27
      ∧ vAfter (.imulh { fa .s32 with a := .imm 0xFF }) unit 0 10 = some 0xFFFFFFFF
      ∧ vAfter (.imad { fa .s32 with c := .imm 1 }) unit 0 10 = some 36 ∧ vAfter (.imin (fa .n32)) unit 0 10 = some 5
      ∧ vAfter (.imax (fa .s32)) unit 1 10 = some 9 ∧ vAfter (.iabs { fa .s32 with a := .imm 0x80, b := .v 0 }) unit 0 10 = some 128
      ∧ vAfter (.ineg { fa .s32 with b := .v 0 }) unit 0 10 = some 0xFFFFFFF9 ∧ vAfter (.dot4 (fa .n8)) unit 0 10 = some 35 := by
  decide

theorem test_saturation :
    vAfter (.iadd { fa .s32 with a := .lit 0, b := .imm 1, sat := true })
        { unit with g := { group with run := some { oneWord 0 with lits := [0x7FFFFFFF] } } } 0 10 = some 0x7FFFFFFF
      ∧ vAfter (.ineg { fa .s32 with a := .lit 0, b := .v 0, sat := true })
        { unit with g := { group with run := some { oneWord 0 with lits := [0x80000000] } } } 0 10 = some 0x7FFFFFFF := by decide

theorem test_carry_chain :
    vAfter (.iaddc { fa .n32 with a := .imm 1, b := .lit 0, c := .v 1 })
        { unit with g := { group with run := some { oneWord 0 with lits := [0xFFFFFFFF] } } } 0 10 = some 1
      ∧ pAfter (.iaddc { fa .n32 with a := .imm 1, b := .lit 0, c := .v 1 })
        { unit with g := { group with run := some { oneWord 0 with lits := [0xFFFFFFFF] } } } 0 1 = some true
      ∧ vAfter (.isubb { fa .n32 with c := .v 1 }) unit 0 10 = some 1
      ∧ pAfter (.isubb { fa .n32 with c := .v 1 }) unit 0 1 = some false
      ∧ pAfter (.isubb { fa .n32 with a := .v 2, b := .v 1, c := .v 1 }) unit 0 1 = some true := by decide

theorem test_wide_multiply_add : (after (.imad64 { fa .s32 with a := .imm 0xFF, c := .imm 0 }) unit).map (fun t => (t.g.lane 0).vrN 10 2)
    = some (2 ^ 64 - 5) := by decide

theorem test_logic_words :
    vAfter (.and (fa .b32)) unit 0 10 = some 5 ∧ vAfter (.or (fa .b32)) unit 0 10 = some 7 ∧ vAfter (.xor (fa .b32)) unit 0 10 = some 2
      ∧ vAfter (.andn (fa .b32)) unit 0 10 = some 2 ∧ vAfter (.not { fa .b32 with b := .v 0 }) unit 0 10 = some 0xFFFFFFF8
      ∧ vAfter (.shl (fa .b32)) unit 0 10 = some 224 ∧ vAfter (.shl { fa .b32 with b := .imm 32 }) unit 0 10 = some 0
      ∧ vAfter (.shr (fa .b32)) unit 1 10 = some 1 ∧ vAfter (.sar { fa .s32 with a := .imm 0xF9, b := .imm 1 }) unit 0 10 = some 0xFFFFFFFC
      ∧ vAfter (.sar { fa .s32 with a := .imm 0xF9, b := .imm 40 }) unit 0 10 = some 0xFFFFFFFF
      ∧ vAfter (.rotl { fa .b32 with b := .imm 33 }) unit 0 10 = some 14 ∧ vAfter (.popc { fa .b32 with b := .v 0 }) unit 0 10 = some 3
      ∧ vAfter (.clz { fa .b32 with b := .v 0 }) unit 0 10 = some 29 ∧ vAfter (.clz { fa .b32 with a := .imm 0, b := .v 0 }) unit 0 10 = some 32
      ∧ vAfter (.ctz { fa .b32 with a := .imm 8, b := .v 0 }) unit 0 10 = some 3
      ∧ vAfter (.brev { fa .b32 with b := .v 0 }) unit 0 10 = some 0xE0000000 := by decide

/-- The machine whose clause holds literals. -/
def withLits (l : List W64) : State := { unit with g := { group with run := some { oneWord 0 with lits := l } } }

theorem test_bit_fields :
    vAfter (.bfx { fa .n32 with b := .lit 0 }) (withLits [0x0201]) 0 10 = some 3
      ∧ vAfter (.bfx { fa .s32 with b := .lit 0 }) (withLits [0x0201]) 0 10 = some 0xFFFFFFFF
      ∧ vAfter (.prmt { fa .b32 with a := .lit 0, b := .imm 0, c := .lit 1 }) (withLits [0x44332211, 0x0123]) 0 10 = some 0x11223344 := by
  decide

theorem test_moves :
    vAfter (.sel { fa .b32 with c := .v 1 }) unit 0 10 = some 7 ∧ vAfter (.sel { fa .b32 with c := .v 9 }) unit 0 10 = some 5
      ∧ vAfter (.mov { fa .b32 with b := .v 0 }) unit 1 10 = some 9 ∧ vAfter (.movi { fw with mod := 1, imm := 0xFFFFFFF }) unit 0 10 = some 0xFFFFFFFF
      ∧ vAfter (.movi { fw with mod := 2, imm := 0xFFFFFFF }) unit 0 10 = some 0xFFFFFFF0
      ∧ vAfter (.movw { fa .b32 with a := .w 1, b := .imm 1 }) unit 0 10 = some 6
      ∧ wAfter (.wmov { fa .b32 with dst := 20, b := .v 0 }) unit 20 = some 7 := by decide

theorem test_addresses :
    (after (.aadd { fa .s32 with a := .w 3, b := .imm 0xFF }) unit).map (fun t => (t.g.lane 0).vrN 10 3) = some 0xFFFF
      ∧ (after (.adiff { fa .s64 with a := .w 3, b := .w 3 }) unit).map (fun t => (t.g.lane 0).vrN 10 2) = some 0
      ∧ pAfter (.acmp { fa .b32 with dst := 2, mod := 5, a := .w 3, b := .w 3 }) unit 0 2 = some true
      ∧ pAfter (.sptest { fa .b32 with dst := 2, mod := 3, a := .w 3, b := .v 0 }) unit 0 2 = some true := by decide

/-- An address in the scratchpad window plus an offset that leaves its 24 bits is the address-format trap (R113). -/
theorem test_address_trap :
    (after (.aadd { fa .s32 with a := .w 6, b := .lit 0 })
        { withLits [0xFFFFFF] with g := { (withLits [0xFFFFFF]).g with w := [(6, 0xFF000001), (7, 0xFF), (8, 0xFE00)] } }).map
      (fun t => (t.g.trap.map (fun r => (r.cause, r.detail, r.lane)))) = some (some (0x06, 0, 0)) := by decide

theorem test_float_words :
    vAfter (.fadd { fa .f32 with a := .v 3, b := .v 4 }) unit 0 10 = some 0x40400000
      ∧ vAfter (.fsub { fa .f32 with a := .v 3, b := .v 4 }) unit 0 10 = some 0xBF800000
      ∧ vAfter (.fmul { fa .f32 with a := .v 3, b := .v 4 }) unit 1 10 = some 0x80000000
      ∧ vAfter (.ffma { fa .f32 with a := .v 4, b := .v 4, c := .v 3 }) unit 0 10 = some 0x40A00000
      ∧ vAfter (.fmin { fa .f32 with a := .v 3, b := .v 4 }) unit 1 10 = some 0xBF800000
      ∧ vAfter (.frcp { fa .f32 with a := .v 4, b := .v 0 }) unit 0 10 = some 0x3F000000
      ∧ vAfter (.fsqrt { fa .f32 with a := .imm 4, b := .v 0 }) unit 0 10 = some 0x40000000
      ∧ vAfter (.fex2 { fa .f32 with a := .v 3, b := .v 0 }) unit 1 10 = some 0x3F000000
      ∧ vAfter (.flg2 { fa .f32 with a := .imm 8, b := .v 0 }) unit 0 10 = some 0x40400000
      ∧ vAfter (.fscale { fa .f32 with a := .v 4, b := .imm 0xFF }) unit 0 10 = some 0x3F800000
      ∧ vAfter (.fadd { fa .f32 with a := .lit 0, b := .v 3 }) (withLits [0x7F800001]) 0 10 = some 0x7FC00000 := by
  decide +kernel

theorem test_conversions :
    vAfter (.fcvt { fa .bf16 with a := .v 4, b := .v 0, c := .v 9 }) unit 0 10 = some 0x4000
      ∧ vAfter (.icvt { fa .f32 with a := .v 1, b := .v 0, c := .v 3 }) unit 0 10 = some 0x40E00000
      ∧ vAfter (.ficvt { fa .s32 with a := .lit 0, b := .v 0, c := .v 9 }) (withLits [0xC0200000]) 0 10 = some 0xFFFFFFFE
      ∧ vAfter (.pkadd { fa .bf16 with a := .lit 0, b := .lit 0 }) (withLits [0x3F804000]) 0 10 = some 0x40004080
      ∧ vAfter (.pkcvt { fa .bf16 with a := .v 3, b := .v 4 }) unit 0 10 = some 0x40003F80 := by decide

theorem test_predicates :
    pAfter (.icmp { fa .s32 with dst := 3, mod := 2 }) unit 0 3 = some false
      ∧ pAfter (.icmp { fa .s32 with dst := 3, mod := 4, c := .v 9 }) unit 0 3 = some true
      ∧ pAfter (.fcmp { fa .f32 with dst := 3, mod := 0, a := .lit 0, b := .imm 0 }) (withLits [0x80000000]) 0 3 = some true
      ∧ pAfter (.fcmp { fa .f32 with dst := 3, mod := 7, a := .lit 0, b := .imm 0 }) (withLits [0x7FC00000]) 0 3 = some true
      ∧ pAfter (.pand { fa .b32 with dst := 3, a := .v 1, b := .v 9 }) unit 0 3 = some false
      ∧ pAfter (.por { fa .b32 with dst := 3, a := .v 1, b := .v 0 }) unit 0 3 = some true
      ∧ pAfter (.pxor { fa .b32 with dst := 3, a := .v 1, b := .v 1 }) unit 0 3 = some false
      ∧ pAfter (.pnot { fa .b32 with dst := 3, a := .v 1, b := .v 0 }) unit 0 3 = some false
      ∧ vAfter (.ppack { fa .b32 with a := .v 0, b := .v 0 }) unit 0 10 = some 2
      ∧ pAfter (.punpk { fa .b32 with dst := 0, b := .v 0 }) unit 0 2 = some true
      ∧ pAfter (.punpkMask { fa .b32 with dst := 0, mod := 1 }) unit 0 1 = some true := by decide

theorem test_quad_words :
    vAfter (.qswz { fa .b32 with b := .imm 0b00011011 }) unit 3 10 = some 0
      ∧ vAfter (.qswz { fa .b32 with b := .imm 0b00011001 }) unit 0 10 = some 9
      ∧ vAfter (.qxch { fa .b32 with b := .v 0 }) unit 0 10 = some 9 ∧ vAfter (.qred { fa .s32 with b := .v 0 }) unit 2 10 = some 16
      ∧ vAfter (.qdiff { fa .f32 with a := .v 3, b := .v 0 }) unit 0 10 = some 0xC0000000
      ∧ pAfter (.qhelp { fa .b32 with dst := 3, a := .v 0, b := .v 0 }) unit 2 3 = some true := by decide

theorem test_group_words :
    pAfter (.gvote { fa .b32 with dst := 3, b := .v 0 }) unit 0 3 = some true
      ∧ vAfter (.gballot { fa .b32 with b := .v 0 }) unit 2 10 = some 3 ∧ vAfter (.gcount { fa .b32 with b := .v 0 }) unit 0 10 = some 2
      ∧ vAfter (.gshfl { fa .b32 with mod := 3, b := .imm 1 }) unit 0 10 = some 9
      ∧ vAfter (.gbcst { fa .b32 with b := .imm 1 }) unit 0 10 = some 9 ∧ vAfter (.gred { fa .s32 with b := .v 0 }) unit 1 10 = some 16
      ∧ vAfter (.gscan { fa .s32 with mod := 8, b := .v 0 }) unit 1 10 = some 7
      ∧ vAfter (.gmatch { fa .b32 with a := .imm 1, b := .v 0 }) unit 1 10 = some 3
      ∧ vAfter (.gtopk { fa .s32 with b := .imm 1 }) unit 0 10 = some 2 := by decide

/-! ### States and operands that meet the hypotheses of the statements -/

theorem ok_of_isOk {ε α : Type} {x : Except ε α} (h : x.isOk = true) : ∃ y, x = .ok y := by
  cases x with
  | ok y => exact ⟨y, rfl⟩
  | error e => simp [Except.isOk, Except.toBool] at h

theorem ok_of_toOption {ε α : Type} {x : Except ε α} {y : α} (h : x.toOption = some y) : x = .ok y := by
  cases x with
  | ok z => simpa [Except.toOption] using h
  | error e => simp [Except.toOption] at h

theorem witness_IntegerArithmetic :
    ∀ i ∈ [Instr.iadd (fa .s32), .isub (fa .s32), .imul (fa .s32), .imulh (fa .s32), .imad (fa .s32), .imin (fa .s32), .imax (fa .s32)
      , .iabs (fa .s32), .ineg (fa .s32), .imad64 { fa .s32 with c := .v 12 }, .dot4 (fa .s8)], unit.Ready i .always := by decide

theorem witness_CarryChain :
    unit.Ready (.iaddc { fa .n32 with c := .v 1 }) .always ∧ unit.Ready (.isubb { fa .n32 with c := .v 1 }) .always
      ∧ (Instr.iaddc { fa .n32 with c := .v 1 }).wf [] = true ∧ (Instr.isubb { fa .n32 with c := .v 7 }).wf [] = true
      ∧ (encode (.iaddc { fa .n32 with c := .v 1 })).isSome = true ∧ (encode (.isubb (fa .n32))).isSome = true := by decide

theorem witness_LogicAndShifts :
    ∀ i ∈ [Instr.and (fa .b32), .or (fa .b32), .xor (fa .b32), .andn (fa .b32), .not { fa .b32 with b := .v 0 }, .shl (fa .b32)
      , .shr (fa .b32), .sar (fa .s32), .rotl (fa .b32), .popc { fa .b32 with b := .v 0 }, .clz { fa .b32 with b := .v 0 }
      , .ctz { fa .b32 with b := .v 0 }, .brev { fa .b32 with b := .v 0 }],
      unit.Ready i .always ∧ i.wf [] = true ∧ (encode i).isSome = true := by decide

theorem witness_BitFields :
    ∀ i ∈ [Instr.bfx (fa .n32), .bfi (fa .b32), .prmt (fa .b32)], unit.Ready i .always := by decide

theorem witness_Moves :
    (∀ i ∈ [Instr.sel (fa .b32), .mov (fa .b32), .movi fw, .movw { fa .b32 with a := .w 1 }, .wmov (fa .b32)], unit.Ready i .always)
      ∧ ∀ L ∈ unit.g.executing .always, unit.g.pend.get 0 (1 + unit.g.src32 .b32 (.v 2) L % 64) = 0 := by decide

/-- `unit` with an address of the scratchpad window in w6 to w8, and none that is an address in w9 to w11. -/
def windows : State :=
  { unit with g := { group with w := [(1, 11), (2, 6), (3, 0x10000), (6, 0xFF000100), (7, 0xFF), (8, 0xFE00), (11, 0x10000)] } }

theorem witness_AddressArithmetic :
    (∀ L ∈ windows.g.active .always,
        let a := windows.g.srcTriple (.w 6) L
        let y : Int := windows.g.srcVal .s32 (.v 2) L
        ¬ (2 ^ 80 ≤ a ∨ wrapTo 80 (a + y) / 2 ^ 72 % 256 ≠ a / 2 ^ 72 % 256 ∨ ((a % 2 ^ 24 : Nat) : Int) + y < 0
          ∨ 2 ^ 24 ≤ ((a % 2 ^ 24 : Nat) : Int) + y))
      ∧ (2 ^ 80 ≤ windows.g.srcTriple (.w 9) 0 ∧ 0 ∈ windows.g.active .always)
      ∧ (∀ L ∈ windows.g.active .always, windows.g.srcTriple (.w 6) L < 2 ^ 80
          ∧ (spCast windows.g.core 2 (windows.g.srcTriple (.w 6) L)).isOk = true)
      ∧ (∀ i ∈ [Instr.aadd { fa .s32 with a := .w 6 }, .asub { fa .s32 with a := .w 9 }, .adiff { fa .s64 with a := .w 6, b := .w 6 }
        , .amovi { fa .b32 with a := .w 6 }, .spcast { fa .b32 with mod := 2, a := .w 6 }], windows.Ready i .always) := by decide

theorem witness_AddressTests :
    (∀ L ∈ windows.g.active .always, windows.g.srcTriple (.w 6) L < 2 ^ 80 ∧ windows.g.srcTriple (.w 3) L < 2 ^ 80)
      ∧ (2 ^ 80 ≤ windows.g.srcTriple (.w 9) 0 ∧ 0 ∈ windows.g.active .always)
      ∧ windows.Ready (.acmp { fa .b32 with dst := 7, a := .w 6, b := .w 3 }) .always
      ∧ windows.Ready (.sptest { fa .b32 with dst := 7, a := .w 9 }) .always := by decide

theorem witness_FloatArithmetic :
    (∀ i ∈ [Instr.fadd (fa .f32), .fsub (fa .f32), .fmul (fa .f32), .ffma (fa .f32), .fscale (fa .f32), .frnd (fa .f32)
      , .fmin (fa .f32), .fmax (fa .f32)], unit.Ready i .always) ∧ unit.g.rm 0 ≠ .rs ∧ unit.g.rm 4 = .rs := by decide

theorem witness_FloatFunctions :
    ∀ i ∈ [Instr.frcp (fa .f32), .fsqrt (fa .f32), .frsq (fa .f32), .fex2 (fa .f32), .flg2 (fa .f32), .fsin (fa .f32), .fcos (fa .f32)
      , .ftanh (fa .f32), .fclass (fa .f32)], unit.Ready i .always := by decide

theorem witness_ConversionsAndPacked :
    (∀ i ∈ [Instr.fcvt { fa .bf16 with c := .v 9 }, .icvt { fa .f32 with c := .v 3 }, .icvt { fa .s32 with c := .v 4 }
      , .ficvt { fa .s32 with c := .v 9 }, .pkadd (fa .bf16), .pkmul (fa .bf16), .pkfma (fa .bf16), .pkcvt (fa .e4m3)], unit.Ready i .always)
      ∧ Ty.isFloat .f32 = true ∧ Ty.isFloat .s32 = false := by decide

theorem witness_Compares :
    unit.Ready (.icmp { fa .s32 with dst := 7 }) .always ∧ unit.Ready (.fcmp { fa .f32 with dst := 0 }) .always := by decide

/-- The operand classes of PSET and PUNPK: a short immediate, and the last w register with a literal of the clause. -/
theorem witness_PredicateWords_classes :
    (Instr.pset { fa .b32 with dst := 7, a := .imm 0xFF, b := .v 0, c := .v 0 }).wf [] = true
      ∧ (Instr.punpk { fa .b32 with dst := 0, a := .w 63, b := .v 0, c := .v 0 }).wf [] = true
      ∧ (Instr.punpkMask { fa .b32 with dst := 0, mod := 1, a := .v 255, b := .lit 0, c := .v 0 }).wf [5] = true := by
  decide

theorem witness_PredicateWords :
    ∀ i ∈ [Instr.pset { fa .b32 with dst := 7 }, .pand { fa .b32 with dst := 7 }, .por { fa .b32 with dst := 7 }, .pxor { fa .b32 with dst := 7 }
      , .pnot { fa .b32 with dst := 7 }, .pmov { fa .b32 with dst := 7 }, .ppack (fa .b32), .punpk (fa .b32), .punpkMask (fa .b32)],
      unit.Ready i .always := by decide

theorem witness_QuadWords :
    ∀ i ∈ [Instr.qswz { fa .b32 with b := .imm 27 }, .qxch (fa .b32), .qred (fa .s32), .qdiff (fa .f32), .qhelp { fa .b32 with dst := 7 }],
      unit.Ready i .always := by decide

theorem witness_GroupWords :
    ∀ i ∈ [Instr.gvote { fa .b32 with dst := 7 }, .gballot (fa .b32), .gcount (fa .b32), .gshfl (fa .b32), .gbcst (fa .b32), .gred (fa .s32)
      , .gscan (fa .s32), .gmatch (fa .b32), .gtopk (fa .s32)], unit.Ready i .always := by decide

theorem witness_ControlTransfers :
    (∀ i ∈ [Instr.bra fj, .brc { fj with dst := 1 }, .call fj, .brx { fe with a := 0 }, .brx { fe with a := 1 }, .callx { fe with a := 0 }
      , .callx { fe with a := 1 }, .ret fe], unit.Ready i .always) ∧ unit.g.run = some (oneWord 0)
      ∧ (∀ L ∈ unit.g.active .always, ((unit.g.lane L).vr 0).toNat % 8 = 0 ∧ ((unit.g.lane L).vr 31).toNat % 8 = 0)
      ∧ (0 ∈ unit.g.active .always ∧ ((unit.g.lane 0).vr 1).toNat % 8 ≠ 0 ∧ ∀ M ∈ unit.g.active .always, ¬ M < 0) := by decide

theorem witness_MeetingsAndHints :
    (∀ i ∈ [Instr.meet fj, .meetClear { fj with mod := 1 }, .nop fe, .hintUnimplemented 2 0, .hint0 0, .hint1 0],
      unit.Ready i .always) ∧ hintGuard 0 = .always := by decide

theorem witness_ExitEndsThreads : unit.Ready (.exit fe) .always ∧ unit.g.trap = none ∧ unit.g.held = [] := by decide

/-- `unit` with global addresses in v20 to v22 of the LIVE lanes. -/
def reaching : State :=
  { unit with g := { group with
    lanes := [(0, liveLane 0 [(1, 7), (8, 128), (20, 0x10000)]), (1, liveLane 1 [(1, 9), (8, 128), (20, 0x10080)])
      , (2, { liveLane 0 [] with status := .helper })] } }

/-- A format M word on v20 to v22, and one on w3 to w5. -/
def fv : FmtM := { fm with dst := 10, a := 20, b := 1 }
def fu : FmtM := { fm with dst := 10, a := 3, b := 1 }

theorem witness_Loads :
    (∀ i ∈ [Instr.ld { fv with b := 0 }, .ldx { fv with dst := 12, b := 0 }, .ldw { fu with b := 0 }], reaching.Ready i .always)
      ∧ (∀ L ∈ reaching.g.active .always, ((reaching.opened (.ld fv) .always).laneAccess .read fv 4 4 1 L).isOk = true
          ∧ ((reaching.opened (.ldx fv) .always).laneAccess .read fv 4 8 1 L).isOk = true)
      ∧ (∀ x ∈ passing (reaching.g.executing .always) ((reaching.opened (.ld fv) .always).laneAccess .read fv 4 4 1),
          reaching.ownWriteWaits [(reaching.g.lane x.1).threadId] x.2 = false ∧ readAsks x.1 x.2 = [])
      ∧ (∃ p, (reaching.uniAccess fu .read 4 1).toOption = some [p] ∧ p.ep = none ∧ reaching.ownWriteWaits (reaching.g.threads .always) [p] = false
          ∧ readAsks 32 [p] = []) := by
  refine ⟨by decide, by decide, by decide, ⟨_, rfl, ?_⟩⟩
  decide

theorem witness_Stores :
    (∀ i ∈ [Instr.st { fv with dst := 0 }, .stx { fv with dst := 0, b := 12 }, .stw { fu with dst := 0 }], reaching.Ready i .always)
      ∧ (∀ L ∈ reaching.g.active .always, ((reaching.opened (.st fv) .always).laneAccess .write fv 4 4 1 L).isOk = true
          ∧ ((reaching.opened (.stx fv) .always).laneAccess .write fv 4 8 1 L).isOk = true)
      ∧ reaching.storeFree fv ((passing (reaching.g.active .always) ((reaching.opened (.st fv) .always).laneAccess .write fv 4 4 1)).flatMap (·.2))
      ∧ (∃ p, (reaching.uniAccess fu .write 4 1).toOption = some [p] ∧ p.ep = none ∧ reaching.storeFree fu [p]
          ∧ reaching.cxlLost p.loc = false) := by
  refine ⟨by decide, by decide, by decide, ⟨_, rfl, ?_⟩⟩
  decide

/-- Lane 0 names byte 4,096 of a private window of 256. -/
def beyond : State :=
  { unit with g := { group with lanes := [(0, liveLane 0 [(20, 4096), (22, 0xFC00)])], w := [(3, 4096), (5, 0xFC00)] } }

theorem witness_MemoryTraps :
    (∀ i ∈ [Instr.ld fv, .st fv, .ldx fv, .stx fv, .nibst fv, .ldw fu, .stw fu, .atomw fu], beyond.Ready i .always)
      ∧ beyond.g.active .always = [0]
      ∧ failOf ((beyond.opened (.ld fv) .always).laneAccess .read fv 4 4 1 0) = some (.trap 0x09 4096)
      ∧ failOf ((beyond.opened (.atomw fu) .always).uniAccess fu .rmw 4 4) = some (.trap 0x06 0)
      ∧ beyond.Ready (.atom fv) .always ∧ (beyond.g.lane 0).applied = false
      ∧ failOf ((beyond.opened (.atom fv) .always).atomPlace fv 0) = some (.trap 0x09 4096)
      ∧ beyond.Ready (.dcz fv) .always ∧ failOf ((beyond.opened (.dcz fv) .always).dczAccess fv 0) = some (.trap 0x09 4096) := by decide

/-- `reaching` with lane 0 alone. -/
def alone : State := { reaching with g := { reaching.g with lanes := [(0, liveLane 0 [(1, 7), (8, 128), (20, 0x10000)])] } }

theorem witness_ReadModifyWrite :
    (alone.Ready (.nibst { fv with ty := .n8 }) .always ∧ alone.Ready (.atom fv) .always ∧ alone.Ready (.atomw fu) .always)
      ∧ alone.g.active .always = [0] ∧ (alone.g.lane 0).applied = false
      ∧ (∃ p, ((alone.opened (.nibst { fv with ty := .n8 }) .always).laneAccess .rmw { fv with ty := .n8 } 1 1 1 0).toOption = some [p]
          ∧ alone.PlainPiece p ∧ alone.orderFree fv ∧ (alone.released fv).moving p = false)
      ∧ (∃ pl key p, (alone.atomPlace fv 0).toOption = some (pl, key)
          ∧ (alone.checkPages 1 (alone.g.lane 0).threadId .rmw pl 4).toOption = some [p] ∧ alone.PlainPiece p ∧ p.len = 4
          ∧ (alone.touch 1 true p).moving p = false)
      ∧ (∃ p, (alone.uniAccess fu .rmw 4 4).toOption = some [p] ∧ alone.PlainPiece p ∧ p.len = 4 ∧ alone.orderFree fu
          ∧ (alone.touch 1 true p).moving p = false) := by
  refine ⟨by decide, by decide, by decide, ⟨_, rfl, by decide⟩, ⟨_, _, _, rfl, rfl, by decide⟩, ⟨_, rfl, by decide⟩⟩

/-- The group runs a word of one instruction. -/
def running (i : Instr) (s : State) : State := { s with g := { s.g with run := some (oneWord ((encode i).getD 0)) } }

/-- A barrier at byte 0x100 of the block's scratchpad and a queue at byte 0x200, whose window w6 to w8 names; two quads'
threads, and a token in w30. -/
def synced : State :=
  { unit with
    g := { group with w := [(1, 11), (2, 0x400), (6, 0x100), (8, 0xFE00)], pend := [(30, 77)] }
    serial := 78
    blocks := [{ block with tbars := [0x100], qmap := [(0, 0x201)] }]
    mem := putBytes (spadLoc 0 0x200) (natBytes 16 (Queue.toNat
        { pushw := 0, popw := 0, allow := 3, cap := 4, tail := 1, head := 0 }) ++ [9])
      (putBytes (spadLoc 0 0x100) (natBytes 16 (Barrier.toNat { arrInit := 2, sect := 0, arr := 2, phase := 0, last := 0 })) unit.mem) }

/-- The barrier's bytes. -/
def barrierPiece : Piece := { loc := spadLoc 0 0x100, len := 16, va := 0, pte := none, ep := none }

theorem witness_ParksQuads :
    (∀ i ∈ [Instr.park { fe with imm := 3 }, .park { fe with mod := 1, a := 1 }, .park { fe with mod := 2 }
        , .park { fe with mod := 3, a := 1 }, .yield fe, .await { fe with a := 30, dst := 10 }, .tbwait { fe with a := 6, b := 4 }],
      let s := running i synced
      s.Ready i .always ∧ s.g.run = some (oneWord ((encode i).getD 0)) ∧ (decodeWord [] ((encode i).getD 0)).toOption = some i
        ∧ s.AllActive .always (oneWord ((encode i).getD 0)) ∧ s.ParkRoom 3)
      ∧ synced.g.inYield = false ∧ (synced.g.wr 1).toNat < 2 ^ 24 ∧ synced.g.pend.get 0 30 = 77
      ∧ { synced.g with lanes := [(0, { liveLane 0 [] with ypc := some 0x300 })] }.inYield = true
      ∧ (∃ p p', (synced.barrierAt 6 .rmw).toOption = some p ∧ p.ep = none ∧ synced.liveTbar (synced.g.winOf 6) p = true
          ∧ synced.moving p = false ∧ ((synced.touch 1 true p).barrierAt 6 .rmw).toOption = some p' ∧ p'.ep = none ∧ p'.loc = p.loc
          ∧ ((synced.touch 1 true p).barrierRead p).phase = (synced.g.wr 4).toNat % 16) := by
  refine ⟨by decide, by decide, by decide, by decide, by decide, ⟨barrierPiece, barrierPiece, ?_⟩⟩
  decide

/-- `synced` with arrivals and sectors of the barrier at zero. -/
def spent : State :=
  { synced with mem := putBytes (spadLoc 0 0x100) (natBytes 16 (Barrier.toNat { arrInit := 2, sect := 0, arr := 0, phase := 0, last := 0 })) synced.mem }

theorem witness_WaitsThatEnd_tbwait :
    let holds (s : State) : Prop :=
      let p := barrierPiece
      (s.barrierAt 6 .rmw).toOption = some p ∧ s.PlainPiece p ∧ s.liveTbar (s.g.winOf 6) p = true
      ∧ s.moving p = false ∧ ((s.touch 1 true p).barrierAt 6 .rmw).toOption = some p
      ∧ ((s.touch 1 true p).barrierRead p).phase ≠ (s.g.wr 1).toNat % 16
    holds synced ∧ holds spent ∧ (synced.barrierRead barrierPiece).arr = 2 ∧ (spent.barrierRead barrierPiece).arr = 0 := by
  decide +kernel

theorem witness_WaitsThatEnd :
    ∀ i ∈ [Instr.await { fe with a := 1, dst := 10 }, .tbwait { fe with a := 6, b := 1 }],
      let s := running i synced
      s.Ready i .always ∧ s.g.run = some (oneWord ((encode i).getD 0)) ∧ (decodeWord [] ((encode i).getD 0)).toOption = some i
        ∧ s.AllActive .always (oneWord ((encode i).getD 0)) ∧ s.g.pend.get 0 1 = 0 := by decide

theorem witness_TrapWords :
    unit.Ready (.trap fe) .always ∧ unit.Ready (.bkpt fe) .always ∧ unit.g.run = some (oneWord 0)
      ∧ ∀ c ∈ [0x2B, 0x2C, 0x02], unit.toSupervisor c = false := by decide

/-- `unit` in a trap handler. -/
def handling : State :=
  { unit with g := { group with trap := some { cause := 0x2B, detail := 0, pc := 0x200, wix := 0, lane := 0xFFFFFFFF, words := 2, after := 0x218 } } }

theorem witness_SupervisorTraps : unit.toSupervisor 0x2D = true ∧ handling.toSupervisor 0x2B = true ∧ unit.toSupervisor 0x2B = false := by
  decide

theorem witness_TrapReturns :
    ∀ i ∈ [Instr.tret fe, .tretSkip fe], unit.Ready i .always ∧ unit.g.trap = none ∧ handling.Ready i .always ∧ handling.g.trap.isSome = true := by
  decide

theorem witness_PrefetchZeroFence :
    (reaching.Ready (.pref fv) .always ∧ reaching.Ready (.dcz { fv with b := 8 }) .always ∧ reaching.Ready (.fence fe) .always)
      ∧ (∀ L ∈ reaching.g.active .always, okOf ((reaching.opened (.dcz { fv with b := 8 }) .always).dczAccess { fv with b := 8 } L)
          (fun ps => ps.all (fun p => !reaching.moving p)) = true)
      ∧ ordReleases fm.ord = false ∧ reaching.releaseFree (scopeOfCode 0)
      ∧ reaching.g.tokenWait (opcodeOf (.pref fv)) (wordRegs (.pref fv)) = false := by decide

theorem witness_Barriers :
    (∀ f ∈ [{ fe with a := 6, b := 1 }, { fe with a := 6, b := 20 }],
      (synced.Ready (.tbinit f) .always ∧ synced.Ready (.tbarv f) .always ∧ synced.Ready (.tbexp f) .always ∧ synced.Ready (.tbphase f) .always))
      ∧ ¬ 0xFFFFFF < (synced.g.wr 1).toNat
      ∧ 0xFFFFFF < ({ synced.g with w := synced.g.w.put 0 20 0xFFFFFFFF }.wr 20).toNat
      ∧ (∃ p, (synced.barrierAt 6 .rmw).toOption = some p ∧ synced.PlainPiece p ∧ synced.moving p = false ∧ synced.releaseFree (barrierScope (synced.g.winOf 6) p)
          ∧ isSpad p.loc = true ∧ (synced.tbarSlot (synced.g.winOf 6) p 11).isSome = true ∧ synced.liveTbar (synced.g.winOf 6) p = true
          ∧ ((synced.barrierRead p).arrive 2 0).isSome = true ∧ (synced.barrierRead p).arrive 11 0 = none
          ∧ ((synced.barrierRead p).expect 11).isSome = true ∧ (synced.barrierRead p).expect 0xFFFFFFFF = none) := by
  refine ⟨by decide, by decide, by decide, ⟨_, rfl, ?_⟩⟩
  decide

theorem witness_Barriers_phase :
    (∃ b : Barrier, b.arrInit ≠ 0 ∧ b.arr = 0 ∧ b.sect = 0) ∧ (∃ b : Barrier, b.arrInit = 0 ∨ b.arr ≠ 0 ∨ b.sect ≠ 0)
      ∧ ∃ b : Barrier, b.arrInit < 2 ^ 24 ∧ b.arr < 2 ^ 24 ∧ b.phase < 16 ∧ -(2 ^ 31 : Int) ≤ b.sect ∧ b.sect < 2 ^ 31 :=
  ⟨⟨{ arrInit := 2, sect := 0, arr := 0, phase := 15, last := 0 }, by decide⟩
    , ⟨{ arrInit := 2, sect := 0, arr := 1, phase := 15, last := 0 }, by decide⟩
    , ⟨{ arrInit := 2, sect := -2 ^ 31, arr := 2 ^ 24 - 1, phase := 15, last := 0 }, by decide⟩⟩

theorem witness_TileQueues :
    (∀ i ∈ [Instr.qpush { fe with b := 1 }, .qpop fe, .qtryPop fe, .qtryPush { fe with b := 1 }, .qgrant { fe with b := 1 }, .qstat fe
        , .qinit { fe with b := 1, c := 1, a := 1 }, .qinit { fe with b := 3 }], synced.Ready i .always)
      ∧ (∃ b h, ((synced.opened (.qpush { fe with b := 1 }) .always).queueLive 0).toOption = some (b, 0, 0x200, h)
          ∧ h.canPush = true ∧ h.canPop = true ∧ (∀ w ∈ b.waiters, w.q ≠ 0) ∧ synced.blockOf b.asid b.launch b.num = some b)
      ∧ synced.g.trap = none ∧ synced.g.wr 1 ≠ 0xFFFFFFFF ∧ synced.releaseWaits (queueScope 0) = false
      ∧ (∃ b, (synced.queueSel 1).toOption = some (b, 1) ∧ b.qmap.get 0 1 = 0 ∧ 1 ≤ (synced.g.wr 1).toNat ∧ (synced.g.wr 1).toNat ≤ 256
          ∧ (let o := (synced.g.wr 2).toNat
             o < 2 ^ 24 ∧ o % 16 = 0 ∧ o + 16 + 4 * (synced.g.wr 1).toNat ≤ b.spadSize))
      ∧ (∃ b, (synced.queueSel 0).toOption = some (b, 0) ∧ (synced.queueRead b (b.qmap.get 0 0 - 1)).pushw = 0
          ∧ (synced.queueRead b (b.qmap.get 0 0 - 1)).popw = 0 ∧ (synced.g.wr 3).toNat = 0) := by
  refine ⟨by decide, ⟨_, _, rfl, by decide⟩, by decide, by decide, by decide, ⟨_, rfl, by decide⟩, ⟨_, rfl, by decide⟩⟩

/-- A step meets no poison. -/
def cleanStep (m : MatStep) : Prop := m.scale.bad = 0 ∧ ∀ x ∈ m.elems, ∀ e, x = some e → e.bad = 0

theorem dotStep_clean : ∀ xs ys : List (Option Elem), (∀ x ∈ xs, ∀ e, x = some e → e.bad = 0) → (∀ x ∈ ys, ∀ e, x = some e → e.bad = 0) →
    (dotStep xs ys).2 = 0
  | [], _, _, _ => by simp [dotStep]
  | _ :: _, [], _, _ => by simp [dotStep]
  | x :: xs, y :: ys, hx, hy => by
      have ih := dotStep_clean xs ys (fun z hz => hx z (by simp [hz])) (fun z hz => hy z (by simp [hz]))
      cases x with
      | none => simpa [dotStep] using ih
      | some a => cases y with
        | none => simpa [dotStep] using ih
        | some b => simp [dotStep, ih, hx (some a) (by simp) a rfl, hy (some b) (by simp) b rfl]

theorem matEntry_clean (int : Bool) : ∀ (as bs : List MatStep) (e : W32), (∀ m ∈ as, cleanStep m) → (∀ m ∈ bs, cleanStep m) →
    (matEntry int as bs e).2 = 0
  | [], _, _, _, _ => by simp [matEntry]
  | _ :: _, [], _, _, _ => by simp [matEntry]
  | a :: as, b :: bs, e, ha, hb => by
      have h1 := ha a (by simp)
      have h2 := hb b (by simp)
      simp [matEntry, matEntry_clean int as bs _ (fun m hm => ha m (by simp [hm])) (fun m hm => hb m (by simp [hm]))
        , dotStep_clean _ _ h1.2 h2.2, h1.1, h2.1]

theorem poison_clean (o : OpView) (h : o.bad = []) (n : Nat) : o.poison n = 0 := by simp [OpView.poison, h, SMap.get]

theorem runs_clean (o : OpView) (h : o.bad = []) (l : Layout) (r : Nat) : ∀ m ∈ (o.runs l).getD r [], cleanStep m := by
  intro m hm
  rw [List.getD_eq_getElem?_getD] at hm
  simp only [OpView.runs, List.getElem?_map] at hm
  cases hr : (List.range 32)[r]? with
  | none => simp [hr] at hm
  | some j =>
      simp only [hr, Option.map_some, Option.getD_some, List.mem_map] at hm
      obtain ⟨st, -, rfl⟩ := hm
      refine ⟨?_, ?_⟩
      · simp only [OpView.scale, poison_clean o h]
        split <;> rfl
      · intro x hx e he
        simp only [List.mem_map] at hx
        obtain ⟨k, -, rfl⟩ := hx
        obtain rfl := Option.some.inj he
        exact poison_clean o h _

theorem unfold_clean (u : Unfold) (o : OpView) (h : o.bad = []) (code depth r : Nat) :
    ∀ m ∈ (u.runs o code depth).getD r [], cleanStep m := by
  intro m hm
  rw [List.getD_eq_getElem?_getD] at hm
  simp only [Unfold.runs, List.getElem?_map] at hm
  cases hr : (List.range 32)[r]? with
  | none => simp [hr] at hm
  | some j =>
      simp only [hr, Option.map_some, Option.getD_some, List.mem_map] at hm
      obtain ⟨st, -, rfl⟩ := hm
      refine ⟨rfl, ?_⟩
      intro x hx e he
      simp only [List.mem_map] at hx
      obtain ⟨k, -, rfl⟩ := hx
      obtain rfl := Option.some.inj he
      split
      · rfl
      · exact poison_clean o h _

theorem sparse_clean (o : OpView) (h : o.bad = []) (l : Layout) (base ks : Nat) (wide : Bool) (c : Nat) :
    ∀ m ∈ sparseColumn o l base ks wide c, cleanStep m := by
  intro m hm
  simp only [sparseColumn, List.mem_map] at hm
  obtain ⟨st, -, rfl⟩ := hm
  refine ⟨rfl, ?_⟩
  intro x hx e he
  simp only [List.mem_map] at hx
  obtain ⟨i, -, rfl⟩ := hx
  rw [Option.map_eq_some_iff] at he
  obtain ⟨j, -, rfl⟩ := he
  simp [OpView.elem, poison_clean o h]

theorem sparse_runs_clean (o : OpView) (h : o.bad = []) (l : Layout) (base ks : Nat) (wide : Bool) (c : Nat) :
    ∀ m ∈ ((List.range 32).map (sparseColumn o l base ks wide)).getD c [], cleanStep m := by
  intro m hm
  rw [List.getD_eq_getElem?_getD, List.getElem?_map] at hm
  cases hr : (List.range 32)[c]? with
  | none => simp [hr] at hm
  | some j =>
      simp only [hr, Option.map_some, Option.getD_some] at hm
      exact sparse_clean o h l base ks wide j m hm

/-- Operands of zeros in the scratchpad: its window in w6 to w8, an unfold descriptor in w16 to w23, one at byte 0x1800 that
w9 names, and none that is valid at 0x1900, which w12 names. -/
def matrix : State :=
  { unit with
    g := { group with
      w := [(8, 0xFE00), (9, 0x1800), (11, 0xFE00), (12, 0x1900), (14, 0xFE00), (18, 0x1FE00), (19, 0x10001), (20, 0x10001)]
      lanes := [(0, liveLane 0 [(1, 7), (5, 0x04000000)]), (1, liveLane 1 [(1, 9), (5, 0x04000000)])] }
    mem := putBytes (spadLoc 0 0x1800) (natBytes 32 (0x10001 * 2 ^ 128 + 0x10001 * 2 ^ 96 + 0x1FE00 * 2 ^ 64)) [] }

/-- Selection metadata. -/
def metadata : SMap Byte := (List.range' 0 512).map (fun j => (spadLoc 0 (0x1000 + j), 0x04))

/-- `matrix` with selection metadata at byte 0x1000 of the scratchpad. -/
def sparse : State := { matrix with mem := metadata }

theorem matrix_clean (va loc n : Nat) : (matrix.view va loc n).bad = [] := rfl

/-- Format word in v14 (FP32 by FP32), operand A at w6. -/
def fmx : FmtE := { fe with dst := 0, a := 6, b := 6, c := 14, imm := 1 }

theorem witness_MatrixWords :
    (∀ f ∈ [fmx, { fmx with c := 1 }, { fmx with c := 5 }], ∀ i ∈ [Instr.mma f, .mmas f, .mmau f, .mmau { f with a := 16 }],
        matrix.Ready i .always) ∧ matrix.TileReady 0
      ∧ (∀ L ∈ matrix.g.active .always, (matrix.g.lane L).vr 14 = 0 ∧ (matrix.g.lane L).vr 5 = 0x04000000)
      ∧ matrix.g.active .always = [0, 1] ∧ (matrix.g.lane 1).vr 1 ≠ (matrix.g.lane 0).vr 1
      ∧ (FmtWord.of 0x04000000).check .mma = some 1
      ∧ (FmtWord.of 0).check .mma = none ∧ (FmtWord.of 0).check .mmas = none ∧ (FmtWord.of 0).check .mmau = none
      ∧ fmx.imm.getLsbD 0 = true := by decide

theorem witness_MatrixWords_mma :
    let w := FmtWord.of 0
    let a := matrix.g.wrN 6 3
    ∃ pa pb, (matrix.operandLoc a (w.layoutA .mma).bytes).toOption = some pa ∧ (matrix.operandLoc a w.layoutB.bytes).toOption = some pb
      ∧ ∀ r c e, (matEntry w.int (((matrix.view a pa (w.layoutA .mma).bytes).runs (w.layoutA .mma)).getD r [])
          (((matrix.view a pb w.layoutB.bytes).runs w.layoutB).getD c []) e).2 = 0 :=
  ⟨spadLoc 0 0, spadLoc 0 0, by decide, by decide, fun _ _ _ => matEntry_clean _ _ _ _ (runs_clean _ (matrix_clean _ _ _) _ _) (runs_clean _ (matrix_clean _ _ _) _ _)⟩

theorem sparse_clean_view (va loc n : Nat) : (sparse.view va loc n).bad = [] := rfl

theorem metadata_slice : sliceOf metadata (spadLoc 0 0) 4608 = metadata := by
  refine List.filter_eq_self.mpr (fun c hc => ?_)
  obtain ⟨j, hj, rfl⟩ := List.mem_map.mp hc
  have := (List.mem_range'_1.mp hj).2
  simp [spadLoc]
  omega

theorem metadata_get (n : Nat) : ∀ a j, a ≤ j → j < a + n →
    SMap.get 0 ((List.range' a n).map (fun j => (spadLoc 0 (0x1000 + j), (0x04 : Byte)))) (spadLoc 0 (0x1000 + j)) = 0x04 := by
  induction n with
  | zero => intro a j h1 h2; omega
  | succ n ih =>
      intro a j h1 h2
      simp only [List.range'_succ, List.map_cons, SMap.get]
      by_cases h : j = a
      · simp [h]
      · rw [if_neg (by simp [spadLoc]; omega)]
        exact ih (a + 1) j (by omega) (by omega)

theorem metadata_groups (o : OpView) (hm : o.mem = metadata) (hl : o.loc = spadLoc 0 0) (c g : Nat) (hc : c < 32) (hg : g < 16) :
    (sparseGroup o 4096 64 false c g).2 = true := by
  have h := metadata_get 512 0 (16 * c + g) (by omega) (by omega)
  have e : o.loc + 8 * (4096 + 64 / 4 * c + g) / 8 + 0 = spadLoc 0 (0x1000 + (16 * c + g)) := by simp only [hl, spadLoc]; omega
  have p : 8 * (4096 + 64 / 4 * c + g) % 8 = 0 := by omega
  have b : o.bits (8 * (4096 + 64 / 4 * c + g)) 8 = 4 := by
    show bitsOf (bytesNat [o.mem.get 0 (o.loc + 8 * (4096 + 64 / 4 * c + g) / 8 + 0)]) (8 * (4096 + 64 / 4 * c + g) % 8) 8 = 4
    rw [e, p, hm]
    unfold metadata
    rw [h]
    decide
  simp only [sparseGroup, Bool.false_eq_true, if_false, b]
  decide

theorem witness_MatrixWords_mmas :
    let w := FmtWord.of 0
    let a := sparse.g.wrN 6 3
    let la := w.layoutA .mmas
    let base := 32 * w.layoutB.stride
    let nb := base + 8 * la.depth
    ∃ pa pb, (sparse.operandLoc a la.bytes).toOption = some pa ∧ (sparse.operandLoc a nb).toOption = some pb
      ∧ (∀ c < 32, ∀ g < la.depth / 4, (sparseGroup (sparse.view a pb nb) base la.depth false c g).2 = true)
      ∧ ∀ r c e, (matEntry w.int (((sparse.view a pa la.bytes).runs la).getD r [])
          (((List.range 32).map (sparseColumn (sparse.view a pb nb) w.layoutB base la.depth false)).getD c []) e).2 = 0 := by
  exact ⟨spadLoc 0 0, spadLoc 0 0, by decide, by decide, fun c hc g hg => metadata_groups _ metadata_slice rfl c g hc hg, fun _ c _ => matEntry_clean _ _ _ _ (runs_clean _ (sparse_clean_view _ _ _) _ _) (sparse_runs_clean _ (sparse_clean_view _ _ _) _ _ _ _ c)⟩

theorem unfolded_clean (u : Unfold) (int : Bool) (va pa n vb pb n' code depth : Nat) (l : Layout) (r c : Nat) (e : W32) :
    (matEntry int ((u.runs (matrix.view va pa n) code depth).getD r []) (((matrix.view vb pb n').runs l).getD c []) e).2 = 0 :=
  matEntry_clean _ _ _ _ (unfold_clean _ _ rfl _ _ _) (runs_clean _ rfl _ _)

theorem witness_MatrixWords_mmau :
    let w := FmtWord.of 0
    let u := Unfold.of (fun j => (matrix.g.wr (16 + j)).toNat)
    let b := matrix.g.wrN 6 3
    u.valid = true ∧ ∃ pa pb, (matrix.operandLoc u.base (u.bytes w.fa)).toOption = some pa ∧ (matrix.operandLoc b w.layoutB.bytes).toOption = some pb
      ∧ ∀ r c e, (matEntry w.int ((u.runs (matrix.view u.base pa (u.bytes w.fa)) w.fa w.depth).getD r [])
          (((matrix.view b pb w.layoutB.bytes).runs w.layoutB).getD c []) e).2 = 0 :=
  ⟨by decide, spadLoc 0 0, spadLoc 0 0, by decide, by decide, fun r c e => unfolded_clean _ _ _ _ _ _ _ _ _ _ _ r c e⟩

theorem witness_MatrixWords_udesc :
    ∀ x ∈ [(9, true), (12, false)], matrix.Ready (.udesc { fe with a := BitVec.ofNat 8 x.1, dst := 24 }) .always
      ∧ (matrix.uniformAddr x.1).toOption.bind (fun base => (matrix.checkAccess (matrix.g.uniThread .always) .read base 32 16).toOption.bind
          (fun ps => if matrix.ownWriteWaits (matrix.g.threads .always) ps = false ∧ readAsks 32 ps = [] then
              some (Unfold.of (fun j => bytesNat ((matrix.touchAll 1 false ps).gather 32 ps) / 2 ^ (32 * j) % 2 ^ 32)).valid
            else none)) = some x.2 := by decide +kernel

/-- `matrix` with a tile store, slot 1 bound to its image 2, and an image of a tile at byte 0xE00 of the scratchpad, w27 to
w29. -/
def tiled : State :=
  { matrix with
    ctxs := [(1, { ctx with stores := [{ base := 0x10000, count := 4 }] })]
    g := { matrix.g with
      handles := [(1, 2)]
      w := [(2, 1), (3, 3), (4, 9), (7, 0), (8, 0xFE00), (9, 0x1800), (11, 0xFE00), (26, 8192), (27, 0xE00), (29, 0xFE00)] }
    mem := putBytes (spadLoc 0 0xE04) [144] [] }

/-- The checks of a row of a tile stored at an address, rows 128 bytes apart. -/
def rowAccess (s : State) (a j : Nat) : Except Fail (List Piece) := s.partAccess .always .write a 128 (128 * j)

theorem witness_TileMemory :
    (∀ i ∈ [Instr.aclr fe, .ald { fe with a := 6, b := 5 }, .aldSparse { fe with a := 27 }, .ast { fe with a := 6, b := 5 }, .asts { fe with a := 6, b := 26 }
        , .asts { fe with a := 6, b := 5 }], tiled.Ready i .always) ∧ tiled.TileReady 0
      ∧ (tiled.tileAddr 6 16).toOption = some (0xFE00 * 2 ^ 64) ∧ (strideOf (tiled.g.wr 5)).toOption = some 128
      ∧ (∀ j < 32, okOf (tiled.partAccess .always .read (0xFE00 * 2 ^ 64) 128 (128 * j)) (fun ps => ps.all (fun p => p.ep.isNone)) = true
          ∧ (tiled.partAccess .always .write (0xFE00 * 2 ^ 64) 128 (128 * j)).isOk = true
          ∧ okOf (tiled.partAccess .always .read (0xFE00 * 2 ^ 64) 128 (128 * j)) (fun ps => !(tiled.ownWriteWaits (tiled.g.threads .always) ps)) = true)
      ∧ tiled.mayStore ((passing (List.range 32) (rowAccess tiled 0xFE000000000000000000)).flatMap (·.2))
      ∧ (tiled.tileAddr 27 16).toOption = some (0xFE00 * 2 ^ 64 + 0xE00)
      ∧ 8192 % 16 = 0 ∧ (tiled.g.wr 5).toNat % 16 = 0 ∧ (tiled.g.wr 26).toNat = 8192 := by decide +kernel

theorem witness_TileMemory_sparse : ∀ x ∈ [(0, false), (0x400, true)],
    okOf (tiled.partAccess .always .read (0xFE00 * 2 ^ 64 + 0xE00 - 0x400 + x.1) 4112 0) (fun ps =>
      !(tiled.ownWriteWaits (tiled.g.threads .always) ps) && (readAsks 64 ps).isEmpty
        && (imageTile ((tiled.touchAll 1 false ps).gather 64 ps)).isSome == x.2) = true := by decide +kernel

theorem witness_TileMemory_asts : ∀ budget ∈ [0, 8192],
    okOf (tiled.partAccess .always .write (0xFE00 * 2 ^ 64) (tileImage ((List.range 1024).map (fun j => tiled.entry 0 0 j)) budget).2 0)
      (fun ps => decide (tiled.mayStore ps)) = true ∧ (tiled.partAccess .always .write (0xFE00 * 2 ^ 64) 4112 0).isOk = true := by decide +kernel

theorem witness_TileArithmetic :
    (∀ i ∈ [Instr.acvt fe, .acvt { fe with imm := 4 }, .atopk { fe with dst := 10 }, .atopk { fe with dst := 10, mod := 1 }, .aredr { fe with dst := 10 }],
        tiled.Ready i .always) ∧ tiled.TileReady 0 ∧ tiled.g.rm 4 = .rs ∧ tiled.g.rm 0 ≠ .rs := by decide

theorem tiled_clean (n : Nat) : tiled.TileClean n := fun _ _ => rfl

theorem witness_TileBindings :
    (∀ i ∈ [Instr.abind { fe with a := 2 }, .abind { fe with a := 2, mod := 1 }, .abind { fe with a := 4 }, .abind { fe with a := 2, dst := 1 }
        , .aunbind { fe with dst := 1 }, .aflush { fe with dst := 1 }, .aunbindFlush { fe with dst := 1 }, .aflush fe], tiled.Ready i .always)
      ∧ tiled.TileReady 0 ∧ tiled.TileReady 1 ∧ tiled.imageAddr 1 1 = some 0x11000 ∧ tiled.imageAddr 1 9 = none ∧ tiled.imageAddr 1 2 = some 0x12000
      ∧ tiled.bindCheck 0 1 = none ∧ tiled.bindCheck 1 1 = some 2
      ∧ tiled.g.handles.get noMeeting 0 = noMeeting ∧ tiled.g.handles.get noMeeting 1 = 2 ∧ tiled.g.reload = 0
      ∧ tiled.mayStore ((passing (List.range 32) (rowAccess tiled 0x12000)).flatMap (·.2))
      ∧ (∀ j < 32, okOf (tiled.partAccess .always .read 0x11000 128 (128 * j)) (fun ps =>
          !(tiled.ownWriteWaits (tiled.g.threads .always) ps) && (readAsks (64 + j) ps).isEmpty) = true
            ∧ (tiled.partAccess .always .write 0x12000 128 (128 * j)).isOk = true) := by decide +kernel

theorem witness_TilePredicates :
    (∀ i ∈ [Instr.mma { fmx with dst := 5 }, .mmau { fmx with dst := 5 }, .mmas { fmx with dst := 5 }, .aclr { fe with dst := 5 }, .ald { fe with dst := 5 }
        , .aldSparse { fe with dst := 5 }, .ast { fe with dst := 5 }, .asts { fe with dst := 5 }, .acvt { fe with dst := 5 }, .aquant { fe with dst := 5 }
        , .atopk { fe with a := 5 }, .aredr { fe with a := 5 }, .abind { fe with dst := 5 }, .aunbind { fe with dst := 5 }, .aunbindFlush { fe with dst := 5 }
        , .aflush { fe with dst := 5 }, .kset fe, .ksetMask fe, .kand fe, .kor fe, .knot fe, .ktest { fe with dst := 7 }, .ktestMask { fe with dst := 10 }]
      , tiled.Ready i .always) ∧ (∀ n < 16, tiled.g.tilePend.get 0 n = 0 ∧ tiled.g.reload.getLsbD n = false)
      ∧ tiled.g.tiles ≤ 5 ∧ ({ tiled.g with tiles := 6 }.tiles = 6 ∧ { tiled.g with tiles := 6 }.kr 5 = false) := by decide

def doneOf : Res → Option State
  | .done s => some s
  | _ => none

theorem doneOf_eq {r : Res} {t : State} (h : doneOf r = some t) : r = .done t := by
  cases r <;> simp [doneOf] at h ⊢
  exact h

theorem witness_Quantisation :
    tiled.Ready (.aquant { fe with a := 6, b := 0, c := 27 }) .always ∧ tiled.TileReady 0 ∧ (tiled.tileAddr 27 4).isOk = true
      ∧ (∀ j < 32, (tiled.partAccess .always .write (0xFE00 * 2 ^ 64 + 0xE00) 4 (4 * j)).isOk = true) := by decide +kernel

/-- What AQUANT makes of row j of slot 0: codes of type 0, and a scale word. -/
def tiledBlock (j : Nat) : Nat × Int × List Nat :=
  let d := (List.range 32).map (tiled.g.colDraws .always .rne)
  quantBlock 0 (fun e => entryMode .rne d j e) ((List.range 32).map (fun e => decodeF (fmtOf .f32) (tiled.entry 0 j e).toNat))

def tiledCodes : List (List Byte × List Nat) := (List.range 32).map (fun j => (codeBytes (tiledBlock j).2.2, []))
def tiledScales : List (List Byte × List Nat) :=
  (List.range 32).map (fun j => (natBytes 4 ((tiledBlock j).1 + 0 * 65536 + wrapTo 8 (tiledBlock j).2.1 * 2 ^ 18), []))

theorem witness_Quantisation_stores :
    ∃ s1 s2, tiled.storeParts .always (0xFE00 * 2 ^ 64) 16 ((List.range 32).map (fun j => 16 * j)) tiledCodes = .done s1
      ∧ s1.storeParts .always (0xFE00 * 2 ^ 64 + 0xE00) 4 ((List.range 32).map (fun j => 4 * j)) tiledScales = .done s2 := by
  have h : ((doneOf (tiled.storeParts .always (0xFE00 * 2 ^ 64) 16 ((List.range 32).map (fun j => 16 * j)) tiledCodes)).bind (fun s1 =>
    doneOf (s1.storeParts .always (0xFE00 * 2 ^ 64 + 0xE00) 4 ((List.range 32).map (fun j => 4 * j)) tiledScales))).isSome = true := by
    decide +kernel
  obtain ⟨s2, h2⟩ := Option.isSome_iff_exists.mp h
  obtain ⟨s1, h1, h3⟩ := Option.bind_eq_some_iff.mp h2
  exact ⟨s1, s2, doneOf_eq h1, doneOf_eq h3⟩

/-- A template with a barrier at byte 0x100 of the scratchpad, from one page to another: 16 bytes. -/
def template : Nat :=
  bytesNat ([0x10000, 0, 0xC0000000, 0x20000, 0, 0, 16, 0x10001, 0, 0, 0, 0, 0, 0x100, 0, 0xFE00].flatMap (natBytes 4))

/-- `synced` with that template in w16 to w31 and as the context's template 11. -/
def copying : State :=
  { synced with
    g := { synced.g with
      pend := []
      w := [(1, 11), (2, 0x400), (16, 0x10000), (18, 0xC0000000), (19, 0x20000), (22, 16), (23, 0x10001), (29, 0x100), (31, 0xFE00)] }
    mem := putBytes (0x60000 + 64 * 11) (natBytes 64 template) [] }

/-- A gather of one row of 16 bytes, w16 to w23, with a barrier at w24; table 1 of the block is claimed. -/
def gathering : State :=
  { synced with
    g := { synced.g with
      pend := []
      w := [(16, 0x10000), (19, 16), (23, 1), (24, 0x100), (26, 0xFE00)]
      lanes := [(0, liveLane 0 [(1, 7), (2, 5)])] }
    blocks := [{ block with tbars := [0x100], htabs := [(1, { off := 0x400, bexp := 6, kw := false, vw := false, claimed := true })] }] }

/-- Two streams of four keys, w16 to w23, an emit area at w24 with the capacity in w27. -/
def streaming : State :=
  { gathering with g := { gathering.g with w := [(16, 0x10000), (19, 4), (20, 0x10100), (23, 4), (24, 0x20000), (27, 8)] } }

theorem witness_EngineWords :
    (∀ i ∈ [Instr.xtmpl { fe with a := 16, b := 1, dst := 5 }, .xtmpl { fe with a := 16, b := 2, dst := 5 }, .xtmpl { fe with a := 0, b := 1, dst := 5 }
        , .xcopy { fe with a := 1, b := 3, c := 3, dst := 5 }, .xcopy { fe with a := 1, b := 3, c := 3, dst := 5, imm := 1 }], copying.Ready i .always)
      ∧ copying.EngineRoom true (some 5) ∧ copying.EngineRoom true none ∧ copying.EngineRoom false (some 5)
      ∧ copying.cx.tmplCount ≤ (copying.g.wr 2).toNat ∧ (copying.g.wr 1).toNat < copying.cx.tmplCount
      ∧ (Template.of (copying.g.wrN 0 16)).ok = false ∧ (Template.of (copying.g.wrN 16 16)).ok = true
      ∧ okOf (copying.checkAccess 0 .write (copying.templateAt 11) 64 1) (fun ps => decide (copying.mayStore ps)) = true := by decide +kernel

theorem witness_EngineWords_copy :
    okOf (copying.checkAccess (copying.g.uniThread .always) .read (copying.templateAt 11) 64 1) (fun ps =>
      let x := Template.of (bytesNat (copying.gather 32 ps))
      let s1 := copying.touchAll 1 false ps
      let se := patternEnds (x.plan.src.toNat : Int) x.plan x.plan.spstride x.plan.sstride
      let de := patternEnds (x.plan.dst.toNat : Int) x.plan x.plan.dpstride x.plan.dstride
      !(copying.ownWriteWaits (copying.g.threads .always) ps) && (readAsks 32 ps).isEmpty && x.ok && x.bar && (copying.g.wr 3).toInt == 0
        && winInt se.1 == winOfAddr x.plan.src && winInt se.2 == winOfAddr x.plan.src && winInt de.1 == winOfAddr x.plan.dst
        && winInt de.2 == winOfAddr x.plan.dst && (s1.patternFail (winOfAddr x.plan.src) se).isNone
        && (s1.patternFail (winOfAddr x.plan.dst) de).isNone && (s1.copyBarrier x.barAddr).isNone) = true := by decide +kernel

theorem witness_EngineWords_gather :
    (∀ i ∈ [Instr.xgath { fe with a := 16, b := 24, dst := 5 }, .xgath { fe with a := 16, b := 24, dst := 5, imm := 2 }, .xgath { fe with a := 16, b := 24, dst := 5, imm := 3 }
        , .xscat { fe with a := 16, b := 24, dst := 5 }, .xscat { fe with a := 16, b := 24, dst := 5, imm := 2 }], gathering.Ready i .always)
      ∧ gathering.EngineRoom true (some 5) ∧ gathering.EngineRoom true none ∧ gatherFields (fun j => (gathering.g.wr (16 + j)).toNat) = true
      ∧ (let p := GatherPlan.of (fun j => (gathering.g.wr (16 + j)).toNat)
         winOfAddr p.tbase ≠ 0xFE ∧ winOfAddr p.tbase ≠ 0xFC ∧ (gathering.gatherBounds p).isNone = true)
      ∧ okOf (gathering.barrierAt 24 .rmw) (fun pc => gathering.liveTbar (gathering.g.winOf 24) pc) = true := by decide +kernel

theorem witness_EngineWords_streams :
    (∀ i ∈ [Instr.sinter { fe with a := 16, b := 24, c := 27, dst := 5 }, .sinter { fe with a := 16, b := 24, c := 27, dst := 5, mod := 1 }
        , .smerge { fe with a := 16, b := 24, c := 27, dst := 5 }, .htdrain { fe with a := 24, b := 27, dst := 5, imm := 1 }
        , .htdrain { fe with a := 24, b := 27, dst := 5, imm := 2 }], streaming.Ready i .always)
      ∧ streaming.EngineRoom true (some 5) ∧ streaming.EngineRoom false (some 5)
      ∧ (∀ x ∈ [(0x10000, 4), (0x10100, 4), (0x20000, 8)], x.1 / 2 ^ 72 % 256 ≠ 0xFC ∧ x.1 % 4 = 0 ∧ (streaming.areaFail x.1 x.2).isNone = true)
      ∧ (StreamPlan.of (fun j => (streaming.g.wr (16 + j)).toNat) none).abase = 0x10000
      ∧ (StreamPlan.of (fun j => (streaming.g.wr (16 + j)).toNat) none).bbase = 0x10100
      ∧ streaming.g.wrN 24 3 = 0x20000 ∧ (streaming.g.wr 27).toNat = 8
      ∧ streaming.table 2 = none ∧ (streaming.table 1).isSome = true ∧ streaming.draining 1 = false
      ∧ (∀ T ∈ streaming.table 1, 0x20000 % T.t.slot = 0 ∧ (streaming.decode 0x20000).isOk = true
          ∧ (streaming.decode ((0x20000 + 8 * T.t.slot - 1) % 2 ^ 80)).isOk = true) := by decide +kernel

/-- Channel 3 is open to cores 0 and 1 with root 0, channel 4 belongs to another context, channel 5 leaves core 0 out,
channel 6 has another root, channel 7 adds integers and holds a round; w16 to w19 are a configuration. -/
def meshed : State :=
  { gathering with
    g := { gathering.g with w := [(2, 0x100), (5, 8), (6, 0x1F80), (16, 3), (20, 1), (22, 2 ^ 12)] }
    channels := [(3, { Channel.off with opened := true, asid := 1, mask := 3 }), (4, { Channel.off with opened := true, asid := 2, mask := 3 })
      , (5, { Channel.off with opened := true, asid := 1, mask := 2 }), (6, { Channel.off with opened := true, asid := 1, mask := 3, root := 1 })
      , (7, { Channel.off with opened := true, asid := 1, mask := 3, isInt := true, rounds := [{ num := 0, start := 900, pkts := [], passed := [], result := none }] })] }

/-- A channel is open in the group's context. -/
abbrev hasChan (s : State) (ch : Nat) : Prop := (s.chan 0 ch).opened = true ∧ (s.chan 0 ch).asid = s.g.asid

theorem witness_MeshWords :
    (∀ n ∈ [1, 3, 4, 5, 6, 7, 0x407], ∀ i ∈ [Instr.mrselOpen { fe with a := 16, imm := n }, .mrselClose { fe with imm := n }
        , .mred { fe with a := 1, dst := 5, imm := n }, .mrcv { fe with b := 2, dst := 5, imm := n }, .mrcv { fe with b := 5, dst := 5, imm := n }
        , .mrcv { fe with b := 6, dst := 5, imm := n }, .mrselOpen { fe with a := 24, imm := n }], meshed.Ready i .always)
      ∧ (chanConfig (fun j => (meshed.g.wr (16 + j)).toNat) (fun m => meshed.coreLive m)).isSome = true
      ∧ chanConfig (fun j => (meshed.g.wr (24 + j)).toNat) (fun m => meshed.coreLive m) = none
      ∧ meshed.g.pend.length < 8 ∧ meshed.SerialFresh ∧ meshed.g.core = 0
      ∧ ((meshed.chan 0 1).opened = false ∧ (meshed.chan 0 1).rounds = []) ∧ ((meshed.chan 0 4).opened = true ∧ (meshed.chan 0 4).asid ≠ meshed.g.asid)
      ∧ (hasChan meshed 3 ∧ (meshed.chan 0 3).rounds = [] ∧ (meshed.chan 0 3).root = 0 ∧ (meshed.chan 0 3).mask.getLsbD 0 = true ∧ (meshed.chan 0 3).isInt = false)
      ∧ (hasChan meshed 5 ∧ (meshed.chan 0 5).mask.getLsbD 0 = false) ∧ (hasChan meshed 6 ∧ (meshed.chan 0 6).root ≠ 0)
      ∧ (hasChan meshed 7 ∧ (meshed.chan 0 7).rounds ≠ [] ∧ (meshed.chan 0 7).mask.getLsbD 0 = true ∧ (meshed.chan 0 7).isInt = true
          ∧ (meshed.chan 0 7).rounds.any (fun r => r.num == (meshed.chan 0 7).sent.get 0 0) = true)
      ∧ (meshed.g.wr 2).toNat % 16 = 0 ∧ (meshed.g.wr 5).toNat % 16 ≠ 0 ∧ (meshed.g.wr 6).toNat % 16 = 0
      ∧ (∃ b, meshed.thisBlock = some b ∧ (meshed.g.wr 2).toNat + 144 ≤ b.spadSize ∧ b.spadSize < (meshed.g.wr 6).toNat + 144) := by
  refine ⟨by decide +kernel, by decide, by decide, by decide, by decide, by decide, by decide, by decide, by decide, by decide, by decide, by decide
    , by decide, by decide, by decide, ⟨_, rfl, by decide⟩⟩

/-- A fabric page of endpoint 7 at 0x70000, which w16 names; w20 holds a slot for endpoint 7, w21 one past the last. -/
def flagging : State :=
  { unit with
    g := { group with w := [(16, 0x70000), (20, 7 + 2 * 1024), (21, 0x10000), (24, 0x70002), (27, 63), (28, 64)] }
    hier := { unit.hier with tlb := [(1, unit.hier.tlb.get [] 1 ++
      [{ asid := 1, page := 7, pte := BitVec.ofNat 64 (0x3720F + 7 * 2 ^ 54), level := 0, addr := 0x900038 }])] } }

theorem witness_FabricWords :
    (∀ i ∈ [Instr.xslot { fe with a := 27 }, .xslot { fe with a := 28 }, .xstc { fe with a := 20, dst := 5 }, .xstc { fe with a := 21, dst := 5 }
        , .xflag { fe with a := 20, b := 16, dst := 5 }, .xflag { fe with a := 20, b := 24, dst := 5 }, .xflag { fe with a := 21, b := 16, dst := 5 }]
      , flagging.Ready i .always) ∧ flagging.g.pend.length < 8 ∧ (flagging.g.wr 27).toNat < 64 ∧ 64 ≤ (flagging.g.wr 28).toNat
      ∧ (flagging.g.wr 20).toNat < 65536 ∧ (flagging.g.wr 20).toNat % 1024 = 7 ∧ 65536 ≤ (flagging.g.wr 21).toNat
      ∧ flagging.g.wrN 16 3 < 2 ^ 80 ∧ flagging.g.wrN 16 3 % 4 = 0 ∧ flagging.g.wrN 24 3 % 4 ≠ 0
      ∧ (flagging.flagPage 0x70000 7).isOk = true ∧ flagging.releaseWaits .domain = false := by decide +kernel

/-- Table 1 of the block lies at byte 0x400 with no key of bucket 0 but what `ctl` says; its overflow area is the page at
0x10000, w16 to w18, whose entry 0 is live and has key 0; w20 to w22 configure a table. -/
def hashed (ctl : Nat) : State :=
  { gathering with
    g := { gathering.g with
      w := [(16, 0x10000), (20, 6), (21, 0x400), (22, 4), (24, 0x10000), (26, 0xFFFFFFFF)]
      lanes := [(0, liveLane 0 [(1, 7), (2, 5)])] }
    mem := putBytes (spadLoc 0 0x400) (natBytes 64 (freshHeader 6 4 0x10000) ++ natBytes 16 ctl) (putBytes 0x10016 [1] []) }

/-- Nothing in bucket 0, key 0 in slot 0, and a chain from entry 0. -/
def emptyBucket : Nat := 0xFFFFFFFFFFFFFFFF * 2 ^ 64
def oneSlot : Nat := emptyBucket + 1
def oneChained : Nat := 0

/-- `hashed` before the claim. -/
def unclaimed : State := { hashed 0 with blocks := [block] }

theorem witness_HashTables :
    (∀ i ∈ [Instr.htclaim { fe with a := 16, b := 20, c := 22, dst := 5, imm := 1 }, .htclaim { fe with a := 24, b := 20, c := 22, dst := 5, imm := 1 }
        , .htfree { fe with imm := 1 }, .htfree { fe with imm := 2 }, .htstat { fe with imm := 1, dst := 5 }, .htstat { fe with imm := 2, dst := 5 }],
        (hashed 0).Ready i .always ∧ unclaimed.Ready i .always)
      ∧ (hashed 0).g.wrN 16 3 < 2 ^ 80 ∧ 2 ^ 80 ≤ (hashed 0).g.wrN 24 3 ∧ (hashed 0).thisBlock.isSome = true
      ∧ unclaimed.claimStatus block 1 6 0x400 4 0x10000 = 0 ∧ unclaimed.thisBlock = some block
      ∧ (∀ b ∈ (hashed 0).thisBlock, (hashed 0).claimStatus b 1 6 0x400 4 0x10000 = 1)
      ∧ (hashed 0).table 2 = none ∧ ((hashed 0).table 1).isSome = true ∧ (hashed 0).draining 1 = false ∧ (hashed 0).hashBusy = false
      ∧ unclaimed.hashBusy = false ∧ { unclaimed with blocks := [] }.hashBusy = false ∧ { unclaimed with blocks := [] }.thisBlock = none
      ∧ { unclaimed with blocks := [] }.Ready (.htclaim { fe with a := 16, b := 20, c := 22, dst := 5, imm := 1 }) .always := by decide +kernel

/-- How `find` ends for lane 0's key. -/
def finds (ctl : Nat) (i : Instr) : Option Found :=
  ((hashed ctl).table 1).bind (fun T => match ((hashed ctl).opened i .always).hfind T 0 64 0 with
    | .ok (e, _) => some e
    | .error _ => none)

def isOver : Option Found → Bool
  | some (.inChain 0 _) => true
  | _ => false

/-- A word by key on table 1, key in v9, value in v1. -/
def fh : FmtE := { fe with a := 9, b := 1, dst := 12, c := 7, imm := 1 }

theorem witness_HashKeys :
    (∀ ctl ∈ [emptyBucket, oneSlot, oneChained], ∀ i ∈ [Instr.htins fh, .htdel fh, .htacc fh, .htprobe fh],
        (hashed ctl).Ready i .always ∧ (finds ctl i).isSome = true
          ∧ (ctl = emptyBucket → finds ctl i = some .none) ∧ (ctl = oneSlot → finds ctl i = some (.slot 0 0))
          ∧ (ctl = oneChained → isOver (finds ctl i) = true))
      ∧ (hashed 0).g.active .always = [0] ∧ ((hashed 0).table 1).isSome = true ∧ (hashed 0).draining 1 = false
      ∧ (∀ T ∈ (hashed 0).table 1, fh.imm.getLsbD 3 = T.t.kw ∧ fh.imm.getLsbD 4 = T.t.vw ∧ (hashed 0).g.hkey fh 0 = 0
          ∧ (match (hashed 0).ovCheck T 0 0 with | .ok _ => true | .error _ => false) = true
          ∧ (match (hashed emptyBucket).hplace T 0 64 0 7 with | .ok (.inSlot, _) => true | _ => false) = true)
      ∧ ((hashed 0).g.lane 0).applied = false ∧ (hashed 0).hashBusy = false
      ∧ (match State.helperKeys fh { t := { off := 0x400, bexp := 6, kw := false, vw := false, claimed := true }, b := block }
            [] (hashed 0) with | .ok (l, _) => l.isEmpty | .error _ => false) = true := by decide +kernel

/-- A barrier on the fabric page of endpoint 7, w6 to w8, with the answers of its four operations: two arrivals of two left,
phase 3. -/
def farBarrier : State :=
  let b : Barrier := { arrInit := 2, sect := 0, arr := 2, phase := 3, last := 0 }
  { flagging with
    g := { flagging.g with w := [(1, 1), (6, 0x70000)] }
    ports := [(0, { Port.off with up := true })]
    remotes := [RemoteOp.barrier 0 1 0, .barrier 1 1 0, .barrier 2 0 1, .barrier 3 0 0].mapIdx (fun i op =>
      { req := { id := 91 + i, src := 0, dst := 7, dctx := 5, addr := 0, len := 16, op := op }, gid := 1, tag := 32, status := some .ok
        bytes := natBytes 16 (Barrier.toNat b), rid := 0, ahead := [] }) }

/-- The answer that an operation on the far barrier finds. -/
def farAnswer (op : RemoteOp) : Option Nat :=
  match (farBarrier.barrierAt 6 .rmw).toOption with
  | some p =>
    let a : Ask := { tag := 32, ep := 7, addr := p.loc, len := 16, op := op }
    let s2 := (farBarrier.releaseDrain .domain).touch 1 true p
    match s2.askAll [a] (fun _ => true) with
    | .all =>
      if p.ep = some 7 ∧ farBarrier.moving p = false ∧ farBarrier.liveTbar (farBarrier.g.winOf 6) p = true then
        (s2.answerOf a).map (fun r => (Barrier.ofNat (bytesNat (r.bytes.take 16))).phase)
      else none
    | _ => none
  | none => none

theorem witness_Barriers_remote :
    (∀ op ∈ [RemoteOp.barrier 0 1 0, .barrier 1 1 0, .barrier 2 0 1, .barrier 3 0 0], farAnswer op = some 3)
      ∧ (let f := { fe with a := 6, b := 1 }
         farBarrier.Ready (.tbinit f) .always ∧ farBarrier.Ready (.tbarv f) .always ∧ farBarrier.Ready (.tbexp f) .always
          ∧ farBarrier.Ready (.tbphase f) .always)
      ∧ farBarrier.releaseFree .domain ∧ farBarrier.wcb = [] := by decide +kernel

/-- Task queue 3 of context 1, whose slot 0 is reserved and slot 1 published with 5 dependences, full task queue 4, launch
queue 5, full launch queue 6; handles in w16 to w18, none's in w19; a page with records in w20 to w22. -/
def tasking : State :=
  { unit with
    g := { group with w := [(1, 3), (2, 4), (3, 5), (4, 6), (16, 3 * 2 ^ 14), (17, 3 * 2 ^ 14 + 1), (18, 3 * 2 ^ 14 + 2), (19, 0x80000000), (20, 0x10000)
      , (24, 2), (25, 0x1000000)] }
    queues := [(3, { WorkQueue.none with
          state := .idle, task := true, asid := 1, rsv := 2
          slots := [(0, { TaskSlot.free with reserved := true }), (1, { TaskSlot.free with pub := true, dep := 5 })] })
      , (4, { WorkQueue.none with state := .idle, task := true, asid := 1, log2n := 0, rsv := 1, slots := [(0, { TaskSlot.free with pub := true })] })
      , (5, { WorkQueue.none with state := .idle, asid := 1, ring := 0x20000 })
      , (6, { WorkQueue.none with state := .idle, asid := 1, ring := 0x20000, tail := 64 })] }

theorem witness_TaskWords :
    (∀ i ∈ [Instr.tkrsv { fe with a := 1, dst := 5 }, .tkrsv { fe with a := 2, dst := 5 }, .tkrsv { fe with a := 3, dst := 5 }
        , .tksig { fe with a := 19, b := 24 }, .tksig { fe with a := 16, b := 24 }, .tksig { fe with a := 17, b := 24 }, .tksig { fe with a := 17, b := 25 }
        , .tksig { fe with a := 17, b := 26 }, .tkpub { fe with a := 19, b := 20, c := 24 }, .tkpub { fe with a := 16, b := 20, c := 24 }
        , .tkpub { fe with a := 17, b := 20, c := 24 }], tasking.Ready i .always)
      ∧ tasking.releaseWaits .package = false
      ∧ tasking.ownTaskQueue 3 = true ∧ tasking.ownTaskQueue 4 = true ∧ tasking.ownTaskQueue 5 = false
      ∧ (tasking.queue 3).tailFree = true ∧ (tasking.queue 4).tailFree = false
      ∧ tasking.handleSlot (tasking.g.wr 16) = some (3, 0) ∧ tasking.handleSlot (tasking.g.wr 17) = some (3, 1) ∧ tasking.handleSlot (tasking.g.wr 19) = none
      ∧ 2 ^ 24 ≤ (tasking.g.wr 25).toNat ∧ (tasking.g.wr 24).toNat = 2 ∧ (tasking.g.wr 26).toNat = 0
      ∧ ((tasking.queue 3).slot 1).pub = true ∧ 2 ≤ ((tasking.queue 3).slot 1).dep
      ∧ ((tasking.queue 3).slot 0).pub = false ∧ ((tasking.queue 3).slot 0).reserved = true ∧ ((tasking.queue 3).slot 0).early + 2 < 2 ^ 24 := by
  decide +kernel

theorem witness_TaskWords_publish :
    (tasking.uniformAddr 20).toOption = some 0x10000
      ∧ okOf (tasking.partAccess .always .read 0x10000 8 0) (fun ps =>
        let s1 := tasking.touchAll 1 false ps
        !(tasking.ownWriteWaits (tasking.g.threads .always) ps) && (readAsks 64 ps).isEmpty && bytesNat (s1.gather 64 ps) == 0
          && okOf (s1.partAccess .always .read 0x10000 8 0) (fun qs =>
            !(s1.ownWriteWaits (s1.g.threads .always) qs) && (readAsks 64 qs).isEmpty)) = true := by decide +kernel

theorem witness_LaunchAndServices :
    (∀ i ∈ [Instr.launch { fe with a := 3, b := 20, dst := 5 }, .launch { fe with a := 4, b := 20, dst := 5 }, .launch { fe with a := 1, b := 20, dst := 5 }
        , .ecall { fe with a := 1, b := 2, dst := 5 }], tasking.Ready i .always)
      ∧ tasking.releaseFree .system ∧ (∀ p ∈ passing [0] (fun _ => tasking.partAccess .always .read 0x10000 128 0), (tasking.touchAll 1 false p.2).releaseFree .system) ∧ tasking.g.pend.length < 8 ∧ tasking.SerialFresh
      ∧ (∀ q ∈ [5, 6], (tasking.queue q).task = false ∧ (tasking.queue q).state ≠ .off ∧ (tasking.queue q).asid = tasking.g.asid)
      ∧ (tasking.queue 3).task = true
      ∧ ((tasking.queue 6).tail - (tasking.queue 6).head).toNat = 2 ^ (tasking.queue 6).log2n
      ∧ ((tasking.queue 5).tail - (tasking.queue 5).head).toNat < 2 ^ (tasking.queue 5).log2n ∧ (tasking.queue 5).state ≠ .stopped
      ∧ okOf (tasking.partAccess .always .read 0x10000 128 0) (fun ps =>
        let s1 := tasking.touchAll 1 false ps
        !(tasking.ownWriteWaits (tasking.g.threads .always) ps) && (readAsks 64 ps).isEmpty
          && ((s1.releaseDrain .system).ctxStore 1 0x20000 (s1.gather 64 ps)).1) = true := by decide +kernel

theorem witness_SystemRegisters :
    (∀ i ∈ [Instr.sread { fe with imm := 0x7FFF, dst := 10 }, .sread { fe with imm := 0x002, dst := 10 }, .sread { fe with mod := 1, imm := 0x010, dst := 10 }
        , .swrite { fe with imm := 0x7FFF }, .swrite { fe with imm := 0x002 }, .swrite { fe with imm := 0x003, a := 1 }
        , .swrite { fe with imm := 0x040, mod := 1, a := 1 }, .swrite { fe with imm := 0x041, mod := 1, a := 1 }, .tstamp { fe with dst := 10 }
        , .tstamp { fe with mod := 1, dst := 10 }], unit.Ready i .always)
      ∧ sysReg 0x7FFF = none ∧ sysReg 0x002 ≠ none ∧ sysReg 0x010 ≠ none ∧ (∃ sc, sysReg 0x002 = some (sc, false))
      ∧ unit.g.trap = none ∧ handling.g.trap.isSome = true := by
  refine ⟨by decide, by decide, by decide, by decide, ⟨_, rfl⟩, by decide, by decide⟩

/-- Lines of the page at 0x10000, w16 to w18; counts 1, 0, and one too many in w20 to w22; the scratchpad window at w24. -/
def locking : State :=
  { unit with g := { group with w := [(16, 0x10000), (20, 1), (22, 4097), (24, 0), (26, 0xFE00), (29, 0xFC00)] } }

/-- A format M word on the triple w16 to w18, its count in w20. -/
def fl : FmtM := { fm with a := 16, b := 20, dst := 5 }

/-- Eight pins in the set of the line, in a second entry for the context's number, which alone is sure to share the set. -/
def crowded : State :=
  { locking with ctxs := locking.ctxs ++ [(1, { ctx with pins := List.replicate 8 (pinKey 0 0x200) })] }

theorem witness_LineLocks :
    (∀ i ∈ [Instr.llock fl, .llock { fl with b := 21 }, .llock { fl with b := 22 }, .llock { fl with a := 24 }, .lulock fl], locking.Ready i .always
        ∧ { locking with ctxs := [(1, { ctx with lockQuota := 0 })] }.Ready i .always ∧ crowded.Ready i .always)
      ∧ (locking.g.uniAddr fl 4).toOption = some 0x10000 ∧ (locking.g.uniAddr { fl with a := 24 } 4).toOption = some (0xFE00 * 2 ^ 64)
      ∧ (locking.g.wr 20).toNat = 1 ∧ (locking.g.wr 21).toNat = 0 ∧ 4096 < (locking.g.wr 22).toNat
      ∧ (let l := 0xFE00 * 2 ^ 64 / 128
         0xFC ≤ l / 2 ^ 65 ∧ l / 2 ^ 65 ≤ 0xFE) ∧ 0x10000 / 128 / 2 ^ 65 = 0
      ∧ okOf (permitAll .read (locking.withWalk 1 [(0x10000, 1)])) (fun ps => ps.all (fun p => match p.pte with
          | some (e, _, _) => pteC e && !pteRep e
          | none => false)) = true
      ∧ 0 < 0 + [0x200].length ∧ ¬ locking.cx.lockQuota < locking.cx.lockUsed 0 + [0x200].length
      ∧ [0x200].filter (fun l => !locking.cx.pins.contains (pinKey 0 l)) = [0x200] := by decide +kernel

theorem crowded_full : crowded.pinsFit 0 1 [0x200] = false := by
  have h : crowded.setPins 0 1 0x200 = 8 := by
    simp [crowded, locking, unit, State.setPins, ctx, Ctx.off, pinKey]
  simp [State.pinsFit, h]

theorem roomy_fits : locking.pinsFit 0 1 [0x200] = true := by
  have h : locking.setPins 0 1 0x200 = 0 := by
    simp [locking, unit, State.setPins, ctx, Ctx.off]
  simp [State.pinsFit, h]

theorem witness_CacheMaintenance :
    (∀ b ∈ [20, 21], ∀ a ∈ [16, 24, 27], ∀ f ∈ [{ fl with a := BitVec.ofNat 8 a, b := BitVec.ofNat 8 b }], ∀ i ∈ [Instr.cwb f, .cinv f, .icinv f]
      , locking.Ready i .always) ∧ locking.g.pend.length < 8
      ∧ (locking.g.uniAddr fl 4).toOption = some 0x10000 ∧ (locking.g.uniAddr { fl with a := 24 } 4).toOption = some (0xFE00 * 2 ^ 64)
      ∧ (locking.g.uniAddr { fl with a := 27 } 4).toOption = some (0xFC00 * 2 ^ 64)
      ∧ 0x10000 / 2 ^ 72 % 256 = 0 ∧ 0xFE00 * 2 ^ 64 / 2 ^ 72 % 256 = 0xFE ∧ 0xFC00 * 2 ^ 64 / 2 ^ 72 % 256 = 0xFC := by decide +kernel

/-! ### The events of the device -/

/-- A copy engine operation of the issuing group. -/
def engOp (id : Nat) (kind : EngKind) : EngOp :=
  { id := id, engop := 1, core := 0, asid := 1, launch := 0, block := 0, gid := 1, kind := kind, tok := 22, bar := none, slot := 0
    running := false, waits := none, curA := 0, curB := 0, curN := 0, count0 := 0, aperture := false, seqAt := 0
    dying := false, chain := none, found := [] }

def round (num : Nat) (res : Option (List W32 × BitVec 52 × Nat × Nat)) : MeshRound :=
  { num := num, start := 0, pkts := [(1, [some 1])], passed := [], result := res }

/-- Channel 3 with packets on their way to round 6, whose first packet came at once, to a round that is not there, and to
rounds 8 and 9, which started long ago; round 5 is finished. -/
def meeting : Channel :=
  { Channel.off with
    opened := true, asid := 1, mask := 3, timeout := 1, flight := [(1, 6, [some 1]), (1, 7, [some 1]), (0, 8, []), (1, 9, [some 1])]
    rounds := [round 5 (some ([1], 0, 2, 1)), { round 6 none with pkts := [] }, round 8 none, { round 9 none with start := 1000000000 }] }

/-- Operations of every unit under way, with token 22 pending in w5. -/
def busy : State :=
  { gathering with
    g := { gathering.g with w := [], tilePend := [(0, 21)], pend := [(5, 22)] }
    now := 1000000000
    matOps := [{ id := 21, core := 0, gid := 1, slot := 0, since := 0, cycles := 900 }]
    maintOps := [{ id := 22, core := 0, asid := 1, opc := 0x0D6, all := true, base := 0x10000, len := 128, value := 0, waits := none }
      , { id := 23, core := 0, asid := 1, opc := 0x0D5, all := true, base := 0x10000, len := 128, value := 0, waits := none }
      , { id := 24, core := 0, asid := 1, opc := 0x0D4, all := true, base := 0x10000, len := 128, value := 0, waits := none }]
    ecalls := [{ id := 22, service := 1, a := 0, b := 0, asid := 1, core := 0 }]
    engOps := [{ engOp 31 (.tmpl 3) with running := true }, engOp 32 (.tmpl 4), engOp 33 (.mrcv 3 0 5)]
    flagOps := [{ id := 41, core := 0, asid := 1, dst := 7, slot := 2, dctx := 5, addr := 0, value := 1, after := [] }]
    channels := [(3, meeting)] }

theorem witness_OperationEvents :
    (∀ m ∈ busy.matOps.find? (fun x => x.id == 21), busy.matLeft m = 0) ∧ (busy.matOps.find? (fun x => x.id == 21)).isSome = true
      ∧ (∀ o ∈ busy.engOps.find? (fun x => x.id == 32), busy.mayStart o = true) ∧ (busy.engOps.find? (fun x => x.id == 32)).isSome = true
      ∧ (∀ o ∈ busy.engOps.find? (fun x => x.id == 31), o.running = true ∧ o.dying = false ∧ o.waits = none ∧ busy.ctxRuns o.asid = true ∧ busy.coreLive o.core = true
          ∧ o.kind = .tmpl 3 ∧ o.bar = none ∧ o.tok ≠ 0 ∧ busy.g.pend = [(5, o.tok)]) ∧ (busy.engOps.find? (fun x => x.id == 31)).isSome = true
      ∧ busy.releaseWaits .package = false ∧ (∀ op ∈ [31, 33], ∀ b ∈ busy.blocks, b.saved = true
          ∨ { busy with engOps := busy.engOps.filter (fun x => x.id != op) }.blockBusy b = true)
      ∧ (∀ o ∈ busy.engOps.find? (fun x => x.id == 33), o.kind = .mrcv 3 0 5) ∧ (busy.engOps.find? (fun x => x.id == 33)).isSome = true
      ∧ (∀ r ∈ (busy.chan 0 3).rounds.find? (fun x => x.num == 5), r.result.isSome = true)
      ∧ ((busy.chan 0 3).rounds.find? (fun x => x.num == 5)).isSome = true ∧ (busy.blockOf 1 0 0).isSome = true
      ∧ (∀ op ∈ [22, 23, 24], (busy.maintOps.find? (fun x => x.id == op)).isSome = true) ∧ (∀ o ∈ busy.maintOps, o.waits = none)
      ∧ (let l := busy.rangeWalks 1 0x10000 128
         missing l = [] ∧ l.all (fun r => match r.2.2 with | .format _ _ _ => false | _ => true) = true)
      ∧ (∀ o ∈ busy.flagOps.find? (fun x => x.id == 41), o.after = []) ∧ busy.pathWait = [] ∧ (busy.flagOps.find? (fun x => x.id == 41)).isSome = true
      ∧ (∃ e ∈ busy.ecalls, e.id = 22) := by decide +kernel

theorem witness_OperationEvents_mesh :
    (∀ k ∈ [6, 7, 9], ((busy.chan 0 3).flight.find? (fun x => x.1 == 1 && x.2.1 == k)).isSome = true)
      ∧ (busy.chan 0 3).rounds.find? (fun r => r.num == 7) = none
      ∧ (∀ r ∈ (busy.chan 0 3).rounds.find? (fun r => r.num == 6), r.hasPassed ((busy.chan 0 3).node 1) = false ∧ r.result = none
          ∧ busy.meshOver 0 (busy.chan 0 3) r 1 = false ∧ busy.meshOver 0 (busy.chan 0 3) r 2 = false ∧ r.pkts = [])
      ∧ (∀ r ∈ (busy.chan 0 3).rounds.find? (fun r => r.num == 9), r.hasPassed ((busy.chan 0 3).node 1) = false ∧ r.result = none
          ∧ busy.meshOver 0 (busy.chan 0 3) r 1 = false ∧ busy.meshOver 0 (busy.chan 0 3) r 2 = false ∧ r.pkts ≠ [])
      ∧ ((busy.chan 0 3).flight.find? (fun x => x.1 == 0 && x.2.1 == 8)).isSome = true
      ∧ ((busy.chan 0 3).rounds.find? (fun r => r.num == 6)).isSome = true
      ∧ (∀ r ∈ (busy.chan 0 3).rounds.find? (fun r => r.num == 8), busy.meshOver 0 (busy.chan 0 3) r 1 = true ∧ busy.meshOver 0 (busy.chan 0 3) r 2 = true)
      ∧ ((busy.chan 0 3).rounds.find? (fun r => r.num == 8)).isSome = true ∧ (busy.chan 0 3).timeout ≠ 0
      ∧ (busy.chan 0 3).node 1 ∈ (busy.chan 0 3).nodes := by decide +kernel

/-- A clause of one NOP at the lanes' PC. -/
def starting : State :=
  { unit with
    g := { group with run := none }
    mem := putBytes 0x20200 (natBytes 8 0xCE00000000000000 ++ natBytes 8 ((encode (.nop fe)).getD 0).toNat) [] }

/-- Quads of the issuing group as records: parked at a stall, and spilled. -/
def parkedRec (kind : Nat) : Rec := unit.makeRec group 0 (ParkPlan.now kind 64 none) 0

/-- The group stalls on a token since time 0, or is parking-stalled, or was asked to yield. -/
def stalled : State :=
  { unit with now := 1000000000, g := { group with stall := some { kind := .token, since := 0 }, yieldAt := some 0 } }
def parking : State :=
  { unit with now := 1000000000, g := { group with run := none, parkStall := some { since := 0, recs := [(0, parkedRec 1)], pc := 0x200, wix := 0, asked := false } } }

theorem witness_GroupEvents :
    (starting.atBoundary = true ∧ starting.g.live = [0, 1] ∧ starting.g.trap = none ∧ starting.g.yieldReq = false ∧ starting.g.yieldAt = none ∧ starting.g.slotDue = []
        ∧ (∀ L ∈ starting.g.live, (starting.g.lane L).hold = .none ∧ (starting.g.lane L).mid = false) ∧ starting.g.minPc starting.g.live = 0x200)
      ∧ okOf (starting.codeRead 0x200 0 0 8) (fun a => headerCount a.2 == 1 && !headerMeet a.2
          && okOf (a.1.codeRead 0x200 0 8 8) (fun b => (clauseCheck a.2 [opcOf (w64 b.2)]).isNone && (decodeWord [] (w64 b.2)).isOk)) = true
      ∧ (stalled.parkDue = true ∧ stalled.g.gid ≠ 0 ∧ stalled.ParkRoom 256 ∧ stalled.spillDue = true ∧ stalled.g.parkStall = none)
      ∧ (∀ p ∈ parking.g.parkStall, ∀ x ∈ p.recs, x.1 < 8 ∧ parking.g.quadLive x.1 ≠ []) ∧ { parking with g := { parking.g with yieldAt := some 0 } }.spillDue = true ∧ parking.ParkRoom 256
      ∧ (∀ p ∈ parking.g.parkStall, (parking.writeRecs (p.recs.any (fun x => x.2.kind == 4)) p.recs).2 = []
          ∧ p.recs.any (fun x => x.2.kind == 4) = false ∧ p.since + parking.cx.poolTmo ≤ parking.now)
      ∧ parking.g.parkStall.isSome = true ∧ parking.toSupervisor 0x2A = false := by decide +kernel

/-- A launch of two blocks with one role: 64 registers, one group, two tiles. -/
def oneRole : Launch :=
  { launch with words := [w64 (0x11 + 2 * 2 ^ 16), 0, 0, 0, 0, 0, w64 (0x200 + 64 * 2 ^ 32 + 2 ^ 41 + 2 * 2 ^ 47)] ++ List.replicate 9 0, nextBlock := 0 }

/-- Records: 61 in the emergency store, 62 ready and DUE, 63 sent to another device, 64 waiting outside; a batch whose page
is there; cores 64 and 65 of die 1 alone in operation, in the one partition. -/
def recording : State :=
  { unit with
    g := Group.off, now := 1000000000, launches := [oneRole], blocks := [], gidNext := 9
    parts := [(0, { Part.init with mask := 3 <<< 64, pmWindow := 5 })]
    ident := { unit.ident with coreLive := 3 <<< 64 }
    ctxs := [(1, { ctx with extDl := 100 })]
    records := [{ parkedRec 1 with rid := 61, place := .emergency 0 }
      , { parkedRec 0 with rid := 62, place := .pool 300, core := 64, readyAt := some 0, due := true, block := 0xFFFFFF }
      , { parkedRec 0 with rid := 63, place := .pool 320, core := 64, readyAt := some 0, xfer := some 7 }
      , { parkedRec 0 with rid := 64, place := .pool 340, core := 64, wkind := 6, wkey0 := 0xFFFFFFFFFFFFFFFF, fired := false, tstamp := 0 }]
    batches := [{ id := 71, asid := 1, pages := [1], ahead := none }] }

theorem witness_SchedulerEvents_records :
    (∀ r ∈ recording.records.find? (fun x => x.rid == 61), r.place = .emergency 0 ∧ (recording.poolFind r.asid r.units).isSome = true)
      ∧ (recording.records.find? (fun x => x.rid == 61)).isSome = true
      ∧ (∀ r ∈ recording.records.find? (fun x => x.rid == 62 && x.readyAt.isSome && x.xfer.isNone), recording.binOf r = [r]
          ∧ r.readyAt.getD 0 + (recording.ctx r.asid).binAge ≤ recording.now ∧ recording.launchOf r.asid r.launch = some oneRole
          ∧ recording.chosen 64 = some (recording.binCand r) ∧ r.core = 64)
      ∧ (recording.records.find? (fun x => x.rid == 62 && x.readyAt.isSome && x.xfer.isNone)).isSome = true
      ∧ (recording.records.find? (fun x => x.rid == 63 && x.xfer.isSome)).isSome = true
      ∧ (∀ r ∈ recording.records.find? (fun x => x.rid == 64), (recording.ctx r.asid).extDl ≠ 0 ∧ r.overdue = false ∧ recording.waitsOutside r = true
          ∧ r.tstamp + (recording.ctx r.asid).extDl < recording.now)
      ∧ (recording.records.find? (fun x => x.rid == 64)).isSome = true := by decide +kernel

/-- Die 0 has no core in operation, record 62 lies there, and port 0 is up. -/
def stranded : State :=
  { recording with ports := [(0, { Port.off with up := true })], records := recording.records.map (fun r => { r with core := 0 }) }

theorem witness_SchedulerEvents_forward :
    (∀ r ∈ stranded.records.find? (fun x => x.rid == 62), stranded.forwardDue r = true ∧ stranded.targetOk r 64 = true ∧ stranded.preferredTarget r (.core 64) = true
        ∧ stranded.deviceOk r 7 = true ∧ stranded.preferredTarget r (.device 7) = true ∧ r.block = 0xFFFFFF
        ∧ ∀ x ∈ stranded.binOf r, stranded.keptOf x = [])
      ∧ (stranded.records.find? (fun x => x.rid == 62)).isSome = true := by decide +kernel

/-- The image of record 81 for context 1, launch 0. -/
def image : RecordImage :=
  { words := [0x200, 1 * 2 ^ 32, 0xFFFFFF * 2 ^ 40, 0, 0x1001 + 8 * 2 ^ 37, 0, 0, 0x200, 0, 0, 0, 0, 0, 0, 0, 81]
    regs := List.replicate 32 0, dctx := 5, digest := [], poison := [], value := none, block := none }

theorem witness_SchedulerEvents_transfer :
    (image.words.getD 15 0).toNat = 81 ∧ 81 ∉ recording.accepted ∧ recording.ctxFor image = some 1
      ∧ (let r := recOfImage image 1 0 0
         (recording.launchOf 1 r.launch).isSome = true ∧ recording.arrival 1 image r = some (64, r, recording)
          ∧ (recording.placeRec { r with core := 64 } false).isSome = true)
      ∧ recording.ctxFor { image with dctx := 6 } = none ∧ { image with value := some 5 }.value.isSome = true
      ∧ 81 ∈ { recording with accepted := [81] }.accepted := by decide +kernel

theorem witness_SchedulerEvents_batch :
    (∀ b ∈ recording.batches.find? (fun x => x.id == 71), recording.batchResident b = true) ∧ (recording.batches.find? (fun x => x.id == 71)).isSome = true
      ∧ (∀ l ∈ recording.launches, l.completed = false) ∧ (recording.ctx 1).state ≠ .ending ∧ (∀ g ∈ recording.groups, g.reload = 0) := by decide +kernel

/-- `recording` without records: the launch alone is a candidate. -/
def fresh : State := { recording with records := [] }

theorem witness_SchedulerEvents_blockStart :
    fresh.launchOf (2 ^ 32 / 2 ^ 32) (2 ^ 32 % 2 ^ 32) = some oneRole ∧ (fresh.imageRuns oneRole 1).isSome = true
      ∧ fresh.launchReady oneRole = true ∧ fresh.placeOk oneRole [64] = true ∧ fresh.gidNext ≠ 0 ∧ oneRole.groupRoles = [0] := by decide +kernel

/-- The launch of 12 groups of 256 registers fills the one core of the partition, on which a group lies. -/
def crammed : State :=
  { unit with
    now := 1000000000, parts := [(0, { Part.init with mask := 1 })]
    launches := [{ oneRole with words := oneRole.words.set 6 (w64 (0x200 + 256 * 2 ^ 32 + 12 * 2 ^ 41)) }] }

theorem witness_SchedulerEvents_reclaim :
    crammed.starved ≠ [] ∧ ∀ c ∈ crammed.starved.head?, crammed.gangOf c = 1 ∧ crammed.eligible c = [0]
      ∧ crammed.needed 0 (fun t => t.candRoom c 0) = some [1]
      ∧ ∀ m ∈ crammed.eligible c, ∀ y ∈ crammed.needed m (fun t => t.candRoom c m), 1 ≤ y.length := by decide +kernel

theorem witness_SchedulerEvents_window :
    (recording.part 0).pmWindow ≠ 0 ∧ (recording.part 0).frozen = false
      ∧ (recording.part 0).windowStart + (recording.part 0).pmWindow * 1000 ≤ recording.now := by decide +kernel

/-- `unit` with an entry in memory for the page at 0x10000, where its translation says it lies, a replicated write that die 1
has not applied, and a batch for the page at 0x70000, whose entry says storage. -/
def tiers (e : W64) (free : Nat) : State :=
  { unit with
    mem := putBytes 0x900008 (natBytes 8 e.toNat) (putBytes 0xE0038 (natBytes 8 0x60A7) ((List.range 4).foldl (fun m k =>
      putBytes (0xA0000 + 65536 * k) (natBytes 8 (0x4000 + (0xB + k) * 2 ^ 18)) m) []))
    ctxs := [(1, { ctx with ptRoot := 0xA0000 })]
    migrate := [(0, { Migrate.zero with free := free, low := 4, high := 8, next := [1, 2] })
      , (1, { Migrate.zero with free := 9, low := 10, high := 12, promoteHits := 1 }), (4, { Migrate.zero with free := 9, low := 10 })]
    hier := { unit.hier with misses := [(0x900008, { window := 0, count := 1 })] }
    seqLog := [{ num := 1, bytes := [], old := [], pending := [1], threads := [0], asid := 1 }]
    tlbiCtl := 0x80000000
    batches := [{ id := 71, asid := 1, pages := [7], ahead := none }] }

/-- Entries of the page: in tier 0 with A set and clear, in tiers 1 and 4 with A clear. -/
def inTier0 : W64 := leafAt 1
def idleTier (k : Nat) : W64 := (leafAt 1 &&& ~~~0x10000#64) ||| BitVec.ofNat 64 (k * 32)
def entryOf (k : Nat) : W64 := if k = 8 then inTier0 else idleTier k

theorem witness_HierarchyEvents_fetch :
    (∀ b ∈ (tiers inTier0 9).batches.find? (fun y => y.id == 71), (0x70000 : Addr).toNat / 65536 ∈ b.pages ∧ b.asid = 1)
      ∧ ((tiers inTier0 9).batches.find? (fun y => y.id == 71)).isSome = true
      ∧ (tiers inTier0 9).translate 1 0x70000 = .notPresent 0x60A7 0 0xE0038 ∧ (tiers inTier0 9).frameFits 0 0x20 0 = true
      ∧ ((tiers inTier0 9).mig 0).low ≤ ((tiers inTier0 9).mig 0).free := by decide +kernel

theorem witness_HierarchyEvents_fetch_data : (List.replicate (pageSize 0) (0 : Byte)).length = pageSize 0 := List.length_replicate

theorem witness_HierarchyEvents_move :
    (∀ k ∈ [8, 0, 1, 4],
        let s := tiers (entryOf k) 1
        Memory.wf s.mem = true ∧ w64 (s.peek 0x900008 8) = entryOf k ∧ s.mayMigrate 0 (entryOf k) = true
          ∧ s.translate 1 0x10000 = .leaf (leafAt 1) 0 0x900008 ∧ s.moveOf 0x900008 = none ∧ s.coldest (pteTier (entryOf k)) 0x900008 = true ∧ (s.mig (pteTier (entryOf k))).free < (s.mig (pteTier (entryOf k))).low)
      ∧ inTier0.getLsbD 16 = true ∧ (∀ k ∈ [0, 1, 4], (idleTier k).getLsbD 16 = false ∧ pteTier (idleTier k) = k)
      ∧ (tiers inTier0 1).demotesTo 0 inTier0 1 = true ∧ (tiers (idleTier 0) 1).demotesTo 0 (idleTier 0) 1 = true ∧ (tiers (idleTier 0) 1).frameFits 1 0x1000000 0 = true
      ∧ (tiers (idleTier 4) 1).demotesTo 0 (idleTier 4) 5 = true ∧ (tiers (idleTier 1) 1).demotesTo 0 (idleTier 1) 4 = true
      ∧ (tiers (idleTier 1) 1).promoteDue 1 0x900008 = true ∧ (tiers (idleTier 1) 1).frameFits 0 0x20 0 = true
      ∧ (∀ f ∈ [0x1000000, 0x20], ∀ j < 8, Outside (0x900008 + j) [(f * 65536, pageSize 0)]) := by decide +kernel

/-- A move of the page to a tier has begun. -/
def underWay (tier : Nat) : State :=
  { tiers (idleTier 0) 1 with
    hier := { unit.hier with moves :=
      [{ asid := 1, va := 0x10000, level := 0, addr := 0x900008, source := 1, frame := 0x1000000, tier := tier, ask := 0 }] } }

theorem witness_HierarchyEvents_moved :
    ∀ tier ∈ [1, 3], let s := underWay tier
      Memory.wf s.mem = true ∧ s.translate 1 0x10000 = .leaf (leafAt 1) 0 0x900008 ∧ (0x1000000 : Nat) < 2 ^ 36
        ∧ (s.moveOf 0x900008).any (fun m => m.ask == 0 && m.level == 0 && m.frame == 0x1000000 && m.tier == tier
            && pteFrame (w64 (s.peek 0x900008 8)) == m.source * 65536) = true
        ∧ pteV (w64 (s.peek 0x900008 8)) = true ∧ pteLeaf (w64 (s.peek 0x900008 8)) = true
        ∧ ptePresent (w64 (s.peek 0x900008 8)) = true ∧ pteFt (w64 (s.peek 0x900008 8)) = false := by decide +kernel

theorem witness_HierarchyEvents_rest :
    (∃ w ∈ (tiers inTier0 1).seqLog.find? (fun x => x.pending.contains 1), 1 ∈ w.pending ∧ w.asid = 1)
      ∧ (∀ l ∈ (tiers inTier0 1).launches, l.completed = false) ∧ ((tiers inTier0 1).ctx 1).state ≠ .ending
      ∧ tlbiBusy (tiers inTier0 1).tlbiCtl = true ∧ tlbiBusy unit.tlbiCtl = false ∧ tlbiBusy 0x80000000 = true
      ∧ (∀ r ∈ (tiers inTier0 1).remotes, r.gid = 0 ∨ r.status ≠ none) := by decide +kernel

/-- Endpoint 7 owns slot 2 for context 1, its table permits everything, its next span is 0; a late span of slot 3; a flag
logged for slot 4; a request in flight from the issuing group; one port up. -/
def fabric : State :=
  { unit with
    now := 100000000
    owners := [(recvKey 7 2, 5)]
    ranges := [(128 * 7, 0xF), (128 * 7 + 1, 0xFFFF00000000FFFF)]
    recvs := [(recvKey 7 3, { RecvState.init with cnt := [{ count := 1, flag := none, lastAt := 0 }, SpanCounter.zero, SpanCounter.zero, SpanCounter.zero] })
      , (recvKey 7 5, { RecvState.init with replays := 3, cnt := [{ count := 1, flag := none, lastAt := 0 }, SpanCounter.zero, SpanCounter.zero, SpanCounter.zero] })]
    sends := [(recvKey 7 4, { SendState.init with span := 1 })]
    sendLog := [{ pkt := { cls := .flag, src := 0, dst := 7, dctx := 5, slot := 4, span := 0, gen := 0, stamp := 0, addr := 0, bytes := [], count := 0, value := 0 }
                  closedAt := some 5 }]
    ports := [(0, { Port.off with up := true })]
    remotes := [{ req := { id := 91, src := 0, dst := 7, dctx := 5, addr := 0, len := 4, op := .read }, gid := 1, tag := 32, status := none, bytes := [], rid := 0, ahead := [] }]
    poison := [(0x10000, true)] }

/-- A packet of slot 2 with four bytes, span 0; as flag with count 0; from no owner. -/
def packet (cls : PktClass) (slot addr count : Nat) : Packet :=
  { cls := cls, src := 7, dst := 0, dctx := 5, slot := slot, span := 0, gen := 0, stamp := 99999999, addr := addr, bytes := [(0, 1), (1, 2)], count := count, value := 9 }

theorem witness_FabricEvents_packets :
    (∀ p ∈ [packet .write 2 0x10000 0, packet .zeroLine 2 0x10000 0, packet .flag 2 0x10000 0, packet .flag 2 0x10000 1, packet .write 2 0x10000000000 0],
        fabric.expired p = false ∧ (fabric.recv 7 2).state = 0 ∧ p.gen = (fabric.recv 7 2).gen ∧ (p.span - (fabric.recv 7 2).current).toNat = 0
          ∧ (fabric.recv 7 2).cnt.length = 4 ∧ fabric.owner 7 2 = 5 ∧ p.dctx ≠ 0xFFFF#16
          ∧ ((fabric.recv 7 2).counter 0).flag = none ∧ ((fabric.recv 7 2).counter 1).flag = none ∧ ((fabric.recv 7 2).counter 0).count = 0
          ∧ (p.bytes.map (·.1)).Nodup)
      ∧ fabric.rangePermits 7 5 0x10000 128 2 = true ∧ fabric.rangePermits 7 5 0x10000 4 2 = true
      ∧ fabric.rangePermits 7 5 0x10000000000 128 2 = false ∧ fabric.cxlLost 0x10000 = false
      ∧ fabric.owner 7 9 ≠ 5 ∧ fabric.expired (packet .write 9 0x10000 0) = false
      ∧ (fabric.devRegs.get 0 (traceReg 0 3)).getLsbD 4 = false
      ∧ (∃ p : Packet, (p.span - (fabric.recv 7 2).current).toNat = 1 ∧ p = { packet .flag 2 0x10000 0 with span := 1 }) := by
  refine ⟨by decide +kernel, by decide +kernel, by decide +kernel, by decide +kernel, by decide +kernel, by decide +kernel, by decide +kernel
    , by decide +kernel, ⟨_, ?_, rfl⟩⟩
  decide +kernel

theorem witness_FabricEvents_replays :
    (∀ slot ∈ [3, 5], (fabric.recv 7 slot).state = 0 ∧ fabric.spanLate (fabric.recv 7 slot) = true)
      ∧ (fabric.recv 7 3).replays ≠ 3 ∧ (fabric.recv 7 5).replays = 3 ∧ fabric.pathUp = true
      ∧ (fabric.send 7 4).gen ≠ 1 ∧ ((fabric.send 7 4).span - 0).toNat = 1 ∧ fabric.logHolds 7 4 0 = true
      ∧ ((fabric.send 7 2).span - 1).toNat = 255 ∧ fabric.ctxOfDctx 5 = some 1 := by decide +kernel

theorem witness_FabricEvents_requests :
    (∀ op ∈ [RemoteOp.read, .atomic 0 .n32 [1, 0, 0, 0] []], fabric.rangePermits 7 5 0x10000 4 (remoteBit op) = true
        ∧ fabric.rangePermits 8 5 0x10000 4 (remoteBit op) = false)
      ∧ fabric.poisoned 0x10000 4 = false ∧ fabric.poisoned (0x10000 * 32) 4 = true ∧ fabric.rangePermits 7 5 (0x10000 * 32) 4 1 = true
      ∧ (∃ r ∈ fabric.remotes.find? (fun y => y.req.id == 91 && y.status.isNone), r.gid = 1) ∧ (∃ g ∈ fabric.groups, g.gid = 1)
      ∧ (∀ g ∈ fabric.groups, g.reload = 0) := by decide +kernel

/-- Endpoint 0 is the time master; port 0 is up, port 1 may train, port 2 trains since time 0 with 16 good lanes, and has
failed twice; a packet waits for its line. -/
def linked : State :=
  { fabric with
    timeMaster := some 0, pathHold := [(7, 5)], pathWait := [(none, packet .write 2 0 0), (some 0, packet .write 2 128 0)]
    ports := [(0, { Port.off with up := true }), (2, { Port.off with training := some 0, word := 0xFFFF00000000, fails := 2 })] }

theorem witness_LinkEvents :
    (linked.pathHold.get 0 7 ≠ 0 ∧ linked.pathHold.get 0 7 ≤ linked.now + 1) ∧ linked.timeMaster = some linked.endpoint
      ∧ linked.lastBeacon + 1000 ≤ linked.now ∧ linked.pathUp = true ∧ unit.timeMaster ≠ some unit.endpoint
      ∧ linked.mayTrain 1 = true ∧ (linked.port 2).training = some 0 ∧ 0 + 100000000 ≤ linked.now
      ∧ 4 ≤ (lanesIn (lwLanes (linked.port 2).word &&& lwLanes 0x000F00000000)).length ∧ (linked.port 2).expected = none
      ∧ (lanesIn (lwLanes (linked.port 2).word &&& lwLanes 0x000700000000)).length < 4
      ∧ (linked.port 0).up = true ∧ linked.cxlDown.getLsbD 1 = false := by decide +kernel

/-- A launch queue 5 with an entry to fetch, another that is full; a template that may be started from outside. -/
def hosting : State :=
  { tasking with
    launches := [], queues := tasking.queues.map (fun q => if q.1 = 5 then (5, { q.2 with state := .active, tail := 1 }) else q)
    mem := putBytes 0x60000 (natBytes 64 (bytesNat ([0x10000, 0, 0xC0000000, 0x20000, 0, 0, 16, 0x10001, 0, 0, 0, 0, 0, 0x10000, 0, 0].flatMap (natBytes 4)))) [] }

theorem witness_HostEvents :
    (let bad (x : W64) : Prop := tLostUs x < 2 * pktLifeUs x ∨ tKeepUs x < 3 * tLostUs x + pktLifeUs x
     bad 0x000000000000FFFF ∧ ¬ bad 0x0000000A00C80014)
      ∧ (hosting.queue 5).task = false ∧ (hosting.queue 5).state = .active ∧ 2 ^ 31 ≤ ((0 : W32) - (hosting.queue 5).tail).toNat
      ∧ 2 ^ (hosting.queue 5).log2n < ((65 : W32) - (hosting.queue 5).head).toNat ∧ ((2 : W32) - (hosting.queue 5).head).toNat ≤ 2 ^ (hosting.queue 5).log2n
      ∧ (hosting.ctx (hosting.queue 5).asid).state = .running ∧ (hosting.queue 5).head ≠ (hosting.queue 5).tail ∧ hosting.launchesOf 5 = []
      ∧ (∀ q ∈ [5, 6], (hosting.queue q).state ≠ .off ∧ (hosting.queue q).state ≠ .stopped) ∧ hosting.recordAt 0x10000 = none
      ∧ (hosting.ctx 1).state ≠ .off ∧ hosting.apStores = []
      ∧ (match hosting.ctxRead 1 (2 ^ 41 + 5) 0x20000 128 with | .ok _ _ => true | _ => false) = true
      ∧ hosting.boot.ready = true ∧ hosting.boot.power = true ∧ (hosting.apertureCheck 1 0 4096).isOk = false ∧ (hosting.apertureCheck 1 0 0).isOk = true
      ∧ (∀ o ∈ hosting.apStarts, o.id ≠ hosting.serial) ∧ hosting.records = [] ∧ hosting.barMemory 0x10000 = true
      ∧ (hosting.readReg 0x8000).isSome = true ∧ (hosting.mailbox 0).req = none := by decide +kernel

/-! ### Running ahead -/

/-- A group at two loads of pages that nothing maps, a load whose address comes from the first, and the end of the
segment. -/
def missing2 : State :=
  let word (i : Instr) : W64 := (encode i).getD 0
  let ldw (d a : BitVec 8) : Instr := .ldw { fm with dst := d, a := a }
  { unit with g := { group with
      w := [(6, 0x70000), (9, 0x80000), (20, 0x90000)]
      run := some { oneWord 0 with words := [word (ldw 20 6), word (ldw 22 20), word (ldw 21 9), word (.exit fe), word (ldw 24 20)] } } }

def batchPages (s : State) : List (List Nat × Bool) := s.batches.map (fun b => (b.pages, b.ahead.isSome))

def stepped (s : State) : Option State :=
  match step s with
  | .next t => some t
  | _ => none

/-- R282: the fault parks the group and the next step runs ahead: the third load's page joins the batch, the second's
address is a marker, and nothing past EXIT runs; the records the group left and memory are as they were. -/
theorem test_run_ahead :
    (stepped missing2).map (fun t => (batchPages t, t.g.gid, t.records.length)) = some ([([7], true)], 0, 1)
      ∧ (stepped missing2).bind (fun t => (stepped t).map (fun u =>
          (batchPages u, decide (u.records = t.records), decide (u.acc = t.acc), decide (u.agenda = t.agenda))))
        = some ([([7, 8], false)], true, true, true) := by decide +kernel

/-- An object in host memory: its header, with n variants at offset 64. -/
def objHead (n : Nat) : List Byte :=
  natBytes 4 0x7A5C0B01 ++ natBytes 2 1 ++ natBytes 2 n ++ natBytes 8 64 ++ List.replicate 48 0

/-- An object with one variant for any device: eight bytes of zeros as code, under a digest. -/
def object (digest : List Byte) : List Byte :=
  objHead 1 ++ natBytes 8 0xFFFFFFFFFFFFFFFF ++ natBytes 8 1 ++ natBytes 8 160 ++ natBytes 8 8 ++ digest ++ natBytes 8 0 ++ natBytes 8 0 ++ natBytes 8 0
    ++ natBytes 8 0 ++ natBytes 8 0

/-- SHA-256 of eight zero bytes (FIPS 180-4). -/
def zeroDigest : List Byte :=
  [0xaf, 0x55, 0x70, 0xf5, 0xa1, 0x81, 0x0b, 0x7a, 0xf7, 0x8c, 0xaf, 0x4b, 0xc7, 0x0a, 0x66, 0x0f, 0x0d, 0xf5, 0x1e, 0x42, 0xba, 0xf9, 0x1d, 0x4d
    , 0xe5, 0xb2, 0x32, 0x8d, 0xe0, 0xe8, 0x3d, 0xfc]

def cmd : MbxCmd := { fn := 0, block := 0x1000 }

/-- A command stands in mailbox 0; context 2 is switching, 3 running and idle, 4 out; an object lies in host memory at 0. -/
def commanded (obj : List Byte) : State :=
  { tasking with
    mbx := [(0, { req := some 0x1000, done := false, ignored := 0 })], owners := [(recvKey 7 2, 5)]
    ctxs := [(1, ctx), (2, { ctx with state := .switching }), (3, ctx), (4, { ctx with state := .out })]
    ports := [(2, { Port.off with down := true })], launches := [launch]
    mem := putBytes (hostLoc 0) obj [] }

theorem witness_MailboxCommands :
    (commanded []).commanded cmd = true
      ∧ (commanded []).descRefused [1#64 <<< 48] = true ∧ (commanded []).descRefused [9] = false
      ∧ ((commanded []).ctx 2).state = .switching ∧ ((commanded []).ctx 1).state = .running ∧ (commanded []).ctxBusy 1 = true
      ∧ ((commanded []).ctx 3).state = .running ∧ (commanded []).ctxBusy 3 = false
      ∧ ((commanded []).queue 5).state ≠ .off ∧ ((commanded []).queue 9).state = .off ∧ globalWindow (0x20000 : Addr).toNat = true
      ∧ (commanded []).launchesOf 0 ≠ [] ∧ (commanded []).launchesOf 5 = []
      ∧ ((commanded []).ctx 4).state = .out ∧ ((commanded []).ctx 4).mbx = none ∧ ((commanded []).ctx 1).mbx = none
      ∧ (commanded []).pathUp = false ∧ { commanded [] with ports := fabric.ports }.pathUp = true
      ∧ ((commanded []).owner 7 2 = 5 ∧ (commanded []).owner 7 3 = 0xFFFF#16)
      ∧ ((commanded []).port 2).down = true ∧ ((commanded []).port 3).down = false
      ∧ ((commanded []).ctx 9).state = .off ∧ (commanded []).coreLive 0 = true ∧ (commanded []).coreLive 63 = false := by decide +kernel

theorem witness_MailboxCommands_load :
    objectOk ((List.range 64).map (fun i => (commanded []).mem.get 0 (hostLoc (0 + i)))) = false
      ∧ (let o := (List.range 64).map (fun i => (commanded (objHead 0)).mem.get 0 (hostLoc (0 + i)))
         objectOk o = true ∧ failOf ((commanded (objHead 0)).chooseVariant o) = some 2)
      ∧ (let s := commanded (object zeroDigest)
         let o := (List.range 168).map (fun i => s.mem.get 0 (hostLoc (0 + i)))
         objectOk o = true ∧ okOf (s.chooseVariant o) (fun p => p.code == List.replicate 8 0 && p.named == some p.digest) = true) := by decide +kernel

/-- What is placed of that object, with its own digest or another one. -/
def placed (named : List Byte) : CodeImage :=
  { code := List.replicate 8 0, segTab := [], ktab := [], digest := zeroDigest, named := some named, classOne := true }

theorem witness_MailboxCommands_place :
    failOf ((commanded []).placeCode 1 (placed []) []) = some 5 ∧ ((commanded []).placeCode 1 (placed zeroDigest) []).isOk = true :=
  ⟨rfl, rfl⟩

/-- The command waits for context 2 to leave, and for context 4 to come back with one block. -/
def switching : State :=
  { commanded [] with
    ctxs := [(2, { ctx with state := .switching, mbx := some cmd }), (4, { ctx with state := .out, mbx := some cmd })]
    blocks := [{ block with asid := 4, saved := true }] }

theorem witness_MailboxCommands_switch :
    switching.switchReady 2 = true ∧ (switching.ctx 2).mbx = some cmd ∧ switching.kept = []
      ∧ (switching.ctx 4).state = .out ∧ (switching.ctx 4).mbx = some cmd ∧ (switching.savedBlocks 4).length = 1
      ∧ (State.restoreBlocks ((switching.savedBlocks 4).zip [0]) ((switching.savedBlocks 4).zip [0]) switching).isSome = true := by decide +kernel

/-- The boot flow at a stage, after a time; heat at a number of steps. -/
def booted (stage : Nat) (minimal : Bool) (fails rollback : Nat) : State :=
  { State.reset with
    now := 600000000000, boot := { State.reset.boot with stage := stage, minimal := minimal }
    flash := { State.reset.flash with fails := fails, rollback := rollback, fwVersion := 5 }
    thermal := [(0, { Thermal.init with steps := 1 }), (1, { Thermal.init with steps := 4 })] }

theorem witness_ModuleEvents :
    { State.reset with boot := { State.reset.boot with power := false } }.boot.power = false ∧ State.reset.boot.power = true
      ∧ (∀ n < 6, ∀ m ∈ [false, true], ∀ f ∈ [0, 3], ∀ b ∈ [4, 6], (booted n m f b).booting = true ∧ (booted n m f b).boot.stage = n
          ∧ (booted n m f b).boot.minimal = m ∧ 120000000000 ≤ (booted n m f b).now)
      ∧ (booted 1 false 0 4).flash.rollback ≤ (booted 1 false 0 4).flash.fwVersion
      ∧ (booted 1 false 0 6).flash.fwVersion < (booted 1 false 0 6).flash.rollback ∧ (booted 2 true 3 4).flash.cores ≠ 0
      ∧ throttleAt 0 < 101 ∧ ((booted 0 false 0 4).heat 0).steps < maxSteps 0 ∧ maxSteps 1 ≤ ((booted 0 false 0 4).heat 1).steps
      ∧ 90 + 5 ≤ throttleAt 0 ∧ 0 < ((booted 0 false 0 4).heat 0).steps ∧ (booted 0 false 0 4).wearFlushed + 600000000000 ≤ (booted 0 false 0 4).now
      ∧ wearOf 0 = some 0
      ∧ (booted 0 false 0 4).refillable { unit := 6, die := 0, core := 0, loc := 0, corrected := false } = true
      ∧ (booted 0 false 0 4).refillable { unit := 1, die := 0, core := 0, loc := 0, corrected := false } = false := by decide +kernel

theorem witness_DecodeEncode :
    (Instr.wf [] (.iadd (fa .s32)) = true ∧ (encode (.iadd (fa .s32))).isSome = true)
      ∧ (decodeWord [0x12345#64] 0x01C0005060700186#64).isOk = true := by decide

/-- The group runs a clause of an addition, a word that fails a check, and no more. -/
def stepping (wix : Nat) : State :=
  { unit with g := { group with run := some { oneWord ((encode (.iadd (fa .s32))).getD 0) with wix := wix, words := [(encode (.iadd (fa .s32))).getD 0, 0x01C0005060700186#64] } } }

theorem witness_StepRunsDecoded :
    (∀ wix < 3, (stepping wix).aheadDue = none ∧ (stepping wix).agenda = [] ∧ (stepping wix).alive = true ∧ (stepping wix).runnable (stepping wix).g = true
        ∧ ∀ r ∈ (stepping wix).g.run, (wix = 0 → (r.words[r.wix]?.bind (fun w => (decodeWord r.lits w).toOption)) = some (.iadd (fa .s32)))
          ∧ (wix = 1 → (r.words[r.wix]?.bind (fun w => failOf (decodeWord r.lits w))) = some 4) ∧ (wix = 2 → r.words[r.wix]? = none))
      ∧ ((stepped missing2).bind (fun t => t.aheadDue)).isSome = true
      ∧ unit.aheadDue = none ∧ State.reset.aheadDue = none
      ∧ { unit with agenda := [.event .timerWake] }.agenda = .event .timerWake :: []
      ∧ Instr.timerWake.isWord = false ∧ (Instr.iadd (fa .s32)).isWord = true
      ∧ { State.reset with boot := { State.reset.boot with power := false } }.agenda = [] := by decide +kernel

theorem witness_MemoryInvariant : unit.MemInv ∧ ∃ t, step unit = .next t := ⟨rfl, _, rfl⟩

/-- A training result for the one channel group, valid now. -/
def channelResult : Training :=
  { unit := .channels 0, data := [], sha := sha256 [], package := 0, module := 0, format := 0, temp := 25 }

/-- Stage 3 with one channel group to train, and the flash copy that is there. -/
def training (copy : TrainCopy) : State :=
  { booted 3 false 0 4 with flash := { State.reset.flash with channelGroups := 1, copyA := copy } }

theorem witness_ModuleEvents_training :
    (let none' := training { seq := none, results := [] }
     none'.booting = true ∧ none'.boot.stage = 3 ∧ none'.trainUnits.all (fun u => (none'.storedResult u).isSome) = false)
      ∧ (let known := training { seq := some 4, results := [channelResult] }
         known.booting = true ∧ known.boot.stage = 3 ∧ known.trainUnits = [.channels 0]
          ∧ known.trainUnits.all (fun u => (known.storedResult u).isSome) = true)
      ∧ { booted 4 false 0 4 with boot := { (booted 4 false 0 4).boot with training := some (5, true) } }.boot.training = some (5, true)
      ∧ (2700 : Nat) < 2701 := by decide +kernel

theorem witness_MailboxCommands_ending :
    (let s := { commanded [] with ctxs := [(2, { ctx with state := .ending })] }
     s.commanded cmd = true ∧ (s.ctx 2).state = .ending)
      ∧ ((commanded []).queue 5).asid = 1 ∧ ((commanded []).queue 5).state ≠ .off ∧ ((commanded []).queue 5).state ≠ .paused
      ∧ (commanded []).g.gid ≠ 0 ∧ (commanded []).g.asid = 1 ∧ (commanded []).flash.fences.length < 64 := by decide +kernel

/-! ### One step of the other words -/

def regAfter (i : Instr) (s : State) {α : Type} (f : State → α) : Option α := (after i s).map f

/-- R126, R127 and R129: a branch is relative to its clause, a call links the next clause, and a misaligned register
target is the control trap with its lane. -/
theorem test_control_words :
    regAfter (.bra { fj with off := -1 }) unit (fun t => (t.g.lane 0).pc) = some 0x1F8
      ∧ regAfter (.call { fj with off := 2 }) unit (fun t => ((t.g.lane 0).pc, (t.g.lane 0).vr 31)) = some (0x210, 0x218)
      ∧ regAfter (.exit fe) unit (fun t => (t.g.lane 0).isLive) = some false
      ∧ regAfter (.brx { fe with a := 1 }) unit (fun t => (t.g.trap.map (fun r => (r.cause, r.lane)))) = some (some (0x04, 0)) := by decide

/-- R144, R149 and R153: little-endian stores, what a load gives back, and an atomic's old value. -/
theorem test_memory_words :
    regAfter (.st { fv with dst := 0, b := 1 }) reaching (fun t => (t.mem.get 0 0x10000, t.mem.get 0 0x10080)) = some (7, 9)
      ∧ ((after (.st { fv with dst := 0, b := 1 }) reaching).bind (fun t => vAfter (.ld { fv with b := 0, dst := 11 }) t 1 11)) = some 9
      ∧ vAfter (.atom { fv with ty := .n32 }) alone 0 10 = some 0
      ∧ regAfter (.atom { fv with ty := .n32 }) alone (fun t => t.mem.get 0 0x10000) = some 7
      ∧ regAfter (.ld { fv with ord := .plain }) beyond (fun t => t.g.trap.map (fun r => (r.cause, r.detail, r.lane))) = some (some (0x09, 4096, 0)) := by
  decide

/-- R257 and R374: TRAP enters the handler at TRAP_PC with cause 0x2B and its immediate; BKPT has cause 0x2C. -/
theorem test_traps :
    regAfter (.trap { fe with imm := 77 }) unit (fun t => (t.g.trap.map (fun r => (r.cause, r.detail, r.pc)), (t.g.lane 0).pc))
        = some (some (0x2B, 77, 0x200), 0x800)
      ∧ regAfter (.bkpt fe) unit (fun t => t.g.trap.map (fun r => r.cause)) = some (some 0x2C)
      ∧ regAfter (.tret fe) unit (fun t => (t.ctx 1).frames.map (fun f => f.cause)) = some [0x2D] := by decide +kernel

/-- R166 to R173: two arrivals are outstanding, one is left after an arrival of one; a queue's head entry is popped. -/
theorem test_barriers_and_queues :
    wAfter (.tbphase { fe with a := 6, dst := 5 }) synced 5 = some 0x20
      ∧ (let s := { synced with g := { synced.g with w := synced.g.w.put 0 3 1 } }
         wAfter (.tbarv { fe with a := 6, b := 3, dst := 5 }) s 5 = some 0
           ∧ ((after (.tbarv { fe with a := 6, b := 3, dst := 5 }) s).bind (fun t => wAfter (.tbphase { fe with a := 6, dst := 5 }) t 5)) = some 0x10)
      ∧ vAfter (.qtryPop { fe with dst := 12 }) synced 0 12 = some 9
      ∧ ((after (.qtryPop { fe with dst := 12 }) synced).bind (fun t => vAfter (.qtryPop { fe with dst := 12 }) t 0 12)) = some 0xFFFFFFFF
      ∧ wAfter (.qstat { fe with dst := 5 }) synced 5 = some 1 ∧ wAfter (.qstat { fe with dst := 5, mod := 1 }) synced 5 = some 3 := by decide +kernel

/-- R193, R200 and R205. -/
theorem test_tiles :
    regAfter (.aclr fe) { tiled with acc := [(5, 9)] } (fun t => t.entry 0 0 5) = some 0
      ∧ vAfter (.aredr { fe with dst := 10, imm := 1 }) { tiled with acc := [(32, 9), (33, 5)] } 1 10 = some 14
      ∧ regAfter (.kset { fe with dst := 2, imm := 1 }) tiled (fun t => t.g.k) = some 7
      ∧ regAfter (.knot { fe with dst := 0, a := 1 }) tiled (fun t => t.g.k) = some 2
      ∧ regAfter (.aclr { fe with dst := 5 }) tiled (fun t => t.g.trap.map (fun r => (r.cause, r.detail))) = some (some (0x10, 5)) := by decide +kernel

/-- R215, R224, R231: a template enters its engine, a channel's counter answers, a slot above 63 is the slot trap. -/
theorem test_engines :
    regAfter (.xtmpl { fe with a := 16, b := 1, dst := 5 }) copying (fun t => t.engOps.map (fun o => o.kind)) = some [.tmpl 11]
      ∧ wAfter (.mred { fe with a := 1, dst := 5, imm := 3 }) meshed 5 = some 0
      ∧ regAfter (.xslot { fe with a := 27 }) flagging (fun t => t.g.slotSel) = some 63
      ∧ regAfter (.xslot { fe with a := 28 }) flagging (fun t => t.g.trap.map (fun r => r.cause)) = some (some 0x20) := by decide +kernel

/-- R242: HTINS answers 2 for a free slot, 1 for a key in a slot, 257 for a key in a chain; HTDEL answers 3, 0 and 256. -/
theorem test_hash_words :
    vAfter (.htins fh) (hashed emptyBucket) 0 12 = some 2 ∧ vAfter (.htins fh) (hashed oneSlot) 0 12 = some 1
      ∧ vAfter (.htins fh) (hashed oneChained) 0 12 = some 257 ∧ vAfter (.htdel fh) (hashed emptyBucket) 0 12 = some 3
      ∧ vAfter (.htdel fh) (hashed oneSlot) 0 12 = some 0 ∧ vAfter (.htdel fh) (hashed oneChained) 0 12 = some 256
      ∧ wAfter (.htclaim { fe with a := 16, b := 20, c := 22, dst := 5, imm := 1 }) unclaimed 5 = some 0 := by decide +kernel

/-- R250, R252, R253 and R256. -/
theorem test_system_words :
    wAfter (.tkrsv { fe with a := 1, dst := 5 }) tasking 5 = some 0xC002
      ∧ regAfter (.tksig { fe with a := 17, b := 24 }) tasking (fun t => ((t.queue 3).slot 1).dep) = some 3
      ∧ wAfter (.launch { fe with a := 3, b := 20, dst := 5 }) tasking 5 = some 0
      ∧ wAfter (.launch { fe with a := 4, b := 20, dst := 5 }) tasking 5 = some 0x40000000
      ∧ vAfter (.sread { fe with imm := 0x002, dst := 10 }) unit 1 10 = some 1
      ∧ regAfter (.swrite { fe with imm := 0x003, a := 9 }) unit (fun t => (t.g.lane 0).rng) = some 0x6D2B79F5
      ∧ regAfter (.tstamp { fe with dst := 20 }) unit (fun t => t.g.wrN 20 2) = some 1000 := by decide +kernel

/-! ### One step of the device -/

/-- R335, R358 and R363: a doorbell moves TAIL; a flag with its count complete stores its value; FAB_CTL keeps its bounds. -/
theorem test_host_and_fabric :
    regAfter (.doorbellWrite 5 2) hosting (fun t => (t.queue 5).tail) = some 2
      ∧ regAfter (.doorbellWrite 5 65) hosting (fun t => ((t.queue 5).state, (t.queue 5).tail)) = some (.stopped, 1)
      ∧ regAfter (.flagArrive (packet .flag 2 0x10000 0)) fabric (fun t => (t.mem.get 0 0x10000, (t.recv 7 2).lastDone)) = some (9, 0)
      ∧ regAfter (.countedPacketArrive (packet .write 2 0x10000 0)) fabric (fun t => (t.mem.get 0 0x10001, ((t.recv 7 2).counter 0).count)) = some (2, 1)
      ∧ regAfter (.fabCtlWrite 0xFFFF) unit (fun t => t.fabCtl) = some 0x0000000A00C80014 := by decide +kernel

/-- R176, R259, R271, R338 and R369. -/
theorem test_device_events :
    regAfter (.matrixOpComplete 21) busy (fun t => t.g.tilePend) = some []
      ∧ regAfter (.ecallReply 22 5) busy (fun t => (t.g.wr 5, t.g.pend)) = some (5, [])
      ∧ regAfter .clauseStart starting (fun t => t.g.run.map (fun r => (r.pc, r.next))) = some (some (0x200, 0x210))
      ∧ regAfter (.blockStart (2 ^ 32) [64]) fresh (fun t => (t.groups.filter (fun g => g.core == 64)).map (fun g => ((g.lane 31).pc, (g.lane 31).threadId)))
          = some [(0x200, 31)]
      ∧ regAfter (.binDrain 62 64) recording (fun t => (t.groups.filter (fun g => g.core == 64)).map (fun g => (g.lane 1).vr 1)) = some [9]
      ∧ regAfter (.setTimeMaster cmd 3) (commanded []) (fun t => (t.timeMaster, (t.mailbox 0).done)) = some (some 3, true)
      ∧ regAfter (.thermalThrottle 0 101) (booted 0 false 0 4) (fun t => (t.heat 0).steps) = some 2 := by decide +kernel

/-! ### The litmus examples of the memory model (R286 to R307)

Locations: X is 0, Y is 1. Each example is a list of events with the values its outcome gives; orders of writes and of SO
accesses that the outcome leaves open are all tried. -/

section Litmus
open Sys2Proof.Machine.Consistency

/-- A thread on a core of its own, as an actor: its number, and the number of its die, gang and block. -/
def lane1 (party die gang block : Nat) : Actor :=
  { party := party
    place := { endpoint := 0, die := die, gang := some gang, block := some block, group := some block, quad := some block } }

def accessOf (a : Actor) (kind : EvKind) (page : PageKind) (loc : Nat) (ret : Option Nat) : Ev :=
  { actors := [a], kind := kind, page := page, loc := loc, scratch := false, home := 0, homeDie := 0, replicated := false, ord := .plain
    scope := .none, acc := 0, op := 0, span := none, flag := none, table := none, ret := ret }

def fenceOf (a : Actor) (k : FenceKind) (s : Scope) : Ev := { accessOf a (.fence k) .rc 99 none with scope := s }
def syncOf (a : Actor) (row : SyncRow) (release : Bool) (key : Nat) (s : Scope) : Ev :=
  { accessOf a (.sync row release key) .rc 99 none with scope := s }

/-- An outcome of n threads: events, and the orders it was made with. -/
def outcome (n : Nat) (es : List Ev) (co so fences : List Nat) : Execution :=
  { parties := List.replicate n { host := false, engine := none }, events := es, co := co, so := so, fences := fences
    sent := [], steps := [], engineOrder := [], deps := [] }

/-- Two lanes on two cores of one gang, in different blocks. -/
def p0 : Actor := lane1 0 0 7 1
def p1 : Actor := lane1 1 0 7 2

/-- Example 1: message passing; v1 = 1, v2 = 0. -/
def passing1 (ord : Ord) (s s' : Scope) : Execution :=
  outcome 2
    [accessOf p0 .write .rc 0 none, { accessOf p0 .write .rc 1 none with ord := ord, scope := s }
      , { accessOf p1 .read .rc 1 (some 1) with ord := .acquire, scope := s' }, accessOf p1 .read .rc 0 none] [0, 1] [] []

theorem test_litmus_message_passing :
    (passing1 .release .package .package).allowed = false ∧ (passing1 .release .gang .gang).allowed = false
      ∧ (passing1 .release .block .gang).allowed = true ∧ (passing1 .plain .none .package).allowed = true := by decide +kernel

/-- Example 2: store buffering; v1 = v2 = 0. -/
def buffering (page : PageKind) (fence : Option FenceKind) (so fences : List Nat) : Execution :=
  let mid (a : Actor) : Ev := match fence with
    | some k => fenceOf a k .package
    | none => syncOf a .task false 0 .none
  outcome 2
    [accessOf p0 .write page 0 none, mid p0, accessOf p0 .read page 1 none
      , accessOf p1 .write page 1 none, mid p1, accessOf p1 .read page 0 none] [0, 3] so fences

/-- The places at which an element can stand, and the orders of a list. -/
def insertions (x : Nat) : List Nat → List (List Nat)
  | [] => [[x]]
  | y :: l => (x :: y :: l) :: (insertions x l).map (y :: ·)
def orderings : List Nat → List (List Nat)
  | [] => [[]]
  | x :: l => (orderings l).flatMap (insertions x)

theorem test_litmus_store_buffering :
    (orderings [0, 2, 3, 5]).all (fun so => !(buffering .so none so []).allowed) = true
      ∧ (buffering .rc none [] []).allowed = true ∧ (buffering .rc (some .acqrel) [] []).allowed = true
      ∧ (buffering .rc (some .all) [] [1, 4]).allowed = false ∧ (buffering .rc (some .all) [] [4, 1]).allowed = false := by
  decide +kernel

/-- Example 3: unordered data; v1 = 1, v2 = 0. -/
def unordered (fences : Bool) (order : List Nat) : Execution :=
  let mid (a : Actor) : Ev := if fences then fenceOf a .all .package else syncOf a .task false 0 .none
  outcome 2
    [accessOf p0 .write .uo 0 none, mid p0, { accessOf p0 .write .rc 1 none with ord := .release, scope := .package }
      , { accessOf p1 .read .rc 1 (some 2) with ord := .acquire, scope := .package }, mid p1, accessOf p1 .read .uo 0 none] [0, 2] [] order

theorem test_litmus_unordered_data :
    (unordered false []).allowed = true ∧ (unordered true [1, 4]).allowed = false ∧ (unordered true [4, 1]).allowed = false := by
  decide +kernel

/-- Example 4: independent reads of independent writes. -/
def independent (page : PageKind) (replicated : Bool) (co so : List Nat) : Execution :=
  let e (p : Nat) (k : EvKind) (loc : Nat) (ret : Option Nat) (acq : Bool) : Ev :=
    { accessOf (lane1 p p (p + 1) (p + 1)) k page loc ret with
      replicated := replicated, ord := if acq then .acquire else .plain, scope := if acq then .block else .none }
  let acq := page == .rc
  outcome 4
    [e 0 .write 0 none false, e 1 .write 1 none false, e 2 .read 0 (some 0) acq, e 2 .read 1 none false, e 3 .read 1 (some 1) acq
      , e 3 .read 0 none false] co so []

theorem test_litmus_independent_reads :
    (independent .rc true [0, 1] []).allowed = false ∧ (independent .rc true [1, 0] []).allowed = false
      ∧ (independent .rc false [0, 1] []).allowed = true
      ∧ (independent .so false [0, 1] [0, 2, 3, 1, 4, 5]).allowed = false ∧ (independent .so false [0, 1] [1, 4, 5, 0, 2, 3]).allowed = false := by decide +kernel

/-- Example 5: an engine copy (party 0, its write of a byte of S at 0) that completes to a barrier; H (1) waits for it and
sets F, K (2) on another core of the gang reads F and S, J (3) reads S at no order. -/
def copied (s : Scope) (v1 v3 v4 : Option Nat) : Execution :=
  let engine : Actor := { lane1 0 0 7 1 with place := { (lane1 0 0 7 1).place with quad := none } }
  let h := lane1 1 0 7 1
  let k := lane1 2 0 7 2
  let j : Actor := { party := 3, place := { h.place with group := some 3, quad := some 3 } }
  let x := outcome 4
    [accessOf engine .write .rc 0 none, syncOf engine .barrier true 5 .block, syncOf h .barrier false 5 .block, accessOf h .read .rc 0 v1
      , { accessOf h .write .rc 1 none with ord := .release, scope := s }
      , { accessOf k .read .rc 1 (some 4) with ord := .acquire, scope := .gang }, accessOf k .read .rc 0 v3, accessOf j .read .rc 0 v4]
    [0, 4] [] []
  { x with parties := x.parties.set 0 { host := false, engine := some 1 }, engineOrder := [(0, 1)] }

theorem test_litmus_engine_copy :
    (copied .gang none (some 0) (some 0)).allowed = false ∧ (copied .gang (some 0) none (some 0)).allowed = false
      ∧ (copied .block (some 0) none (some 0)).allowed = true ∧ (copied .gang (some 0) (some 0) none).allowed = true := by decide +kernel

/-- Example 6: remote stores of endpoint 3 into endpoint 9, by a fence, and by XFLAG with the delivery (made by endpoint 9's
receiver, party 2) and the resume that waits for it. -/
def remoteStores (flag : Bool) : Execution :=
  let a (party ep : Nat) : Actor := { lane1 party 0 ep ep with place := { (lane1 party 0 ep ep).place with endpoint := ep } }
  let far (loc : Nat) : Ev := { accessOf (a 0 3) .write .rc loc none with home := 9, span := some 6 }
  let near (loc : Nat) (ret : Option Nat) : Ev := { accessOf (a 1 9) .read .rc loc ret with home := 9 }
  if flag then
    { outcome 3 [far 0, syncOf (a 0 3) .span true 6 .domain, syncOf (a 2 9) .span false 6 .domain, syncOf (a 2 9) .delivered true 6 .domain
        , syncOf (a 1 9) .delivered false 6 .domain, near 0 none] [0] [] [] with sent := [0] }
  else
    { outcome 2 [far 0, fenceOf (a 0 3) .rel .domain, far 1, { near 1 (some 2) with ord := .acquire, scope := .domain }, near 0 none]
        [0, 2] [] [] with sent := [0, 2] }

theorem test_litmus_remote_stores :
    (remoteStores false).allowed = true ∧ (remoteStores true).allowed = false := by decide +kernel

/-- Example 9: a store, the end of the segment, and the load after the resume at another endpoint. -/
def moved (ret : Option Nat) : Execution :=
  let there : Actor := { p0 with place := { p0.place with endpoint := 4, group := some 9, quad := some 9 } }
  outcome 1 [accessOf p0 .write .rc 0 none, syncOf p0 .segment true 8 .domain, syncOf there .segment false 8 .domain
    , accessOf there .read .rc 0 ret] [0] [] []

theorem test_litmus_moved_thread : (moved none).allowed = false ∧ (moved (some 0)).allowed = true := by decide +kernel

/-- Two lanes that pass a message, a write of two bytes, a fence, a remote write, a key step and a pair of synchronisation
events, one after another. -/
theorem witness_SequentialAllowed :
    { outcome 2
        [{ accessOf p0 .write .rc 0 none with acc := 1 }, { accessOf p0 .write .rc 5 none with acc := 1 }, fenceOf p0 .all .package
          , { accessOf p0 .rmw .so 1 none with ord := .release, scope := .package }, syncOf p0 .task true 3 .package
          , { accessOf p1 .read .so 1 (some 3) with ord := .acquire, scope := .package }, syncOf p1 .task false 3 .package
          , { accessOf p1 .read .rc 0 (some 0) with acc := 2 }, { accessOf p1 .read .rc 5 (some 1) with acc := 2 }
          , { accessOf p1 .write .rc 6 none with home := 9 }, { accessOf p1 .rmw .rc 7 none with table := some 0, scratch := true }]
        [0, 1, 3, 9, 10] [3, 5] [2] with sent := [9], steps := [10] }.sequential = true := by decide +kernel

end Litmus

/-! ### The assembler -/

/-- The code words of a source of one variant. -/
def assembled (src : String) : Option (List W64) :=
  match Zas.assemble src.toList with
  | .ok { variants := [v], .. } => some v.code
  | _ => none

/-- The error of a source. -/
def zasError (src : String) : Option Zas.Error :=
  match Zas.assemble src.toList with
  | .ok _ => none
  | .error (_, e) => some e

-- the clause worked to the bit in chapter 2, after R64
theorem test_zas_clause : assembled
    ".kernel k\nloop: iadd.s32 v4, v4, 1\n imad.s32 v5, v6, v7, 0x1_2345\n (!p2) bra loop ; again\n.end" =
    some [0xCE00000000000403, 0x0040004040100190, 0x01C0005060700186, 0x2C41A00000000000, 0x12345] := by decide +kernel

-- the divergent branch of chapter 4, its first clause and the header of its last
theorem test_zas_meet : (assembled (".kernel k\n meet join\n icmp.lt.s32 p1, v2, 0\n (p1) bra neg\n iadd.s32 v3, v3, 1\n bra join\n"
      ++ "neg: ineg.s32 v2, v2\njoin: gred.add.s32 v4, v2\n exit\n.end")).map (fun ws => (ws.take 4, ws[9]?)) =
    some ([0xCE00000000000002, 0x2DC0000000000009, 0x2008001020000190, 0x2C41100000000007], some 0xCE00000000000301) := by
  decide +kernel

-- R73: a target that is no label, a label twice, suffixes out of order, an immediate out of range, an odd pair, the floor
theorem test_zas_errors : [".kernel k\n bra x\n.end", ".kernel k\nx: nop\nx: nop\n.end", ".kernel k\n fadd.sat.rz.f32 v0, v1, v2\n.end",
      ".kernel k\n iadd.n32 v0, v1, -1\n.end", ".kernel k\n iadd.s64 v1, v2, v4\n.end", ".kernel k\n.regs 136\n nop\n.end",
      ".kernel k\n.handler yield, x\nx: nop\n.end", ".kernel k\n frob v1\n.end"].map zasError =
    [Zas.Error.target, .duplicate, .suffix, .immediate, .register, .floor, .yieldOutside, .unknown].map some := by decide +kernel

-- R66, R68: a range as long as its source's type; no floating constant for an integer type; a 32-bit lane number
theorem test_zas_operands : [".kernel k\n icvt.s32.s64 v1, v2..3\n.end", ".kernel k\n iadd.s32 v1, v2, 1.0\n.end"
      , ".kernel k\n gshfl.idx.n64 v2..3, v4..5, 0x1_0000_0000\n.end"].map zasError =
    [none, some .immediate, some .immediate] := by decide +kernel

end Sys2Proof.Tests
end

section
/-! Every step keeps memory in its canonical form (`State.MemInv`), and the machine after power-on.

One rule for each operation of the model that returns a state, named after the operation: `h.park` is the canonical form
of `s.park …` from that of `s`. Two idioms keep the kernel from evaluating what a body branches on. A body is opened as a
function, by `rw [show @f = _ from by delta f; rfl]`, where `unfold` would compare the two sides as values. A callee is held
as a variable, by `obtain ⟨g, e⟩ : ∃ g, f = g`, where a tactic brings a `match` on its answer into another form. -/

namespace Sys2Proof.Machine

variable {s : State}

/-- An update of other fields keeps the canonical form. -/
theorem State.MemInv.update {x : State}
    {g others now clocks poison acc accPoison hier seqLog seqNum records departed accepted blocks launches queues ctxs
    batches engOps apStarts apStores matOps maintOps flagOps ecalls toks kept channels sends wcb sendLog slogDrop
    recvs owners ranges protLog remotes barWaits ports pathHold pathWait lineLast cxlDown endpoint timeMaster
    lastBeacon beaconSince slewed synced fabCtl parts reserved tlbiLo tlbiHi tlbiLen tlbiCtl migrate errs devFaults
    devRead devRegs mbx thermal wear wearFlushed boot flash ident gidNext engNext serial ridNext batchNext out agenda
    freeCtr}
    (h : x.MemInv) :
    State.MemInv ⟨g, others, now, clocks, x.mem, poison, acc, accPoison, hier, seqLog, seqNum, records, departed,
      accepted, blocks, launches, queues, ctxs, batches, engOps, apStarts, apStores, matOps, maintOps, flagOps,
      ecalls, toks, kept, channels, sends, wcb, sendLog, slogDrop, recvs, owners, ranges, protLog, remotes,
      barWaits, ports, pathHold, pathWait, lineLast, cxlDown, endpoint, timeMaster, lastBeacon, beaconSince, slewed,
      synced, fabCtl, parts, reserved, tlbiLo, tlbiHi, tlbiLen, tlbiCtl, migrate, errs, devFaults, devRead, devRegs,
      mbx, thermal, wear, wearFlushed, boot, flash, ident, gidNext, engNext, serial, ridNext, batchNext, out,
      agenda, freeCtr⟩ := h

/-- A fold keeps the canonical form where each of its steps does. -/
theorem State.MemInv.foldl {α : Type} {f : State → α → State} {l : List α} (h : s.MemInv)
    (hf : ∀ (t : State) (x : α), t.MemInv → (f t x).MemInv) : (l.foldl f s).MemInv :=
  List.foldlRecOn l f h fun t ht x _ => hf t x ht

/-- A fold that hands on a rest of its input keeps the canonical form where each of its steps does. -/
theorem State.MemInv.foldl_fst {α β : Type} {f : State × β → α → State × β} {l : List α} {b : β} (h : s.MemInv)
    (hf : ∀ (t : State × β) (x : α), t.1.MemInv → (f t x).1.MemInv) : (l.foldl f (s, b)).1.MemInv :=
  List.foldlRecOn (motive := fun t => t.1.MemInv) l f h fun t ht x _ => hf t x ht

/-- The same for a fold that carries an answer before the state. -/
theorem State.MemInv.foldl_snd {α β : Type} {f : β × State → α → β × State} {l : List α} {b : β} (h : s.MemInv)
    (hf : ∀ b (t : State) x, t.MemInv → (f (b, t) x).2.MemInv) : (l.foldl f (b, s)).2.MemInv :=
  l.foldlRecOn (motive := fun x => x.2.MemInv) f h fun x hx y _ => hf x.1 x.2 y hx

theorem State.MemInv.flits {d} (h : s.MemInv) : (s.flits d).MemInv := (flits_fabric s d).memInv h

theorem State.MemInv.seen {asid va} (h : s.MemInv) : (s.seen asid va).MemInv := by
  unfold State.seen
  split
  · split
    · exact h
    · exact walked_wf _ _ _ _ _ _ _ h
  · exact h

theorem State.MemInv.seenRuns {asid rs} (h : s.MemInv) : (s.seenRuns asid rs).MemInv := by
  refine h.foldl fun t r ht => ?_
  split
  · exact ht
  · exact ht.seen

theorem State.MemInv.sequenced {asid tids loc bs} (h : s.MemInv) : (s.sequenced asid tids loc bs).MemInv := poke_wf s loc bs h

theorem State.MemInv.outsideWrite {loc bs} (h : s.MemInv) : (s.outsideWrite loc bs).MemInv := by
  unfold State.outsideWrite
  split
  · exact h.sequenced
  · exact poke_wf _ _ _ h

theorem State.MemInv.devicePoke {asid va bs} (h : s.MemInv) : (s.devicePoke asid va bs).MemInv := by
  unfold State.devicePoke
  split
  · split
    · exact h
    · extract_lets p s1 s2
      have h2 : s2.MemInv := by
        unfold s2
        split
        · exact h.seen
        · exact dirtied_wf _ _ h.seen
      split
      · exact writeLocal_wf _ _ _ _ _ _ _ h2
      · exact poke_wf _ _ _ h2
  · exact h

theorem State.MemInv.vPoke {asid va bs} (h : s.MemInv) : (s.vPoke asid va bs).MemInv :=
  h.foldl_fst fun _ _ ht => ht.devicePoke

theorem State.MemInv.trace {die core asid kind d2 d3} (h : s.MemInv) : (s.trace die core asid kind d2 d3).MemInv := by
  unfold State.trace
  extract_lets size
  split
  · exact h
  · exact poke_wf _ _ _ h

theorem State.MemInv.traceAfter {stamp die core asid kind d2 d3} (h : s.MemInv) :
    (s.traceAfter stamp die core asid kind d2 d3).MemInv := by
  unfold State.traceAfter
  split
  · exact h.trace
  · exact State.MemInv.trace (s := { s with now := _ }) h

theorem State.MemInv.ctxFault {f} (h : s.MemInv) : (s.ctxFault f).MemInv := by
  unfold State.ctxFault
  extract_lets c base w r s1 s2 d s3 s4
  have h1 : s1.MemInv := h
  have h2 : s2.MemInv := h1.trace
  have h4 : s4.MemInv := h2.vPoke.vPoke
  split
  · exact h2.vPoke
  · split
    · exact h4
    · exact h4

theorem State.MemInv.impreciseGroup {code detail addr} (h : s.MemInv) : (s.impreciseGroup code detail addr).MemInv := h.ctxFault

theorem State.MemInv.imprecise {asid code detail addr} (h : s.MemInv) : (s.imprecise asid code detail addr).MemInv := h.ctxFault

theorem State.MemInv.sendCounted {core p} (h : s.MemInv) : (s.sendCounted core p).MemInv := (sendCounted_fabric s core p).memInv h

theorem State.MemInv.drainWcb {p} (h : s.MemInv) : (s.drainWcb p).MemInv := (drainWcb_fabric s p).memInv h

/-! Records, tokens, batches -/

theorem State.MemInv.emit {o} (h : s.MemInv) : (s.emit o).MemInv := h
theorem State.MemInv.setCtx {a c} (h : s.MemInv) : (s.setCtx a c).MemInv := h
theorem State.MemInv.setQueue {q x} (h : s.MemInv) : (s.setQueue q x).MemInv := h
theorem State.MemInv.settle (h : s.MemInv) : s.settle.MemInv := h
theorem State.MemInv.mapGroups {f} (h : s.MemInv) : (s.mapGroups f).MemInv := h
theorem State.MemInv.mapRecs {f} (h : s.MemInv) : (s.mapRecs f).MemInv := h
theorem State.MemInv.addVt {a n} (h : s.MemInv) : (s.addVt a n).MemInv := h
theorem State.MemInv.dropCtx {a} (h : s.MemInv) : (s.dropCtx a).MemInv := h
theorem State.MemInv.carryAsks {q rid} (h : s.MemInv) : (s.carryAsks q rid).MemInv := h
theorem State.MemInv.takeAsks {gid l} (h : s.MemInv) : (s.takeAsks gid l).MemInv := h
theorem State.MemInv.progress {a} (h : s.MemInv) : (s.progress a).MemInv := h
theorem State.MemInv.retire (h : s.MemInv) : s.retire.MemInv := h
theorem State.MemInv.advance (h : s.MemInv) : s.advance.MemInv := h
theorem State.MemInv.endTransfer (h : s.MemInv) : s.endTransfer.MemInv := h
theorem State.MemInv.stallOn {k} (h : s.MemInv) : (s.stallOn k).MemInv := h
theorem State.MemInv.enterHandler {t pc wix} (h : s.MemInv) : (s.enterHandler t pc wix).MemInv := h
theorem State.MemInv.openBatch {a p g} (h : s.MemInv) : (s.openBatch a p g).2.MemInv := h

theorem State.MemInv.tell {p val} (h : s.MemInv) : (s.tell p val).MemInv :=
  State.MemInv.foldl (s := { s with departed := _ }) h fun _ _ ht => ht

theorem State.MemInv.wake {p val} (h : s.MemInv) : (s.wake p val).MemInv := h.mapRecs.tell.settle

theorem State.MemInv.completeToken {serial v} (h : s.MemInv) : (s.completeToken serial v).MemInv := by
  unfold State.completeToken
  split
  · exact h
  · extract_lets onG onT onR s1
    exact .settle (.tell (.update (.mapRecs (.mapGroups h))))

theorem State.MemInv.reportInvalid {asid id pages} (h : s.MemInv) : (s.reportInvalid asid id pages).MemInv := by
  unfold State.reportInvalid
  extract_lets inv pg
  split
  · exact h
  · exact h.imprecise

theorem State.MemInv.newBatch {asid pages} (h : s.MemInv) : (s.newBatch asid pages).2.MemInv :=
  h.openBatch.reportInvalid

theorem State.MemInv.wantPages {asid pages} (h : s.MemInv) : (s.wantPages asid pages).MemInv := by
  unfold State.wantPages
  split
  · exact h
  · exact h.newBatch

/-! Queues, launches and blocks -/

theorem State.MemInv.queueTurn {q} (h : s.MemInv) : (s.queueTurn q).MemInv := by
  unfold State.queueTurn
  extract_lets x ls next
  split
  · exact h
  · exact h

theorem State.MemInv.settleQueue {q} (h : s.MemInv) : (s.settleQueue q).MemInv := h.queueTurn.queueTurn.queueTurn

theorem State.MemInv.ctxStore {asid va bs} (h : s.MemInv) : (s.ctxStore asid va bs).2.MemInv := by
  unfold State.ctxStore
  split
  · rename_i e lvl addr _
    split
    · extract_lets s1 s2
      have h2 : s2.MemInv := by
        unfold s2
        split
        · exact h.seen
        · exact dirtied_wf _ _ h.seen
      exact ((wcbStore_fabric s2 _ _ _ _ _ _).memInv h2).drainWcb
    · exact h.vPoke
  · exact h.imprecise
  · split
    · exact h
    · exact h.wantPages

theorem State.MemInv.complete {l} (h : s.MemInv) : (s.complete l).MemInv := by
  rw [show @State.complete = _ from by delta State.complete; rfl]
  split
  rename_i ok s1 e
  have h1 : s1.MemInv := by
    split at e
    · cases e; exact h
    · split at e
      · cases e; exact h
      · rw [← show _ = s1 from congrArg Prod.snd e]
        exact h.drainWcb.ctxStore
  extract_lets mine s2
  split
  · have h2 : s2.MemInv := h1.trace
    exact .settleQueue (.update h2)
  · exact .update h1

theorem State.MemInv.reply {c status detail} (h : s.MemInv) : (s.reply c status detail).MemInv := by
  unfold State.reply
  extract_lets s1
  have h1 : s1.MemInv := poke_wf s _ _ h
  exact .emit (.update h1)

theorem State.MemInv.endOver {asid} (h : s.MemInv) : (s.endOver asid).MemInv := by
  unfold State.endOver
  split
  · split
    · exact h
    · exact h.dropCtx.reply
  · exact h

theorem State.MemInv.completeWaiting {asid} (h : s.MemInv) : (s.completeWaiting asid).MemInv :=
  (h.foldl fun _ _ ht => ht.complete).endOver

theorem State.MemInv.releaseTables {b} (h : s.MemInv) : (s.releaseTables b).MemInv := by
  refine h.foldl fun t x ht => ?_
  split
  · exact poke_wf _ _ _ ht
  · exact ht

theorem State.MemInv.endBlocks {asid launch} (h : s.MemInv) : (s.endBlocks asid launch).MemInv := by
  unfold State.endBlocks
  extract_lets done s0 s1
  have h1 : s1.MemInv := h.foldl (f := State.releaseTables) fun _ _ ht => ht.releaseTables
  split
  · exact h
  · split
    · split
      · exact h1.complete
      · exact h1
    · exact h1

theorem State.MemInv.telemetry {core asid pc parks fwd busy idle} (h : s.MemInv) :
    (s.telemetry core asid pc parks fwd busy idle).MemInv := by
  unfold State.telemetry
  extract_lets c
  split
  · exact h
  · split
    · exact h
    · exact h.vPoke

theorem State.MemInv.leave {pc} (h : s.MemInv) : (s.leave pc).MemInv := by
  unfold State.leave
  split
  · exact .endBlocks (.telemetry (.addVt (.update h)))
  · exact h

/-! Parking -/

theorem State.MemInv.addRec {r p} (h : s.MemInv) : (s.addRec r p).MemInv :=
  .trace (.update h)

theorem State.MemInv.writeRecs {spill l} (h : s.MemInv) : (s.writeRecs spill l).1.MemInv := by
  induction l generalizing s with
  | nil => exact h
  | cons x l ih =>
    unfold State.writeRecs
    split
    · exact ih (.update (.carryAsks (.addRec h)))
    · exact h

theorem State.MemInv.park {rs spill pc wix} (h : s.MemInv) : (s.park rs spill pc wix).MemInv := by
  unfold State.park
  split
  rename_i s1 rest e
  have h1 : s1.MemInv := by
    split at e
    rename_i written
    split at e
    · cases e; exact h
    · cases e
      rw [← show _ = s1 from congrArg Prod.fst written]
      exact h.writeRecs
  extract_lets s2 before old g
  have h2 : s2.MemInv := by
    refine State.MemInv.settle ?_
    split
    · exact h1.telemetry
    · exact h1
  split
  · exact .leave (.update h2)
  · exact .update h2

theorem State.MemInv.parkAll {p spill} (h : s.MemInv) : (s.parkAll p spill).MemInv :=
  .park (.update h)

/-! Traps and the end of a word -/

theorem State.MemInv.beginSwitch {asid} (h : s.MemInv) : (s.beginSwitch asid).MemInv := by
  unfold State.beginSwitch
  extract_lets c s1
  split
  · exact h
  · exact h

theorem State.MemInv.supervisorTrap {t pc wix} (h : s.MemInv) : (s.supervisorTrap t pc wix).MemInv := by
  unfold State.supervisorTrap
  extract_lets g c nq rid fr src f s1 s2 first s3 mark hold
  have h1 : s1.MemInv := h.setCtx.ctxFault
  have h2 : s2.MemInv := .update h1
  have h3 : s3.MemInv := h2.parkAll
  exact .beginSwitch (.update h3)

theorem State.MemInv.takeTrapAt {t pc wix} (h : s.MemInv) : (s.takeTrapAt t pc wix).MemInv := by
  unfold State.takeTrapAt
  extract_lets s1
  have h1 : s1.MemInv := by
    unfold s1
    split
    · exact h.supervisorTrap
    · exact h.enterHandler
  exact h1.trace

theorem State.MemInv.takeTrap {t} (h : s.MemInv) : (s.takeTrap t).MemInv := by
  unfold State.takeTrap
  split
  · exact h.takeTrapAt
  · exact h

theorem State.MemInv.trapReturn {skip} (h : s.MemInv) : (s.trapReturn skip).MemInv := by
  unfold State.trapReturn
  split
  · exact h
  · exact h

theorem State.MemInv.pageFault {pages} (h : s.MemInv) : (s.pageFault pages).MemInv := by
  unfold State.pageFault
  split
  rename_i b s1 e
  have h1 : s1.MemInv := by
    split at e
    · cases e; exact h
    · rw [← show _ = s1 from congrArg Prod.snd e]; exact h.newBatch
  split
  · exact h1
  · exact h1.parkAll

/-- The state in a result of a word's effects keeps the canonical form. -/
def Res.MemInv : Res → Prop
  | .done s => s.MemInv
  | .ended s => s.MemInv
  | .trap s _ => s.MemInv
  | .stall s _ => s.MemInv
  | .page s _ => s.MemInv
  | .stop s => s.MemInv

theorem State.MemInv.failRes {lane f} (h : s.MemInv) : (failRes s lane f).MemInv := by
  cases f with
  | trap c d => exact h
  | page ps => exact h
  | format d va e lvl addr => exact h.impreciseGroup

theorem Res.MemInv.finish {r : Res} (h : r.MemInv) : r.finish.MemInv := by
  cases r with
  | done s => exact State.MemInv.advance h
  | ended s => exact State.MemInv.endTransfer h
  | trap s t => exact State.MemInv.takeTrap h
  | stall s k => exact State.MemInv.stallOn h
  | page s ps => exact State.MemInv.pageFault h
  | stop s => exact h

theorem Res.MemInv.saved {r : Res} {gid l} (h : r.MemInv) : (r.saved gid l).MemInv := by
  cases r with
  | done s => exact saveTo_wf _ _ h
  | ended s => exact saveTo_wf _ _ h
  | stop s =>
    show State.MemInv (if s.g.gid = gid then s.saveTo l else s)
    split
    · exact saveTo_wf _ _ h
    · exact h
  | trap s t => exact h
  | stall s k => exact h
  | page s ps => exact h

/-- What `operandsReady` answers keeps the canonical form, whether the word goes on or not. -/
theorem State.MemInv.operandsReady_ok {opc r act t} (h : s.MemInv) (e : s.operandsReady opc r act = .ok t) : t.MemInv := by
  unfold State.operandsReady at e
  split at e
  · cases e
  · split at e
    · cases e
    · split at e
      · cases e
      · rename_i hb
        cases e
        exact (checkBacking_spec _ _ _ hb).2.2 h

theorem State.MemInv.operandsReady_error {opc r act t} (h : s.MemInv) (e : s.operandsReady opc r act = .error t) :
    t.MemInv := by
  unfold State.operandsReady at e
  split at e
  · cases e; exact h
  · split at e
    · cases e; exact h
    · split at e
      · cases e; exact h.failRes
      · cases e

/-- An outcome that goes on has memory in its canonical form. -/
def KeepsMem : Host.Outcome State Fault Refusal → Prop
  | .next t => t.MemInv
  | _ => True

/-- A word keeps the canonical form where its effects do. -/
theorem State.MemInv.word {i gd body} (h : s.MemInv) (hb : ∀ t : State, t.MemInv → (body t).MemInv) :
    KeepsMem (s.word i gd body) := by
  show State.MemInv _
  split
  · exact h
  · extract_lets act
    split
    · exact h
    · split
      · rename_i r e
        exact (h.operandsReady_error e).finish
      · rename_i s1 e
        have h1 : s1.MemInv := h.operandsReady_ok e
        exact Res.MemInv.finish (.saved (hb _ (.update h1)))

/-! Ends of segments -/

theorem State.MemInv.parkQuads {qs p pc wix} (h : s.MemInv) : (s.parkQuads qs p pc wix).MemInv := h.park

theorem State.MemInv.askBarrier {p phase} (h : s.MemInv) : (s.askBarrier p phase).MemInv := by
  unfold State.askBarrier
  split
  · exact h
  · exact h

theorem State.MemInv.trim (h : s.MemInv) : s.trim.MemInv := by
  unfold State.trim
  split
  · exact h
  · exact h

theorem State.MemInv.decideHeld {e qs} (h : s.MemInv) : (s.decideHeld e qs).MemInv := by
  unfold State.decideHeld
  split
  · exact h
  · extract_lets parkY ready s1
    split
    · exact h
    · split
      · have h1 : s1.MemInv := by
          unfold s1
          split
          · split
            · exact h.askBarrier
            · exact h
          · exact h
        exact h1.parkQuads
      · exact h
      · exact h.takeTrapAt
      · exact h.pageFault
      · exact h.impreciseGroup.takeTrapAt
      · exact h

theorem State.MemInv.segEnd {gd fresh first} (h : s.MemInv) : (s.segEnd gd fresh first).MemInv := by
  unfold State.segEnd
  split
  · exact h
  · split
    · exact h
    · exact State.MemInv.trim (.decideHeld (.update (.retire h)))

theorem State.MemInv.exitArrivals {qs} (h : s.MemInv) : (s.exitArrivals qs).MemInv := by
  refine h.foldl fun t x ht => ?_
  split
  · exact ht
  · exact ht.decideHeld.trim

/-! Requests, releases and accesses of lanes -/

theorem State.MemInv.drainLines {core asid ep ls} (h : s.MemInv) : (s.drainLines core asid ep ls).MemInv := h.drainWcb

theorem State.MemInv.request {a} (h : s.MemInv) : (s.request a).MemInv := by
  unfold State.request
  split
  · exact h
  · extract_lets s1 r s2
    have h1 : s1.MemInv := by
      unfold s1
      split
      · exact h
      · exact h.drainLines
    split
    · exact h1
    · exact .update h1.progress

theorem State.MemInv.askAll_wait {asks must t} (h : s.MemInv) (e : s.askAll asks must = .wait t) : t.MemInv := by
  unfold State.askAll at e
  split at e
  · cases e
  · split at e
    · split at e <;> cases e
    · extract_lets s1 at e
      split at e
      · rw [← show s1 = t from Answers.wait.inj e]
        exact h.foldl fun _ _ ht => ht.request
      · split at e <;> cases e

theorem State.MemInv.releaseDrain {sc} (h : s.MemInv) : (s.releaseDrain sc).MemInv := by
  unfold State.releaseDrain
  split
  · exact h.drainWcb
  · exact h.drainWcb
  · exact h

theorem State.MemInv.releasing {sc k} (h : s.MemInv) (hk : ∀ t : State, t.MemInv → (k t).MemInv) :
    (s.releasing sc k).MemInv := by
  unfold State.releasing
  split
  · exact h
  · extract_lets s1
    split
    · exact h.releaseDrain
    · exact hk _ h.releaseDrain

theorem State.MemInv.withRelease {f k} (h : s.MemInv) (hk : ∀ t : State, t.MemInv → (k t).MemInv) :
    (s.withRelease f k).MemInv := by
  unfold State.withRelease
  split
  · exact h.releasing hk
  · exact hk _ h

theorem State.MemInv.intoAperture {ps k} (h : s.MemInv) (hk : ∀ t : State, t.MemInv → (k t).MemInv) :
    (s.intoAperture ps k).MemInv := by
  unfold State.intoAperture
  split
  · exact h.releasing hk
  · exact hk _ h

theorem State.MemInv.touchLanes {wr l} (h : s.MemInv) : (s.touchLanes wr l).MemInv :=
  h.foldl fun _ _ ht => touchAll_wf _ _ _ _ ht

theorem State.MemInv.laneSeen {f scale n align L} (h : s.MemInv) : (s.laneSeen f scale n align L).MemInv := by
  unfold State.laneSeen
  split
  · exact h
  · split
    · exact h
    · exact h.seenRuns

theorem State.MemInv.seenAt {reg} (h : s.MemInv) : (s.seenAt reg).MemInv := by
  unfold State.seenAt
  split
  · exact h
  · split
    · exact h
    · exact h.seenRuns

theorem State.MemInv.failLane {f scale n align ls L e} (h : s.MemInv) : (s.failLane f scale n align ls L e).MemInv :=
  State.MemInv.failRes (h.foldl fun _ _ ht => ht.laneSeen)

theorem State.MemInv.loadLanes {f scale n k} (h : s.MemInv) (hk : ∀ (t : State) d, t.MemInv → (k t d).MemInv) :
    (s.loadLanes f scale n k).MemInv := by
  unfold State.loadLanes
  extract_lets act chk acc s1
  split
  · exact h.failLane
  · split
    · exact h
    · split
      · rename_i e
        exact h.askAll_wait e
      · exact h.failRes
      · exact hk _ _ h.touchLanes

theorem State.MemInv.storeLanes {f scale n data} (h : s.MemInv) : (s.storeLanes f scale n data).MemInv := by
  unfold State.storeLanes
  extract_lets act chk
  split
  · exact h.failLane
  · refine h.withRelease fun t ht => ?_
    extract_lets
    split
    · exact ht
    · exact ht.intoAperture fun u hu => State.MemInv.foldl hu.touchLanes fun _ _ hv => writePieces_wf _ _ _ _ _ _ _ hv

/-! Words of the group alone -/

theorem State.MemInv.alu {i gd dst k f} (h : s.MemInv) : KeepsMem (s.alu i gd dst k f) := h.word fun _ ht => ht

theorem State.MemInv.aluP {i gd dst f} (h : s.MemInv) : KeepsMem (s.aluP i gd dst f) := h.word fun _ ht => ht

theorem State.MemInv.carryOp {i f op cy} (h : s.MemInv) : KeepsMem (s.carryOp i f op cy) := h.word fun _ ht => ht

theorem State.MemInv.rounding {i gd code n dst k f} (h : s.MemInv) : KeepsMem (s.rounding i gd code n dst k f) :=
  h.word fun _ ht => ht

theorem State.MemInv.unpack {i f m} (h : s.MemInv) : KeepsMem (s.unpack i f m) := h.word fun _ ht => ht

theorem State.MemInv.checkedAlu {i gd dst k chk f} (h : s.MemInv) : KeepsMem (s.checkedAlu i gd dst k chk f) := by
  refine h.word fun t ht => ?_
  split
  · exact ht
  · exact ht

theorem State.MemInv.branch {i gd f} (h : s.MemInv) : KeepsMem (s.branch i gd f) := by
  refine h.word fun t ht => ?_
  split
  · exact ht
  · exact ht

theorem State.MemInv.indirect {i gd reg link} (h : s.MemInv) : KeepsMem (s.indirect i gd reg link) := by
  refine h.word fun t ht => ?_
  split
  · exact ht
  · extract_lets bad
    split
    · exact ht
    · exact ht

theorem State.MemInv.setMr {i gd f} (h : s.MemInv) : KeepsMem (s.setMr i gd f) := h.word fun _ ht => ht

theorem execMovw_keepsMem {f} (h : s.MemInv) : KeepsMem (execMovw f s) := by
  refine h.word fun t ht => ?_
  extract_lets idx val ex
  split
  · exact ht
  · exact ht

theorem execIcvt_keepsMem {f} (h : s.MemInv) : KeepsMem (execIcvt f s) := by
  unfold execIcvt
  extract_lets src val
  split
  · exact h.rounding
  · exact h.alu

theorem execAcmp_keepsMem {f} (h : s.MemInv) : KeepsMem (execAcmp f s) := by
  refine h.word fun t ht => ?_
  split
  · exact ht
  · exact ht

theorem execSpcast_keepsMem {f} (h : s.MemInv) : KeepsMem (execSpcast f s) := by
  refine h.word fun t ht => ?_
  extract_lets r bad
  split
  · exact ht
  · exact ht

theorem execExit_keepsMem {f} (h : s.MemInv) : KeepsMem (execExit f s) := by
  refine h.word fun t ht => ?_
  split
  · exact ht
  · split
    · exact ht
    · exact State.MemInv.endBlocks (.leave (.exitArrivals (.update (.retire ht))))

theorem execPark_keepsMem {f} (h : s.MemInv) : KeepsMem (execPark f s) := by
  refine h.word fun t ht => ?_
  extract_lets a
  split
  · exact ht
  · exact ht.segEnd

/-! Barriers and queues -/

theorem State.MemInv.setBlock {b} (h : s.MemInv) : (s.setBlock b).MemInv := h

theorem State.MemInv.phaseChanged {p old} (h : s.MemInv) : (s.phaseChanged p old).MemInv := by
  unfold State.phaseChanged
  extract_lets k0 loc s1 hit
  have h1 : s1.MemInv := h.wake
  exact State.MemInv.foldl (.update h1) fun _ _ ht => ht.emit

theorem State.MemInv.putBarrier {core asid p b} (h : s.MemInv) : (s.putBarrier core asid p b).MemInv := by
  unfold State.putBarrier
  split
  extract_lets s1
  have h1 : s1.MemInv := writeLocal_wf _ _ _ _ _ _ _ h
  split
  · exact h1.phaseChanged
  · exact h1

theorem State.MemInv.endBarrierOp {core asid p b} (h : s.MemInv) : (s.endBarrierOp core asid p b).MemInv := by
  unfold State.endBarrierOp
  split
  · exact h
  · exact h.putBarrier

theorem State.MemInv.storeBarrier {p b} (h : s.MemInv) : (s.storeBarrier p b).MemInv := by
  unfold State.storeBarrier
  split
  · exact h
  · exact h.putBarrier

theorem State.MemInv.tbarSlot {win p n t} (h : s.MemInv) (e : s.tbarSlot win p n = some t) : t.MemInv := by
  unfold State.tbarSlot at e
  split at e
  · cases e; exact h
  · split at e
    · cases e; exact h
    · extract_lets off at e
      split at e
      · cases e; exact h
      · split at e
        · cases e; exact h
        · split at e
          · cases e
          · cases e; exact h

theorem State.MemInv.barrierWord {i gd reg live release op k} (h : s.MemInv)
    (hk : ∀ (t : State) p b, t.MemInv → (k t p b).MemInv) : KeepsMem (s.barrierWord i gd reg live release op k) := by
  refine h.word fun t ht => ?_
  split
  · exact ht.seenAt.failRes
  · rename_i p _
    extract_lets go
    have hgo : ∀ u : State, u.MemInv → (go u).MemInv := by
      intro u hu
      unfold go
      extract_lets v
      have hv : v.MemInv := touch_wf _ _ _ _ hu
      split
      · exact hk _ _ _ hv
      · extract_lets a
        split
        · rename_i e
          exact hv.askAll_wait e
        · exact hv.failRes
        · exact hk _ _ _ hv
    split
    · exact ht
    · split
      · exact ht
      · split
        · exact ht.releasing hgo
        · exact hgo _ ht

theorem execTbinit_keepsMem {f} (h : s.MemInv) : KeepsMem (execTbinit f s) := by
  unfold execTbinit
  extract_lets n
  refine h.barrierWord fun t p b ht => ?_
  split
  · exact ht
  · split
    · exact ht
    · rename_i e
      exact State.MemInv.phaseChanged (.storeBarrier (ht.tbarSlot e))

theorem State.MemInv.arriveWord {i f e} (h : s.MemInv) : KeepsMem (s.arriveWord i f e) := by
  unfold State.arriveWord
  extract_lets c
  refine h.barrierWord fun t p b ht => ?_
  split
  · exact ht
  · exact State.MemInv.update (.storeBarrier ht)

theorem execTbexp_keepsMem {f} (h : s.MemInv) : KeepsMem (execTbexp f s) := by
  unfold execTbexp
  extract_lets e
  refine h.barrierWord fun t p b ht => ?_
  split
  · exact ht
  · exact ht.storeBarrier

theorem execTbwait_keepsMem {f} (h : s.MemInv) : KeepsMem (execTbwait f s) := by
  refine h.barrierWord fun t p b ht => ?_
  have h1 := ht.segEnd (gd := f.guard) (fresh := true) (first := { Capture.zero with val := w32 b.phase })
  split
  · rename_i e
    rw [e] at h1
    exact State.MemInv.endBarrierOp h1
  · exact h1

theorem execTbphase_keepsMem {f} (h : s.MemInv) : KeepsMem (execTbphase f s) :=
  h.barrierWord fun _ _ _ ht => State.MemInv.endBarrierOp (.update ht)

theorem State.MemInv.pokeN {loc n x} (h : s.MemInv) : (s.pokeN loc n x).MemInv := poke_wf _ _ _ h

theorem State.MemInv.queueWrite {b off q} (h : s.MemInv) : (s.queueWrite b off q).MemInv := h.pokeN

theorem State.MemInv.waiterServed {b w v} (h : s.MemInv) : (s.waiterServed b w v).MemInv := h.wake.mapGroups

theorem State.MemInv.serveQueue {asid launch num q off fuel} (h : s.MemInv) :
    (s.serveQueue asid launch num q off fuel).MemInv := by
  induction fuel generalizing s with
  | zero => exact h
  | succ fuel ih =>
    unfold State.serveQueue
    split
    · exact h
    · extract_lets hd oldest
      split
      · exact ih (.waiterServed (.setBlock (.queueWrite (.pokeN h))))
      · split
        · exact ih (.waiterServed (.setBlock (.queueWrite h)))
        · exact h

theorem State.MemInv.serve {b q off} (h : s.MemInv) : (s.serve b q off).MemInv := h.serveQueue

theorem State.MemInv.pushNow {b q off hd v} (h : s.MemInv) : (s.pushNow b q off hd v).MemInv := by
  unfold State.pushNow
  extract_lets s1
  have h1 : s1.MemInv := h.pokeN
  exact .serve (.queueWrite h1)

theorem State.MemInv.popNow {b q off hd} (h : s.MemInv) : (s.popNow b q off hd).2.MemInv := by
  unfold State.popNow
  dsimp only
  exact State.MemInv.serve (.queueWrite h)

theorem State.MemInv.queueBlock {f b q off hd push v} (h : s.MemInv) : (s.queueBlock f b q off hd push v).MemInv := by
  unfold State.queueBlock
  extract_lets n seq b1 h1 s1
  split
  · exact h
  · exact State.MemInv.segEnd (.queueWrite (.setBlock h))

theorem State.MemInv.queueGo {gd} (h : s.MemInv) : (s.queueGo gd).MemInv := by
  unfold State.queueGo
  split
  · exact h
  · exact h

theorem execQinit_keepsMem {f} (h : s.MemInv) : KeepsMem (execQinit f s) := by
  refine h.word fun t ht => ?_
  extract_lets capW offW allow bad
  split
  · exact ht
  · extract_lets e old s1 s2
    split
    · exact ht
    · split
      · exact ht
      · split
        · exact ht
        · split
          · have h1 : s1.MemInv := by
              unfold s1
              split
              · exact ht
              · exact ht.queueWrite
            exact h1.setBlock
          · have h2 : s2.MemInv := ht.queueWrite
            exact State.MemInv.serve h2.setBlock

theorem execQpush_keepsMem {f} (h : s.MemInv) : KeepsMem (execQpush f s) := by
  refine h.word fun t ht => ?_
  extract_lets v
  split
  · exact ht
  · split
    · exact ht
    · split
      · exact ht
      · refine ht.releasing fun u hu => ?_
        split
        · exact hu.pushNow.queueGo
        · exact hu.queueBlock

theorem execQpop_keepsMem {f} (h : s.MemInv) : KeepsMem (execQpop f s) := by
  refine h.word fun t ht => ?_
  split
  · exact ht
  · split
    · exact ht
    · split
      · split
        rename_i v s1 e
        have h1 : s1.MemInv := by
          rw [← show _ = s1 from congrArg Prod.snd e]
          exact ht.popNow
        exact State.MemInv.queueGo (.update h1)
      · exact ht.queueBlock

theorem execQtryPop_keepsMem {f} (h : s.MemInv) : KeepsMem (execQtryPop f s) := by
  refine h.word fun t ht => ?_
  split
  · exact ht
  · split
    rename_i v s1 e
    have h1 : s1.MemInv := by
      split at e
      · rw [← show _ = s1 from congrArg Prod.snd e]; exact ht.popNow
      · cases e; exact ht
    exact State.MemInv.update h1

theorem execQtryPush_keepsMem {f} (h : s.MemInv) : KeepsMem (execQtryPush f s) := by
  refine h.word fun t ht => ?_
  extract_lets v
  split
  · exact ht
  · split
    · exact ht
    · refine ht.releasing fun u hu => ?_
      extract_lets s1
      have h1 : s1.MemInv := by
        unfold s1
        split
        · exact hu.pushNow
        · exact hu
      exact State.MemInv.update h1

theorem execQgrant_keepsMem {f} (h : s.MemInv) : KeepsMem (execQgrant f s) := by
  refine h.word fun t ht => ?_
  split
  · exact ht
  · exact State.MemInv.serve ht.queueWrite

theorem execQstat_keepsMem {f} (h : s.MemInv) : KeepsMem (execQstat f s) := by
  refine h.word fun t ht => ?_
  split
  · exact ht
  · exact ht

/-! Loads, stores and atomics -/

theorem State.MemInv.failUni {f n align e} (h : s.MemInv) : (s.failUni f n align e).MemInv := by
  unfold State.failUni
  split
  · exact h.failRes
  · split
    · exact h.failRes
    · exact h.seenRuns.failRes

theorem execLd_keepsMem {f} (h : s.MemInv) : KeepsMem (execLd f s) :=
  h.word fun _ ht => ht.loadLanes fun _ _ hu => hu

theorem execSt_keepsMem {f} (h : s.MemInv) : KeepsMem (execSt f s) := h.word fun _ ht => ht.storeLanes

theorem execLdx_keepsMem {f} (h : s.MemInv) : KeepsMem (execLdx f s) := by
  unfold execLdx
  extract_lets n
  exact h.word fun _ ht => ht.loadLanes fun _ _ hu => hu

theorem execStx_keepsMem {f} (h : s.MemInv) : KeepsMem (execStx f s) := by
  unfold execStx
  extract_lets n
  exact h.word fun _ ht => ht.storeLanes

theorem execLdw_keepsMem {f} (h : s.MemInv) : KeepsMem (execLdw f s) := by
  refine h.word fun t ht => ?_
  split
  · exact ht.failUni
  · split
    · exact ht
    · split
      · rename_i e
        exact ht.askAll_wait e
      · exact ht.failRes
      · exact State.MemInv.update (touchAll_wf _ _ _ _ ht)

theorem execStw_keepsMem {f} (h : s.MemInv) : KeepsMem (execStw f s) := by
  refine h.word fun t ht => ?_
  split
  · exact ht.failUni
  · refine ht.withRelease fun u hu => ?_
    split
    · exact hu
    · exact hu.intoAperture fun v hv => writePieces_wf _ _ _ _ _ _ _ (touchAll_wf _ _ _ _ hv)

theorem execNibst_keepsMem {f} (h : s.MemInv) : KeepsMem (execNibst f s) := by
  refine h.word fun t ht => ?_
  extract_lets act chk
  split
  · exact ht.failLane
  · refine ht.withRelease fun u hu => ?_
    extract_lets acc asks
    split
    · exact hu
    · split
      · rename_i e
        exact hu.askAll_wait e
      · exact hu.failRes
      · refine State.MemInv.foldl hu.touchLanes fun v x hv => State.MemInv.foldl hv fun w p hw => ?_
        split
        · exact hw
        · exact writeLocal_wf _ _ _ _ _ _ _ hw

/-- The state in the result of an atomic keeps the canonical form. -/
def AtomRes.MemInv : AtomRes → Prop
  | .ok s _ => s.MemInv
  | .bad s _ => s.MemInv
  | .wait s => s.MemInv

theorem State.MemInv.atomOne {f tag tids ps b cmp} (h : s.MemInv) : (s.atomOne f tag tids ps b cmp).MemInv := by
  unfold State.atomOne
  extract_lets n s1 a
  have h1 : s1.MemInv := touchAll_wf _ _ _ _ h
  split
  · split
    · exact h1
    · extract_lets a
      split
      · rename_i e
        exact h1.askAll_wait e
      · exact h1
      · exact h1
  · split
    · exact h1
    · exact writePieces_wf _ _ _ _ _ _ _ h1

/-- The states in an answer or a failure of a run of words' effects keep the canonical form. -/
def StepsKeep : Except Res State → Prop
  | .ok s => s.MemInv
  | .error r => r.MemInv

theorem State.MemInv.atomLanes {f l} (h : s.MemInv) : StepsKeep (State.atomLanes f l s) := by
  induction l generalizing s with
  | nil => exact h
  | cons x l ih =>
    unfold State.atomLanes
    split
    · exact ih h
    · extract_lets k n b cmp
      have h1 := h.atomOne (f := f) (tag := x.1) (tids := [(s.g.lane x.1).threadId]) (ps := x.2) (b := b) (cmp := cmp)
      split
      · rename_i e
        rw [e] at h1
        exact h1
      · rename_i e
        rw [e] at h1
        exact State.MemInv.failRes h1
      · rename_i e
        rw [e] at h1
        exact ih (State.MemInv.update h1)

theorem State.MemInv.atomPages {f l} (h : s.MemInv) : StepsKeep (State.atomPages f l s) := by
  induction l generalizing s with
  | nil => exact h
  | cons pg l ih =>
    unfold State.atomPages
    extract_lets n chk
    have h1 := h.atomLanes (f := f) (l := passing (pg.map (·.1)) chk)
    split
    · exact h.failLane
    · split
      · rename_i e
        rw [e] at h1
        exact h1
      · rename_i e
        rw [e] at h1
        exact ih h1

theorem execAtom_keepsMem {f} (h : s.MemInv) : KeepsMem (execAtom f s) := by
  refine h.word fun t ht => ?_
  extract_lets ls
  split
  · exact ht.failLane
  · refine ht.withRelease fun u hu => ?_
    extract_lets places keys pages
    have h1 := hu.atomPages (f := f) (l := pages)
    split
    · rename_i e
      rw [e] at h1
      exact h1
    · rename_i e
      rw [e] at h1
      exact State.MemInv.update h1

theorem execAtomw_keepsMem {f} (h : s.MemInv) : KeepsMem (execAtomw f s) := by
  refine h.word fun t ht => ?_
  extract_lets n k
  split
  · exact ht.failUni
  · refine ht.withRelease fun u hu => ?_
    rename_i ps _
    extract_lets b cmp
    have h1 := hu.atomOne (f := f) (tag := 32) (tids := u.g.threads f.guard) (ps := ps) (b := b) (cmp := cmp)
    split
    · rename_i e
      rw [e] at h1
      exact h1
    · rename_i e
      rw [e] at h1
      exact State.MemInv.failRes h1
    · rename_i e
      rw [e] at h1
      split
      · exact h1
      · exact State.MemInv.update h1

/-! Prefetch, zeroing, locks and maintenance -/

theorem State.MemInv.prefetch {target p} (h : s.MemInv) : (s.prefetch target p).MemInv := by
  unfold State.prefetch
  split
  · exact h
  · extract_lets s1
    have h1 : s1.MemInv := seenPiece_wf _ _ _ h
    split
    · exact h1
    · exact .update h1

theorem execPref_keepsMem {f} (h : s.MemInv) : KeepsMem (execPref f s) := by
  show State.MemInv _
  split
  · exact h
  · extract_lets act s1
    split
    · exact h
    · split
      · exact h.stallOn
      · exact .advance (.foldl (.update h) fun t x ht => ht.foldl fun u p hu => hu.prefetch)

theorem State.MemInv.zeroPiece {tids p} (h : s.MemInv) : (s.zeroPiece tids p).MemInv := by
  unfold State.zeroPiece
  split
  · exact poke_wf _ _ _ h
  · split
    · extract_lets ts s1 c
      have h1 : s1.MemInv := pokeData_wf _ _ _ h
      exact .setCtx (.update h1)
    · exact writeLocal_wf _ _ _ _ _ _ _ h

theorem State.MemInv.zeroRemote {ep loc len} (h : s.MemInv) : (s.zeroRemote ep loc len).MemInv :=
  h.foldl fun _ _ ht => ht.drainLines.sendCounted

theorem State.MemInv.dczFail {f ls L e} (h : s.MemInv) : (s.dczFail f ls L e).MemInv := by
  unfold State.dczFail
  extract_lets all see
  refine State.MemInv.failRes (h.foldl fun t M ht => ?_)
  unfold see
  extract_lets len
  split
  · exact ht
  · exact ht.laneSeen

theorem execDcz_keepsMem {f} (h : s.MemInv) : KeepsMem (execDcz f s) := by
  refine h.word fun t ht => ?_
  extract_lets act
  split
  · exact ht.dczFail
  · refine ht.withRelease fun u hu => ?_
    extract_lets acc s1
    split
    · exact hu
    · refine State.MemInv.foldl (s := s1) hu.touchLanes fun v x hv => State.MemInv.foldl hv fun w p hw => ?_
      split
      · exact hw.zeroRemote
      · exact hw.zeroPiece

theorem State.MemInv.lockWord {i f k} (h : s.MemInv) (hk : ∀ (t : State) d l, t.MemInv → (k t d l).2.MemInv) :
    KeepsMem (s.lockWord i f k) := by
  refine h.word fun t ht => ?_
  extract_lets n give
  have hgive : ∀ (u : State) st, u.MemInv → (give u st).MemInv := fun u st hu => State.MemInv.update hu
  split
  · exact ht.failRes
  · extract_lets l0 lines pages l
    split
    · exact hgive _ _ ht
    · split
      · exact hgive _ _ ht
      · split
        · exact ht.seenRuns.failRes
        · extract_lets s1 r
          have h1 : s1.MemInv := ht.foldl fun _ _ hu => seenPiece_wf _ _ _ hu
          split
          · exact hgive _ _ h1
          · exact hgive _ _ (hk _ _ _ h1)

theorem State.MemInv.pinLines {die l} (h : s.MemInv) : (s.pinLines die l).MemInv := by
  refine h.foldl fun t x ht => ?_
  split
  · exact .update ht
  · exact ht

theorem execLlock_keepsMem {f} (h : s.MemInv) : KeepsMem (execLlock f s) := by
  refine h.lockWord fun t d l ht => ?_
  extract_lets c new s1
  split
  · exact ht
  · split
    · exact ht
    · exact ht.setCtx.pinLines

theorem execLulock_keepsMem {f} (h : s.MemInv) : KeepsMem (execLulock f s) := h.lockWord fun _ _ _ ht => ht.setCtx

theorem State.MemInv.tokenRoom {k} (h : s.MemInv) (hk : ∀ t : State, t.MemInv → (k t).MemInv) : (s.tokenRoom k).MemInv := by
  unfold State.tokenRoom
  split
  · exact h
  · exact hk _ h

theorem State.MemInv.maintWord {i f opc all} (h : s.MemInv) : KeepsMem (s.maintWord i f opc all) := by
  refine h.word fun t ht => ht.tokenRoom fun u hu => ?_
  split
  · exact hu.failRes
  · extract_lets win len give
    have hgive : ∀ v, (give v).MemInv := fun v => State.MemInv.update hu
    split
    · exact hu
    · split
      · exact hu
      · split
        · exact hgive _
        · split
          · exact hgive _
          · exact hu

theorem execFence_keepsMem {f} (h : s.MemInv) : KeepsMem (execFence f s) := by
  refine h.word fun t ht => ?_
  extract_lets sc
  split
  · exact ht
  · exact ht.releasing fun _ hu => hu

/-! Tiles -/

theorem State.MemInv.setTile {key l bad} (h : s.MemInv) : (s.setTile key l bad).MemInv := h

theorem State.MemInv.poisonBytes {ps offs} (h : s.MemInv) : (s.poisonBytes ps offs).MemInv := h

theorem State.MemInv.reportPoison {t} (h : s.MemInv) : (s.reportPoison t).MemInv := by
  unfold State.reportPoison
  split
  · exact h.impreciseGroup
  · exact h

theorem State.MemInv.tileWord {i gd t touches body} (h : s.MemInv) (hb : ∀ t : State, t.MemInv → (body t).MemInv) :
    KeepsMem (s.tileWord i gd t touches body) := by
  refine h.word fun u hu => ?_
  split
  · exact hu
  · split
    · exact hu
    · split
      · exact hu
      · exact hb _ hu

theorem State.MemInv.readParts {gd base n offs k} (h : s.MemInv) (hk : ∀ (t : State) d, t.MemInv → (k t d).MemInv) :
    (s.readParts gd base n offs k).MemInv := by
  unfold State.readParts
  extract_lets chk ids acc s1
  split
  · exact h.failRes
  · split
    · exact h
    · split
      · rename_i e
        exact h.askAll_wait e
      · exact h.failRes
      · exact hk _ _ h.touchLanes

theorem State.MemInv.storeParts {gd base n offs data} (h : s.MemInv) : (s.storeParts gd base n offs data).MemInv := by
  unfold State.storeParts
  extract_lets chk ids acc
  split
  · exact h.failRes
  · split
    · exact h
    · exact h.intoAperture fun t ht => State.MemInv.foldl ht.touchLanes fun _ _ hu =>
        .poisonBytes (writePieces_wf _ _ _ _ _ _ _ hu)

theorem execAclr_keepsMem {f} (h : s.MemInv) : KeepsMem (execAclr f s) := h.tileWord fun _ ht => ht

theorem State.MemInv.loadTile {gd t base stride k} (h : s.MemInv) (hk : ∀ t : State, t.MemInv → (k t).MemInv) :
    (s.loadTile gd t base stride k).MemInv := h.readParts fun _ _ ht => hk _ ht.setTile

theorem execAld_keepsMem {f} (h : s.MemInv) : KeepsMem (execAld f s) := by
  refine h.tileWord fun t ht => ?_
  split
  · exact ht.failRes
  · exact ht.failRes
  · exact ht.loadTile fun _ hu => hu

theorem State.MemInv.storeTile {gd t base stride} (h : s.MemInv) : (s.storeTile gd t base stride).MemInv := h.storeParts

theorem execAst_keepsMem {f} (h : s.MemInv) : KeepsMem (execAst f s) := by
  refine h.tileWord fun t ht => ?_
  split
  · exact ht.failRes
  · exact ht.failRes
  · exact ht.storeTile

theorem execAsts_keepsMem {f} (h : s.MemInv) : KeepsMem (execAsts f s) := by
  refine h.tileWord fun t ht => ?_
  extract_lets budget
  split
  · exact ht.failRes
  · split
    · exact ht.failRes
    · split
      · exact ht
      · exact ht.storeParts

theorem execAldSparse_keepsMem {f} (h : s.MemInv) : KeepsMem (execAldSparse f s) := by
  refine h.tileWord fun t ht => ?_
  split
  · exact ht.failRes
  · refine ht.readParts fun u d hu => ?_
    split
    · exact hu
    · exact hu.setTile

theorem execAcvt_keepsMem {f} (h : s.MemInv) : KeepsMem (execAcvt f s) :=
  h.tileWord fun _ ht => State.MemInv.update ht.reportPoison.setTile

theorem execAquant_keepsMem {f} (h : s.MemInv) : KeepsMem (execAquant f s) := by
  refine h.tileWord fun t ht => ?_
  extract_lets ctype col m strides bst sst d ws blk blocks word so co
  split
  · exact ht.failRes
  · exact ht.failRes
  · rename_i cb sb _ _
    extract_lets chk chk0
    have h1 := ht.storeParts (gd := f.guard) (base := cb) (n := 16) (offs := co)
      (data := blocks.map (fun b => (codeBytes b.2.2, [])))
    split
    · exact ht
    · exact ht.failRes
    · exact ht.failRes
    · split
      · rename_i s1 e
        rw [e] at h1
        have h2 := State.MemInv.storeParts (s := s1) (gd := f.guard) (base := sb) (n := 4) (offs := so)
          (data := blocks.map (fun b => (natBytes 4 (word b), []))) h1
        split
        · rename_i e2
          rw [e2] at h2
          exact State.MemInv.update (.reportPoison h2)
        · exact ht
      · exact ht

theorem execAtopk_keepsMem {f} (h : s.MemInv) : KeepsMem (execAtopk f s) := by
  refine h.tileWord fun t ht => ?_
  extract_lets int k key ws masks s1 s2
  have h2 : s2.MemInv := by
    unfold s2
    split
    · exact ht.reportPoison.setTile
    · exact ht.reportPoison
  exact State.MemInv.update h2

theorem execAredr_keepsMem {f} (h : s.MemInv) : KeepsMem (execAredr f s) :=
  h.tileWord fun _ ht => State.MemInv.update ht.reportPoison

theorem execAbind_keepsMem {f} (h : s.MemInv) : KeepsMem (execAbind f s) := by
  refine h.tileWord fun t ht => ?_
  extract_lets hd t bind
  split
  · exact ht
  · split
    · exact ht
    · split
      · exact ht.loadTile fun _ hu => State.MemInv.update hu
      · exact ht

theorem execAunbind_keepsMem {f} (h : s.MemInv) : KeepsMem (execAunbind f s) := by
  refine h.tileWord fun t ht => ?_
  split
  · exact ht
  · exact ht

theorem State.MemInv.flushSlot {gd t} (h : s.MemInv) : (s.flushSlot gd t).MemInv := by
  unfold State.flushSlot
  extract_lets hd
  split
  · exact h
  · split
    · exact h.storeTile
    · exact h

theorem execAunbindFlush_keepsMem {f} (h : s.MemInv) : KeepsMem (execAunbindFlush f s) := by
  refine h.tileWord fun t ht => ?_
  have h1 := ht.flushSlot (gd := f.guard) (t := f.dst.toNat)
  split
  · rename_i e
    rw [e] at h1
    exact State.MemInv.update h1
  · exact h1

theorem execAflush_keepsMem {f} (h : s.MemInv) : KeepsMem (execAflush f s) := h.tileWord fun _ ht => ht.flushSlot

theorem State.MemInv.kWord {i gd f} (h : s.MemInv) : KeepsMem (s.kWord i gd f) := h.word fun _ ht => ht

/-! Engine operations -/

/-- The state after a chunk keeps the canonical form. -/
def ChunkRes.MemInv : ChunkRes → Prop
  | .wait s => s.MemInv
  | .missing _ _ => True
  | .stop _ => True
  | .done s _ _ _ => s.MemInv

theorem State.MemInv.asOp {o} (h : s.MemInv) : (s.asOp o).MemInv := h

theorem State.MemInv.viaOp {o f} (h : s.MemInv) (hf : ∀ t : State, t.MemInv → (f t).MemInv) : (s.viaOp o f).MemInv :=
  .update (hf _ h.asOp)

theorem State.MemInv.withChunk {o l land k} (h : s.MemInv) (hk : ∀ t : State, t.MemInv → (k t).MemInv) :
    (s.withChunk o l land k).MemInv := by
  unfold State.withChunk
  extract_lets bar all replicated pieces asks s1
  have h1 : s1.MemInv := h.viaOp fun t ht => ht.foldl fun _ _ hu => touchAll_wf _ _ _ _ hu
  have h2 := hk _ h1
  split
  · trivial
  · trivial
  · split
    · exact h
    · split
      · rename_i e
        exact State.MemInv.update (h.asOp.askAll_wait e)
      · trivial
      · split
        · rename_i e
          rw [e] at h2
          exact State.MemInv.update h2
        · exact h2

theorem State.MemInv.opWriteLocal {o ps bs} (h : s.MemInv) : (s.opWriteLocal o ps bs).MemInv := by
  induction ps generalizing s bs with
  | nil => exact h
  | cons p ps ih =>
    unfold State.opWriteLocal
    refine ih ?_
    split
    · exact h
    · exact writeLocal_wf _ _ _ _ _ _ _ h

theorem State.MemInv.opSend {o l} (h : s.MemInv) : (s.opSend o l).MemInv := h.foldl fun _ _ ht => ht.drainLines.sendCounted

theorem State.MemInv.opWrite {o a bs} (h : s.MemInv) : (s.opWrite o a bs).1.MemInv := h.opWriteLocal

theorem State.MemInv.landBarrier {o n} (h : s.MemInv) : (s.landBarrier o n).MemInv := by
  unfold State.landBarrier
  split
  · exact h
  · split
    · exact h
    · split
      · split
        · exact .update h
        · extract_lets b x low s1
          have h1 : s1.MemInv := by
            unfold s1
            split
            · exact h.ctxFault
            · exact h
          exact h1.putBarrier
      · exact h

theorem State.MemInv.refill {core} (h : s.MemInv) : (s.refill core).MemInv := by
  unfold State.refill
  split
  · exact h
  · split
    · exact h
    · exact .update h

theorem State.MemInv.endOp {o v} (h : s.MemInv) : (s.endOp o v).MemInv := by
  unfold State.endOp
  extract_lets s1
  have h1 : s1.MemInv := .update h
  exact h1.completeToken.refill.endBlocks

theorem State.MemInv.impreciseOn {asid launch core code detail addr} (h : s.MemInv) :
    (s.impreciseOn asid launch core code detail addr).MemInv := h.ctxFault

theorem State.MemInv.terminate {o f} (h : s.MemInv) : (s.terminate o f).MemInv := by
  unfold State.terminate
  extract_lets s0 s1 n
  have h0 : s0.MemInv := by
    unfold s0
    split
    · exact h.impreciseOn
    · exact h
  have h1 : s1.MemInv := by
    unfold s1
    split
    · exact h0
    · exact h0.impreciseOn
  split
  · exact .update h1.newBatch
  · exact h1.landBarrier.endOp

theorem State.MemInv.endBlockNow {asid launch num} (h : s.MemInv) : (s.endBlockNow asid launch num).MemInv := by
  unfold State.endBlockNow
  extract_lets mine s1 stay
  exact .endBlocks (.update (x := s1) (.update h))

theorem State.MemInv.suspend {o pages addr} (h : s.MemInv) : (s.suspend o pages addr).MemInv := by
  unfold State.suspend
  split
  · extract_lets s1
    have h1 : s1.MemInv := by
      unfold s1
      split
      · exact h
      · exact h.endBlockNow
    exact h1.terminate
  · exact .update h.impreciseOn.newBatch

theorem State.MemInv.copyChunk {o p} (h : s.MemInv) : (s.copyChunk o p).MemInv := by
  unfold State.copyChunk
  extract_lets segs ended accs
  refine h.withChunk fun t ht => ?_
  exact State.MemInv.opSend (ht.foldl_fst fun _ _ hu => hu.opWrite)

theorem State.MemInv.gatherChunk {o p scatter} (h : s.MemInv) : (s.gatherChunk o p scatter).MemInv := by
  unfold State.gatherChunk
  extract_lets n qs idxAcc idx null sp accs one
  split
  · trivial
  · trivial
  · split
    · trivial
    · refine h.withChunk fun t ht => State.MemInv.opSend (ht.foldl_fst fun u x hu => ?_)
      unfold one
      split
      · exact hu
      · exact hu.opWrite
      · exact hu.opWrite
      · exact hu.opWrite

theorem State.MemInv.emitKey {o p x} (h : s.MemInv) : (s.emitKey o p x).1.MemInv := by
  unfold State.emitKey
  dsimp only
  split
  · exact writePieces_wf _ _ _ _ _ _ _ h
  · exact h

theorem State.MemInv.streamStep {o p merge rs} (h : s.MemInv) : (s.streamStep o p merge rs).2.1.MemInv := by
  unfold State.streamStep
  extract_lets aOut bOut a b put
  have hput : ∀ x da db, (put x da db).2.1.MemInv := by
    intro x da db
    unfold put
    extract_lets r
    split
    · exact h
    · exact h.emitKey
  repeat' split
  all_goals simp only [h, hput]

theorem State.MemInv.streamLoop {o p merge c rs fuel} (h : s.MemInv) :
    (State.streamLoop p merge c rs fuel s o).2.1.MemInv := by
  induction fuel generalizing s o with
  | zero => exact h
  | succ fuel ih =>
    unfold State.streamLoop
    have h1 := h.streamStep (o := o) (p := p) (merge := merge) (rs := rs)
    split
    · rename_i e
      rw [e] at h1
      split
      · exact ih h1
      · exact h1
    · exact h1

theorem State.MemInv.streamChunk {o p merge} (h : s.MemInv) : (s.streamChunk o p merge).MemInv := by
  unfold State.streamChunk
  extract_lets reads accOf emitAcc plain remote firsts
  split
  · trivial
  · refine h.withChunk fun t ht => ?_
    extract_lets rs
    have h1 := ht.streamLoop (o := o) (p := p) (merge := merge) (c := o) (rs := rs) (fuel := 3100)
    split
    · trivial
    · rename_i e
      rw [e] at h1
      exact h1
    · rename_i e
      rw [e] at h1
      exact h1

theorem State.MemInv.newToken {wd unit} (h : s.MemInv) : (s.newToken wd unit).2.2.MemInv := h

theorem State.MemInv.engNumber {unit wd} (h : s.MemInv) : (s.engNumber unit wd).2.2.MemInv := by
  unfold State.engNumber
  split
  · exact h
  · exact h

theorem State.MemInv.startEngine {unit wd bar kind} (h : s.MemInv) : (s.startEngine unit wd bar kind).MemInv :=
  .update h.engNumber

theorem State.MemInv.engineWord {i gd copy notok k} (h : s.MemInv) (hk : ∀ t : State, t.MemInv → (k t).MemInv) :
    KeepsMem (s.engineWord i gd copy notok k) := by
  refine h.word fun t ht => ?_
  generalize (if copy = true then 64 else 8) = room
  split
  · exact ht
  · split
    · exact hk _ ht
    · exact ht.tokenRoom hk

theorem State.MemInv.trapRes {c d} (h : s.MemInv) : (trapRes s c d).MemInv := h

theorem execXtmpl_keepsMem {f} (h : s.MemInv) : KeepsMem (execXtmpl f s) := by
  refine h.engineWord fun t ht => ?_
  extract_lets i w
  split
  · exact ht.trapRes
  · split
    · exact ht.trapRes
    · split
      · exact ht.failRes
      · split
        · exact ht
        · exact ht.intoAperture fun u hu => State.MemInv.startEngine (writePieces_wf _ _ _ _ _ _ _ (touchAll_wf _ _ _ _ hu))

theorem execXcopy_keepsMem {f} (h : s.MemInv) : KeepsMem (execXcopy f s) := by
  unfold execXcopy
  extract_lets notok
  refine h.engineWord fun t ht => ?_
  extract_lets i
  split
  · exact ht.trapRes
  · split
    · exact ht.failRes
    · split
      · exact ht
      · split
        · rename_i e
          exact ht.askAll_wait e
        · exact ht.failRes
        · extract_lets s1 t' so d se de sw dw badWin
          have h1 : s1.MemInv := touchAll_wf _ _ _ _ ht
          split
          · exact h1.trapRes
          · split
            · exact h1.trapRes
            · split
              · exact h1.failRes
              · exact State.MemInv.startEngine h1

theorem State.MemInv.gatherWord {i f kind} (h : s.MemInv) : KeepsMem (s.gatherWord i f kind) := by
  unfold State.gatherWord
  extract_lets notok bar
  refine h.engineWord fun t ht => ?_
  extract_lets w p start
  have hstart : ∀ (u : State) b, u.MemInv → (start u b).MemInv := fun u b hu => State.MemInv.startEngine hu
  split
  · exact ht.trapRes
  · split
    · exact ht.trapRes
    · split
      · exact ht.trapRes
      · split
        · exact ht.failRes
        · split
          · exact hstart _ _ ht
          · split
            · exact ht.failRes
            · split
              · exact ht.trapRes
              · exact hstart _ _ (touch_wf _ _ _ _ ht)

theorem State.MemInv.streamWord {i f emit kind} (h : s.MemInv) : KeepsMem (s.streamWord i f emit kind) := by
  refine h.engineWord fun t ht => ?_
  extract_lets w eb p bases
  split
  · exact ht.trapRes
  · split
    · exact ht.trapRes
    · split
      · exact ht.trapRes
      · split
        · exact ht.failRes
        · exact State.MemInv.startEngine ht

/-! The mesh -/

theorem State.MemInv.setChan {die ch c} (h : s.MemInv) : (s.setChan die ch c).MemInv := h

theorem State.MemInv.setWordChan {f c} (h : s.MemInv) : (s.setWordChan f c).MemInv := h

theorem execMrselOpen_keepsMem {f} (h : s.MemInv) : KeepsMem (execMrselOpen f s) := by
  refine h.word fun t ht => ?_
  extract_lets c
  split
  · exact ht.trapRes
  · split
    · exact ht.trapRes
    · exact ht.setWordChan

theorem execMrselClose_keepsMem {f} (h : s.MemInv) : KeepsMem (execMrselClose f s) := by
  refine h.word fun t ht => ?_
  split
  · exact ht.trapRes
  · exact ht.setWordChan

theorem execMred_keepsMem {f} (h : s.MemInv) : KeepsMem (execMred f s) := by
  refine h.word fun t ht => ht.tokenRoom fun u hu => ?_
  extract_lets die ch c n m k known act elems c1
  split
  · exact hu.trapRes
  · split
    · exact hu.trapRes
    · split
      · exact hu.trapRes
      · split
        · exact hu.trapRes
        · split
          · exact hu
          · exact State.MemInv.completeToken (.setWordChan (.newToken hu))

theorem execMeshPacketArrive_keepsMem {die ch round core} (h : s.MemInv) :
    KeepsMem (execMeshPacketArrive die ch round core s) := by
  show State.MemInv _
  extract_lets c src c1
  split
  · exact h
  · split
    · exact h.setChan
    · split
      · exact h.setChan
      · exact h.setChan

theorem execMeshNodeTimeout_keepsMem {die ch round node} (h : s.MemInv) :
    KeepsMem (execMeshNodeTimeout die ch round node s) := by
  show State.MemInv _
  extract_lets c n
  split
  · exact h
  · split
    · exact h
    · exact h.setChan

theorem execMrcv_keepsMem {f} (h : s.MemInv) : KeepsMem (execMrcv f s) := by
  refine h.word fun t ht => ht.tokenRoom fun u hu => ?_
  extract_lets ch c off size
  split
  · exact hu.trapRes
  · split
    · exact hu.trapRes
    · split
      · exact hu.trapRes
      · split
        · exact hu.trapRes
        · split
          · exact hu.trapRes
          · exact State.MemInv.startEngine (.setWordChan hu)

theorem execMrcvResultWrite_keepsMem {op} (h : s.MemInv) : KeepsMem (execMrcvResultWrite op s) := by
  show State.MemInv _
  split
  · exact h
  · split
    · extract_lets die c
      split
      · exact h
      · extract_lets s1 s2
        have h1 : s1.MemInv := by
          unfold s1
          split
          · exact poke_wf _ _ _ h
          · exact h
        have h2 : s2.MemInv := h1.setChan
        split
        · exact h
        · exact h2.endOp
    · exact h

/-! Spans -/

theorem execXslot_keepsMem {f} (h : s.MemInv) : KeepsMem (execXslot f s) := by
  refine h.word fun t ht => ?_
  extract_lets x
  split
  · exact ht.trapRes
  · exact State.MemInv.update ht

theorem execXstc_keepsMem {f} (h : s.MemInv) : KeepsMem (execXstc f s) := by
  refine h.word fun t ht => ?_
  extract_lets x st
  split
  · exact ht.trapRes
  · exact State.MemInv.update ht

theorem execXflag_keepsMem {f} (h : s.MemInv) : KeepsMem (execXflag f s) := by
  refine h.word fun t ht => ht.tokenRoom fun u hu => ?_
  extract_lets x a copies
  split
  · exact hu.trapRes
  · split
    · exact hu.trapRes
    · split
      · exact hu.trapRes
      · split
        · exact hu.failRes
        · split
          · exact hu
          · exact State.MemInv.update (.newToken (.drainWcb (touch_wf _ _ _ _ hu.releaseDrain)))

theorem State.MemInv.closeSpan {dst slot d a v} (h : s.MemInv) : (s.closeSpan dst slot d a v).2.MemInv :=
  (closeSpan_fabric s dst slot d a v).memInv h

theorem execXflagSend_keepsMem {op} (h : s.MemInv) : KeepsMem (execXflagSend op s) := by
  show State.MemInv _
  split
  · exact h
  · split
    · exact h
    · extract_lets s1
      have h1 : s1.MemInv := .update h
      exact h1.closeSpan.trace.completeToken

/-! Hash tables -/

theorem State.MemInv.allocPoke {b off n x} (h : s.MemInv) : (s.allocPoke b off n x).MemInv := by
  unfold State.allocPoke
  split
  · exact h.pokeN
  · exact h

theorem State.MemInv.setSlotVal {T j sl v} (h : s.MemInv) : (s.setSlotVal T j sl v).MemInv := h.allocPoke

theorem State.MemInv.setSlot {T j sl k v} (h : s.MemInv) : (s.setSlot T j sl k v).MemInv := h.allocPoke.setSlotVal

theorem State.MemInv.ovWrite {tid ps e} (h : s.MemInv) : (s.ovWrite tid ps e).MemInv :=
  writePieces_wf _ _ _ _ _ _ _ (touchAll_wf _ _ _ _ h)

/-- The state at which the hash unit waits keeps the canonical form. -/
def HStop.MemInv : HStop → Prop
  | .wait s => s.MemInv
  | .fail _ => True
/-- The state in an answer or a stop of a step of the hash unit keeps the canonical form. -/
def HashKeeps {α : Type} : Except HStop (α × State) → Prop
  | .ok x => x.2.MemInv
  | .error e => e.MemInv
theorem State.MemInv.ovRead {T tid tag n} (h : s.MemInv) : HashKeeps (s.ovRead T tid tag n) := by
  rw [show @State.ovRead = _ from by delta State.ovRead; rfl]
  split
  · trivial
  · split
    · exact h
    · split
      · rename_i e
        exact h.askAll_wait e
      · trivial
      · exact touchAll_wf _ _ _ _ h

/-- What a structural recursion on `Nat` keeps, from what its body keeps: its equations are not asked for. -/
theorem natBrecOn_induct {motive : Nat → Type} (P : ∀ n, motive n → Prop)
    (F : ∀ n, Nat.below (motive := motive) n → motive n) (zero : ∀ b, P 0 (F 0 b))
    (succ : ∀ n (b : Nat.below (motive := motive) (n + 1)), P n b.1 → P (n + 1) (F (n + 1) b)) (n : Nat) :
    P n (Nat.brecOn n F) := by
  induction n with
  | zero => exact zero _
  | succ n ih => exact succ _ _ ih

/-- What a structural recursion on a list keeps, from what its body keeps: its equations are not asked for. -/
theorem listBrecOn_induct {α : Type} {motive : List α → Type} (P : ∀ l, motive l → Prop)
    (F : ∀ l, List.below (motive := motive) l → motive l) (nil : ∀ b, P [] (F [] b))
    (cons : ∀ x l (b : List.below (motive := motive) (x :: l)), P l b.1 → P (x :: l) (F (x :: l) b)) (l : List α) :
    P l (List.brecOn l F) := by
  induction l with
  | nil => exact nil _
  | cons x l ih => exact cons _ _ _ ih

theorem State.MemInv.chainFind {T tid tag k fuel n} (h : s.MemInv) : HashKeeps (State.chainFind T tid tag k fuel s n) := by
  delta State.chainFind
  refine natBrecOn_induct
    (fun _ (f : State → Nat → Except HStop (Found × State)) => ∀ s n, s.MemInv → HashKeeps (f s n)) _ ?zero ?succ fuel s n h
  case zero => exact fun _ _ _ h => h
  case succ =>
    intro fuel b ih s n h
    have h1 := h.ovRead (T := T) (tid := tid) (tag := tag) (n := n)
    delta State.chainFind._f
    generalize endOfChain = c
    dsimp only
    split
    · exact h
    · split
      · rename_i e
        rw [e] at h1
        exact h1
      · rename_i e
        rw [e] at h1
        split
        · exact h1
        · exact ih _ _ h1
theorem State.MemInv.hfind {T tid tag k} (h : s.MemInv) : HashKeeps (s.hfind T tid tag k) := by
  rw [show @State.hfind = _ from by delta State.hfind; rfl]
  extract_lets j
  split
  · exact h
  · exact h.chainFind

theorem State.MemInv.ovCheck {T tid n e} (h : s.MemInv) : s.ovCheck T tid n = .error e → e.MemInv := by
  rw [show @State.ovCheck = _ from by delta State.ovCheck; rfl]
  split
  · rintro ⟨⟩
    trivial
  · split
    · rintro ⟨⟩
      exact h
    · rintro ⟨⟩

theorem State.MemInv.hplace {T tid tag k v} (h : s.MemInv) : HashKeeps (s.hplace T tid tag k v) := by
  rw [show @State.hplace = _ from by delta State.hplace; rfl]
  have hread : ∀ t : State, t.MemInv → ∀ T tid tag n, HashKeeps (t.ovRead T tid tag n) := fun t ht _ _ _ _ => ht.ovRead
  have hcheck : ∀ t : State, t.MemInv → ∀ T tid n e, t.ovCheck T tid n = .error e → e.MemInv := fun t ht _ _ _ _ => ht.ovCheck
  obtain ⟨read, er⟩ : ∃ f, State.ovRead = f := ⟨_, rfl⟩
  obtain ⟨check, ec⟩ : ∃ f, State.ovCheck = f := ⟨_, rfl⟩
  obtain ⟨first, ef⟩ : ∃ f, @List.find? Nat = f := ⟨_, rfl⟩
  rw [er] at hread ⊢
  rw [ec] at hcheck ⊢
  rw [ef]
  clear er ec ef
  extract_lets j bump n new fin tail
  have hbump : ∀ t : State, t.MemInv → (bump t).MemInv := fun t ht => ht.allocPoke
  have hfin : ∀ t : State, t.MemInv → (fin t).MemInv := fun t ht => hbump _ (.allocPoke (.allocPoke (.allocPoke (.allocPoke ht))))
  have h1 := hread s h T tid tag tail
  split
  · exact hbump _ (.allocPoke h.setSlot)
  · split
    · exact h
    · split
      · rename_i e
        exact hcheck s h _ _ _ _ e
      · split
        · exact hfin _ (.allocPoke h.ovWrite)
        · split
          · rename_i e
            rw [e] at h1
            exact h1
          · rename_i e
            rw [e] at h1
            split
            · rename_i e2
              exact hcheck _ h1 _ _ _ _ e2
            · exact hfin _ (.ovWrite (.ovWrite h1))

theorem State.MemInv.hashTurn {k : Res} (h : s.MemInv) (hk : k.MemInv) : (s.hashTurn k).MemInv := by
  unfold State.hashTurn
  split
  · exact h
  · exact hk

theorem execHtclaim_keepsMem {f} (h : s.MemInv) : KeepsMem (execHtclaim f s) := by
  refine h.word fun t ht => ?_
  extract_lets obase cfg off ocap give tb
  have hgive : ∀ (u : State) st, u.MemInv → (give u st).MemInv := fun u st hu => State.MemInv.update hu
  split
  · exact ht.trapRes
  · refine ht.hashTurn ?_
    split
    · exact hgive _ _ ht
    · extract_lets st s1
      split
      · exact hgive _ _ ht
      · have h1 : s1.MemInv := poke_wf _ _ _ (poke_wf _ _ _ ht)
        exact hgive _ _ h1.setBlock

theorem execHtfree_keepsMem {f} (h : s.MemInv) : KeepsMem (execHtfree f s) := by
  refine h.word fun t ht => ?_
  split
  · exact ht.trapRes
  · split
    · exact ht
    · exact ht.hashTurn (State.MemInv.setBlock ht.allocPoke)

theorem State.MemInv.withTable {f vw k} (h : s.MemInv) (hk : ∀ T, (k T).MemInv) : (s.withTable f vw k).MemInv := by
  unfold State.withTable
  split
  · exact h.trapRes
  · split
    · exact h.trapRes
    · split
      · exact h
      · exact h.hashTurn (hk _)

theorem State.MemInv.hashKeys {f step l} (h : s.MemInv)
    (hs : ∀ (t : State) tid tag k ls, t.MemInv → HashKeeps (step t tid tag k ls)) : StepsKeep (State.hashKeys f step l s) := by
  induction l generalizing s with
  | nil => exact h
  | cons x l ih =>
    unfold State.hashKeys
    extract_lets low
    have h1 := hs _ (s.g.lane low).threadId (64 + low) x.1 x.2 h
    split
    · exact h.failRes
    · rename_i e
      rw [e] at h1
      exact h1
    · rename_i e
      rw [e] at h1
      exact ih (State.MemInv.update h1)

theorem State.MemInv.hashWord {i f vw step} (h : s.MemInv)
    (hs : ∀ T g0 (t : State) tid tag k ls, t.MemInv → HashKeeps (step T g0 t tid tag k ls)) :
    KeepsMem (s.hashWord i f vw step) := by
  refine h.word fun t ht => ht.withTable fun T => ?_
  extract_lets act g0
  have h1 := ht.hashKeys (f := f) (step := step T g0)
    (l := keyGroups (g0.hkey f) (act.filter (fun L => !(g0.lane L).applied))) (hs T g0)
  split
  · rename_i e
    rw [e] at h1
    exact h1
  · rename_i e
    rw [e] at h1
    exact State.MemInv.update h1

theorem execHtins_keepsMem {f} (h : s.MemInv) : KeepsMem (execHtins f s) := by
  refine h.hashWord fun T g0 t tid tag k ls ht => ?_
  have h1 := ht.hfind (T := T) (tid := tid) (tag := tag) (k := k)
  have hplace : ∀ t : State, t.MemInv → ∀ T tid tag k v, HashKeeps (t.hplace T tid tag k v) := fun t ht _ _ _ _ _ => ht.hplace
  obtain ⟨place, ep⟩ : ∃ f, State.hplace = f := ⟨_, rfl⟩
  rw [ep] at hplace ⊢
  clear ep
  split
  · rename_i e
    rw [e] at h1
    exact h1
  · rename_i s1 e
    rw [e] at h1
    have h2 := hplace s1 h1 T tid tag k (g0.hval f (ls.headD 0))
    split
    · rename_i e2
      rw [e2] at h2
      exact h2
    · rename_i e2
      rw [e2] at h2
      exact h2
    · rename_i e2
      rw [e2] at h2
      exact h2
  · rename_i e
    rw [e] at h1
    exact h1

theorem execHtdel_keepsMem {f} (h : s.MemInv) : KeepsMem (execHtdel f s) := by
  refine h.hashWord fun T g0 t tid tag k ls ht => ?_
  have h1 := ht.hfind (T := T) (tid := tid) (tag := tag) (k := k)
  have hcheck : ∀ t : State, t.MemInv → ∀ T tid n e, t.ovCheck T tid n = .error e → e.MemInv := fun t ht _ _ _ _ => ht.ovCheck
  obtain ⟨find, ef⟩ : ∃ f, State.hfind = f := ⟨_, rfl⟩
  obtain ⟨check, ec⟩ : ∃ f, State.ovCheck = f := ⟨_, rfl⟩
  rw [ef] at h1 ⊢
  rw [ec] at hcheck ⊢
  clear ef ec
  extract_lets give drop
  have hdrop : ∀ u : State, u.MemInv → (drop u).MemInv := fun u hu => hu.allocPoke
  have hgive : ∀ (u : State) st, u.MemInv → HashKeeps (give u st) := fun u st hu => hu
  split
  · rename_i e
    rw [e] at h1
    exact h1
  · rename_i e
    rw [e] at h1
    exact hgive _ _ h1
  · rename_i e
    rw [e] at h1
    exact hgive _ _ (hdrop _ (.allocPoke h1))
  · rename_i e
    rw [e] at h1
    split
    · rename_i e2
      exact hcheck _ h1 _ _ _ _ e2
    · exact hgive _ _ (hdrop _ (.ovWrite h1))

theorem execHtacc_keepsMem {f} (h : s.MemInv) : KeepsMem (execHtacc f s) := by
  refine h.hashWord fun T g0 t tid tag k ls ht => ?_
  have h1 := ht.hfind (T := T) (tid := tid) (tag := tag) (k := k)
  have hplace : ∀ t : State, t.MemInv → ∀ T tid tag k v, HashKeeps (t.hplace T tid tag k v) := fun t ht _ _ _ _ _ => ht.hplace
  have hcheck : ∀ t : State, t.MemInv → ∀ T tid n e, t.ovCheck T tid n = .error e → e.MemInv := fun t ht _ _ _ _ => ht.ovCheck
  obtain ⟨find, ef⟩ : ∃ f, State.hfind = f := ⟨_, rfl⟩
  obtain ⟨place, ep⟩ : ∃ f, State.hplace = f := ⟨_, rfl⟩
  obtain ⟨check, ec⟩ : ∃ f, State.ovCheck = f := ⟨_, rfl⟩
  rw [ef] at h1 ⊢
  rw [ep] at hplace ⊢
  rw [ec] at hcheck ⊢
  clear ef ep ec
  extract_lets w op kind canon v give
  have hgive : ∀ (u : State) st, u.MemInv → HashKeeps (give u st) := fun u st hu => hu
  split
  · rename_i e
    rw [e] at h1
    exact h1
  · rename_i s1 e
    rw [e] at h1
    have h2 := hplace s1 h1 T tid tag k v
    split
    · rename_i e2
      rw [e2] at h2
      exact h2
    · rename_i e2
      rw [e2] at h2
      exact hgive _ _ h2
    · rename_i e2
      rw [e2] at h2
      exact hgive _ _ h2
  · rename_i e
    rw [e] at h1
    exact hgive _ _ (State.MemInv.setSlotVal h1)
  · rename_i e
    rw [e] at h1
    split
    · rename_i e2
      exact hcheck _ h1 _ _ _ _ e2
    · exact hgive _ _ (State.MemInv.ovWrite h1)

/-- The states in an answer or a failure of a run of probes keep the canonical form. -/
def ProbesKeep {α : Type} : Except Res (α × State) → Prop
  | .ok x => x.2.MemInv
  | .error r => r.MemInv

theorem ProbesKeep.of_eq {α : Type} {r r' : Except Res (α × State)} (h : ProbesKeep r) (e : r = r') : ProbesKeep r' := e ▸ h

theorem State.MemInv.probeKeys {T l} (h : s.MemInv) : ProbesKeep (State.probeKeys T l s) := by
  delta State.probeKeys
  refine listBrecOn_induct
    (fun _ (f : State → Except Res (List (Nat × Option Nat) × State)) => ∀ s, s.MemInv → ProbesKeep (f s)) _ ?nil ?cons l s h
  case nil => exact fun _ _ h => h
  case cons =>
    intro x l b ih s h
    rw [show @State.probeKeys._f = _ from by delta State.probeKeys._f; rfl]
    have hf : ∀ (s : State) T tid tag k, s.MemInv → HashKeeps (s.hfind T tid tag k) := fun _ _ _ _ _ h => h.hfind
    obtain ⟨find, e⟩ : ∃ f, State.hfind = f := ⟨_, rfl⟩
    rw [e] at hf ⊢
    clear e
    dsimp only
    have h1 := hf _ T (s.g.lane (x.2.headD 0)).threadId (64 + x.2.headD 0) x.1 h
    split
    · exact h.failRes
    · rename_i e
      rw [e] at h1
      exact h1
    · rename_i s1 e
      rw [e] at h1
      split
      · rename_i e2
        have h2 := (ih s1 h1).of_eq e2
        exact h2
      · rename_i e2
        have h2 := (ih s1 h1).of_eq e2
        exact h2

theorem State.MemInv.helperKeys {f T l} (h : s.MemInv) : ProbesKeep (State.helperKeys f T l s) := by
  delta State.helperKeys
  refine listBrecOn_induct (fun _ (f : State → Except Res (List (Nat × Option Nat) × State)) => ∀ s, s.MemInv → ProbesKeep (f s))
    _ ?nil ?cons l s h
  case nil => exact fun _ _ h => h
  case cons =>
    intro L l b ih s h
    rw [show @State.helperKeys._f = _ from by delta State.helperKeys._f; rfl]
    have hf : ∀ (s : State) T tid tag k, s.MemInv → HashKeeps (s.hfind T tid tag k) := fun _ _ _ _ _ h => h.hfind
    obtain ⟨find, e⟩ : ∃ f, State.hfind = f := ⟨_, rfl⟩
    rw [e] at hf ⊢
    clear e
    dsimp only
    have h1 := hf _ T (s.g.lane L).threadId (64 + L) (s.g.hkey f L) h
    split
    · rename_i e
      rw [e] at h1
      exact h1
    · split
      · rename_i e2
        have h2 := (ih s h).of_eq e2
        exact h2
      · rename_i e2
        have h2 := (ih s h).of_eq e2
        exact h2
    · rename_i s1 e
      rw [e] at h1
      split
      · rename_i e2
        have h2 := (ih s1 h1).of_eq e2
        exact h2
      · rename_i e2
        have h2 := (ih s1 h1).of_eq e2
        exact h2

theorem execHtprobe_keepsMem {f} (h : s.MemInv) : KeepsMem (execHtprobe f s) := by
  refine h.word fun t ht => ht.withTable fun T => ?_
  extract_lets act
  have h1 := ht.probeKeys (T := T) (l := keyGroups (t.g.hkey f) act)
  split
  · rename_i e
    rw [e] at h1
    exact h1
  · rename_i s0 e
    rw [e] at h1
    have h2 := State.MemInv.helperKeys (s := s0) (f := f) (T := T)
      (l := (t.g.executing f.guard).filter (fun L => !act.contains L)) h1
    split
    · rename_i e2
      rw [e2] at h2
      exact h2
    · rename_i e2
      rw [e2] at h2
      exact State.MemInv.update h2

theorem execHtstat_keepsMem {f} (h : s.MemInv) : KeepsMem (execHtstat f s) := h.word fun _ ht => State.MemInv.update ht

theorem execHtdrain_keepsMem {f} (h : s.MemInv) : KeepsMem (execHtdrain f s) := by
  refine h.engineWord fun t ht => ?_
  extract_lets a cap
  split
  · exact ht.trapRes
  · split
    · exact ht.trapRes
    · split
      · exact ht.trapRes
      · extract_lets bytes
        split
        · exact ht.failRes
        · split
          · exact ht
          · exact State.MemInv.startEngine ht

theorem State.MemInv.emptyTable {T} (h : s.MemInv) : (s.emptyTable T).MemInv :=
  poke_wf _ _ _ (.allocPoke (.allocPoke h))

theorem State.MemInv.drainEnd {o p T} (h : s.MemInv) : (s.drainEnd o p T).MemInv := by
  unfold State.drainEnd
  extract_lets st s1
  show s1.MemInv
  unfold s1
  split
  · exact h.emptyTable
  · exact h

theorem State.MemInv.drainPut {o p T n es} (h : s.MemInv) : (s.drainPut o p T n es).1.MemInv := h.opWrite

theorem State.MemInv.drainSorted {o p T} (h : s.MemInv) : (s.drainSorted o p T).MemInv := by
  unfold State.drainSorted
  extract_lets es
  split
  · exact h.drainEnd
  · exact h.withChunk fun t ht => ht.drainPut.opSend

theorem State.MemInv.drainChunk {o p} (h : s.MemInv) : (s.drainChunk o p).MemInv := by
  unfold State.drainChunk
  split
  · trivial
  · extract_lets nb fuel pos room span x0 out
    split
    · trivial
    · split
      · exact h.drainEnd
      · split
        · exact h.drainSorted
        · split
          · exact h.drainEnd
          · refine h.withChunk fun t ht => ?_
            extract_lets x o1 o2 r
            split
            · trivial
            · split
              · exact ht
              · split
                · exact ht.drainEnd
                · exact ht.drainPut.opSend

theorem State.MemInv.runChunk {o} (h : s.MemInv) : (s.runChunk o).MemInv := by
  unfold State.runChunk
  split
  · exact h.copyChunk
  · exact h.gatherChunk
  · exact h.gatherChunk
  · exact h.streamChunk
  · exact h.streamChunk
  · exact h.drainChunk
  · split
    · exact h
    · exact h
  · exact h

theorem State.MemInv.afterChunk {o} {c : ChunkRes} (h : s.MemInv) (hc : c.MemInv) : (s.afterChunk o c).MemInv := by
  cases c with
  | wait t => exact hc
  | missing ps a => exact h.suspend
  | stop f => exact h.terminate
  | done t o1 landed fin =>
    unfold State.afterChunk
    dsimp -zeta only
    extract_lets s2
    have h2 : s2.MemInv := .progress (.landBarrier (.update hc))
    split
    · exact h2.endOp
    · exact h2

theorem execEngineOpStart_keepsMem {op} (h : s.MemInv) : KeepsMem (execEngineOpStart op s) := by
  show State.MemInv _
  split
  · exact h
  · split
    · exact .update h
    · exact h

theorem execEngineChunk_keepsMem {op} (h : s.MemInv) : KeepsMem (execEngineChunk op s) := by
  show State.MemInv _
  split
  · exact h
  · split
    · exact h.terminate
    · split
      · exact h.afterChunk h.runChunk
      · exact h

/-! Launch queues and tasks -/

theorem State.MemInv.stopQueue {q reason} (h : s.MemInv) : (s.stopQueue q reason).MemInv := .update h

theorem State.MemInv.doorbell {q t} (h : s.MemInv) : (s.doorbell q t).MemInv := by
  unfold State.doorbell
  extract_lets x
  split
  · exact h
  · split
    · exact h
    · split
      · exact h.stopQueue
      · exact State.MemInv.settleQueue (.setQueue h)

theorem execDoorbellWrite_keepsMem {q t} (h : s.MemInv) : KeepsMem (execDoorbellWrite q t s) := h.doorbell

theorem State.MemInv.refuseLaunch {l code} (h : s.MemInv) : (s.refuseLaunch l code).MemInv := by
  unfold State.refuseLaunch
  extract_lets s1 silent
  refine State.MemInv.complete ?_
  show State.MemInv (match l.slot with | none => s | some i => _)
  split
  · exact h
  · exact h.setQueue

/-- The state in an answer of a read of a context's memory keeps the canonical form. -/
def CtxRead.MemInv : CtxRead → Prop
  | .wait s | .ok s _ => s.MemInv
  | _ => True

theorem State.MemInv.ctxRead {asid tag va n} (h : s.MemInv) : (s.ctxRead asid tag va n).MemInv := by
  rw [show @State.ctxRead = _ from by delta State.ctxRead; rfl]
  obtain ⟨check, ec⟩ : ∃ f, State.checkAccess = f := ⟨_, rfl⟩
  rw [ec]
  clear ec
  extract_lets g v
  have hv : v.MemInv := .update h
  split
  · trivial
  · trivial
  · split
    · rename_i e
      exact .update (hv.askAll_wait e)
    · trivial
    · exact .update (touchAll_wf _ _ _ _ hv)

theorem State.MemInv.acceptLaunch {l} (h : s.MemInv) : (s.acceptLaunch l).MemInv := by
  have h1 := h.ctxRead (asid := l.asid) (tag := 2 ^ 40 + l.num) (va := l.constAddr) (n := 256)
  rw [show @State.acceptLaunch = _ from by delta State.acceptLaunch; rfl]
  obtain ⟨read, er⟩ : ∃ f, State.ctxRead = f := ⟨_, rfl⟩
  obtain ⟨first, ef⟩ : ∃ f, @List.find? (Nat × PageCheck) = f := ⟨_, rfl⟩
  rw [er] at h1 ⊢
  rw [ef]
  clear er ef
  extract_lets found gone
  split
  · exact h.refuseLaunch
  · split
    · exact h.imprecise.refuseLaunch
    · split
      · exact h.wantPages
      · split
        · exact h.refuseLaunch
        · split
          · rename_i e
            rw [e] at h1
            exact h1
          · exact h.wantPages
          · exact h.refuseLaunch
          · rename_i e
            rw [e] at h1
            exact .update h1

theorem State.MemInv.joinVt {asid} (h : s.MemInv) : (s.joinVt asid).MemInv := by
  unfold State.joinVt
  extract_lets c others
  cases others with
  | nil => exact h
  | cons x xs => exact h.setCtx

theorem State.MemInv.activate {asid} (h : s.MemInv) : (s.activate asid).MemInv := by
  unfold State.activate
  split
  · exact h
  · exact h.joinVt

theorem State.MemInv.takeRecord {q asid words slot} (h : s.MemInv) : (s.takeRecord q asid words slot).MemInv := by
  unfold State.takeRecord
  extract_lets s0 c since l0 l s1 s2
  have h1 : s1.MemInv := State.MemInv.setCtx h.activate
  have h2 : s2.MemInv := .update h1
  split
  · exact h2.refuseLaunch
  · exact h2.acceptLaunch

theorem execLaunchFetch_keepsMem {q} (h : s.MemInv) : KeepsMem (execLaunchFetch q s) := by
  show State.MemInv _
  extract_lets x c
  split
  · exact h
  · split
    · exact (State.MemInv.foldl h fun _ _ ht => ht.acceptLaunch).settleQueue
    · split
      · exact h.settleQueue
      · have h1 := h.ctxRead (asid := x.asid) (tag := 2 ^ 41 + q) (va := x.ring.toNat + 128 * (x.head.toNat % x.cap)) (n := 128)
        split
        · rename_i e
          rw [e] at h1
          exact h1
        · exact h.wantPages
        · exact h.imprecise.stopQueue
        · exact h.stopQueue
        · rename_i e
          rw [e] at h1
          exact State.MemInv.settleQueue (.takeRecord (.setQueue h1))

theorem State.MemInv.taskReady {q i} (h : s.MemInv) : (s.taskReady q i).MemInv := by
  unfold State.taskReady
  extract_lets x sl s1
  have h1 : s1.MemInv := h.setQueue
  split
  · exact .update h1
  · exact h1

theorem State.MemInv.decodeTasks {q fuel n} (h : s.MemInv) : (State.decodeTasks q fuel n s).MemInv := by
  induction fuel generalizing s n with
  | zero => exact h
  | succ fuel ih =>
    unfold State.decodeTasks
    extract_lets x i t before words s1
    split
    · exact h
    · exact ih (.takeRecord (.setQueue h))

theorem State.MemInv.taskCounter {handle excess case} (h : s.MemInv) : (s.taskCounter handle excess case).MemInv :=
  h.impreciseGroup

theorem State.MemInv.taskWord {i gd k} (h : s.MemInv) (hk : ∀ t : State, t.MemInv → (k t).MemInv) :
    KeepsMem (s.taskWord i gd k) := by
  refine h.word fun t ht => ?_
  split
  · exact ht
  · exact hk t ht

theorem execTkrsv_keepsMem {f} (h : s.MemInv) : KeepsMem (execTkrsv f s) := by
  refine h.taskWord fun t ht => ?_
  extract_lets q x i
  split
  · exact ht.trapRes
  · split
    · exact State.MemInv.update ht.setQueue
    · exact State.MemInv.update ht

theorem State.MemInv.publish {w q i cnt delta} (h : s.MemInv) : (s.publish w q i cnt delta).MemInv := by
  unfold State.publish
  extract_lets x t s1 s2
  have h1 : s1.MemInv := h.setQueue
  have h2 : s2.MemInv := by
    unfold s2
    split
    · exact h1.taskCounter
    · exact h1
  refine State.MemInv.decodeTasks ?_
  split
  · exact h2.taskReady
  · exact h2

theorem execTkpub_keepsMem {f} (h : s.MemInv) : KeepsMem (execTkpub f s) := by
  refine h.taskWord fun t ht => ?_
  extract_lets w
  split
  · exact ht.trapRes
  · extract_lets sl
    split
    · exact ht.trapRes
    · split
      · exact ht.failRes
      · refine ht.readParts fun u l hu => ?_
        extract_lets head n
        split
        · exact hu.trapRes
        · refine hu.readParts fun v l hv => ?_
          extract_lets cnt
          split
          · exact hv.trapRes
          · exact hv.publish

theorem execTksig_keepsMem {f} (h : s.MemInv) : KeepsMem (execTksig f s) := by
  refine h.taskWord fun t ht => ?_
  extract_lets w n lim
  split
  · exact ht.trapRes
  · extract_lets x sl s1 s2 s3
    have h1 : s1.MemInv := ht.setQueue
    have h2 : s2.MemInv := by
      unfold s2
      split
      · exact h1.taskCounter
      · exact h1
    have h3 : s3.MemInv := ht.setQueue
    split
    · exact ht.trapRes
    · split
      · exact ht
      · split
        · show State.MemInv _
          split
          · exact h2.taskReady
          · exact h2
        · split
          · show State.MemInv _
            split
            · exact h3.taskCounter
            · exact h3
          · exact ht.taskCounter

theorem execLaunch_keepsMem {f} (h : s.MemInv) : KeepsMem (execLaunch f s) := by
  refine h.word fun t ht => ht.tokenRoom fun u hu => ?_
  extract_lets q x a
  split
  · exact hu.trapRes
  · split
    · exact hu.failRes
    · refine hu.readParts fun v l hv => hv.releasing fun w hw => ?_
      split
      · exact State.MemInv.completeToken hw.newToken
      · have h1 := hw.ctxStore (asid := w.g.asid) (va := a) (bs := l.headD [])
        split
        · exact hw
        · rename_i e
          rw [e] at h1
          exact State.MemInv.completeToken (.newToken (.doorbell h1))

/-! System words -/

theorem execSread_keepsMem {f} (h : s.MemInv) : KeepsMem (execSread f s) := by
  refine h.word fun t ht => ?_
  extract_lets n
  split
  · exact ht.trapRes
  · split
    · exact State.MemInv.update ht
    · exact State.MemInv.update ht

theorem State.MemInv.sysWrite {n x} (h : s.MemInv) : (s.sysWrite n x).MemInv := by
  unfold State.sysWrite
  split
  · exact .update h
  · exact h.setCtx

theorem execSwrite_keepsMem {f} (h : s.MemInv) : KeepsMem (execSwrite f s) := by
  refine h.word fun t ht => ?_
  extract_lets n val
  split
  · exact ht.trapRes
  · exact ht.trapRes
  · exact State.MemInv.update ht
  · exact ht.sysWrite

theorem execTstamp_keepsMem {f} (h : s.MemInv) : KeepsMem (execTstamp f s) := by
  refine h.word fun t ht => ?_
  extract_lets now
  split
  · exact State.MemInv.update ht
  · exact State.MemInv.update ht

theorem State.MemInv.trapReturnRes {skip} (h : s.MemInv) : (trapReturnRes s skip).MemInv := by
  unfold Machine.trapReturnRes
  split
  · exact h.trapRes
  · exact h.retire.trapReturn

theorem execEcall_keepsMem {f} (h : s.MemInv) : KeepsMem (execEcall f s) :=
  h.word fun _ ht => ht.tokenRoom fun _ hu => hu.releasing fun _ hv => State.MemInv.emit (.update hv.newToken)

theorem execEcallReply_keepsMem {op reply} (h : s.MemInv) : KeepsMem (execEcallReply op reply s) := by
  show State.MemInv _
  split
  · exact State.MemInv.completeToken (.update h)
  · exact h

/-! Instruction fetch and the boundary between clauses -/

theorem State.MemInv.fetchFail {pc wix f} (h : s.MemInv) : (s.fetchFail pc wix f).MemInv := by
  cases f with
  | trap c d => exact h.takeTrapAt
  | page ps => exact h.pageFault
  | format d va e lvl addr => exact h.impreciseGroup.takeTrapAt

theorem State.MemInv.codeKeep {p} (h : s.MemInv) : (s.codeKeep p).MemInv := by
  unfold State.codeKeep
  split
  · exact h
  · exact .update h

/-- The state after a read of code, or of its failure, keeps the canonical form. -/
def CodeKeeps : Except State (State × Nat) → Prop
  | .ok x => x.1.MemInv
  | .error s => s.MemInv

theorem State.MemInv.codeRead {pc wix off n} (h : s.MemInv) : CodeKeeps (s.codeRead pc wix off n) := by
  rw [show @State.codeRead = _ from by delta State.codeRead; rfl]
  obtain ⟨check, ec⟩ : ∃ f, State.checkAccess = f := ⟨_, rfl⟩
  rw [ec]
  clear ec
  split
  · exact h.takeTrapAt
  · split
    · exact h.fetchFail
    · split
      · rename_i e
        exact (h.askAll_wait e).stallOn
      · exact h.fetchFail
      · exact State.MemInv.foldl (.foldl h fun _ _ ht => seenPiece_wf _ _ _ ht) fun _ _ ht => ht.codeKeep

theorem State.MemInv.enterClause {ls pc wix entering} (h : s.MemInv) : (s.enterClause ls pc wix entering).MemInv := by
  unfold State.enterClause
  extract_lets a
  have h1 := h.codeRead (pc := pc) (wix := a) (off := 0) (n := 8)
  split
  · rename_i e
    rw [e] at h1
    exact h1
  · rename_i s1 hd e
    rw [e] at h1
    extract_lets n
    have h2 := State.MemInv.codeRead (s := s1) (pc := pc) (wix := a) (off := 8) (n := 8 * n) h1
    split
    · rename_i e
      rw [e] at h2
      exact h2
    · rename_i s2 x e
      rw [e] at h2
      extract_lets all ws meets g1 go r s3 g2
      have hs2 : s2.MemInv := h2
      have h3 : s3.MemInv := .update hs2
      split
      · exact hs2.takeTrapAt
      · split
        · exact .update h3
        · exact .update h3

theorem State.MemInv.convergence (h : s.MemInv) : s.convergence.MemInv := h.takeTrapAt

theorem State.MemInv.chooseClause (h : s.MemInv) : s.chooseClause.MemInv := by
  unfold State.chooseClause
  extract_lets again pc pc'
  split
  · split
    · split
      · exact h
      · exact h.convergence
    · exact h.enterClause
  · exact h.enterClause

theorem State.MemInv.spill (h : s.MemInv) : s.spill.MemInv := h.parkAll

theorem State.MemInv.checkBacking {l t} (h : s.MemInv) (e : s.checkBacking l = .ok t) : t.MemInv :=
  (checkBacking_spec s t l e).2.2 h

theorem State.MemInv.saveSlot {L n} (h : s.MemInv) : (s.saveSlot L n).MemInv := by
  unfold State.saveSlot
  split
  · exact h
  · split
    · exact h
    · exact .update (writePieces_wf _ _ _ _ _ _ _ (touchAll_wf _ _ _ _ h))

theorem State.MemInv.saveSlots {ls ns} (h : s.MemInv) : (s.saveSlots ls ns).MemInv := h.foldl fun _ _ ht => ht.saveSlot

/-- The state after the register slots that are due come back, or of the failure to, keeps the canonical form. -/
def SlotsKeep : Except State State → Prop
  | .ok s => s.MemInv
  | .error s => s.MemInv

theorem State.MemInv.restoreSlots (h : s.MemInv) : SlotsKeep s.restoreSlots := by
  unfold State.restoreSlots
  split
  · exact h.fetchFail
  · rename_i e
    extract_lets s2
    exact State.MemInv.update (.foldl (h.checkBacking e) fun _ _ ht => State.MemInv.saveSlot ht)

theorem State.MemInv.boundaryOf (h : s.MemInv) : s.boundaryOf.MemInv := by
  unfold State.boundaryOf
  extract_lets s1 mids g1 s2
  have h1 : s1.MemInv := .update h
  have h2 : s2.MemInv := .update h1
  clear_value mids
  cases mids with
  | cons L ls => exact h1.enterClause
  | nil =>
    dsimp only
    split
    · split
      · exact h2.chooseClause
      · split
        · exact h2.spill
        · exact State.MemInv.chooseClause (.update h2)
    · exact h1.chooseClause

theorem State.MemInv.boundary (h : s.MemInv) : s.boundary.MemInv := by
  unfold State.boundary
  have h1 := h.restoreSlots
  split
  · exact h.boundaryOf
  · split
    · rename_i e
      rw [e] at h1
      exact h1
    · rename_i s1 e
      rw [e] at h1
      exact State.MemInv.boundaryOf (s := s1) h1

theorem execClauseStart_keepsMem (h : s.MemInv) : KeepsMem (execClauseStart s) := by
  show State.MemInv _
  split
  · exact h.boundary
  · exact h

theorem execImplicitPark_keepsMem (h : s.MemInv) : KeepsMem (execImplicitPark s) := by
  show State.MemInv _
  split
  · exact h.parkAll
  · exact h

theorem execParkingStallRetry_keepsMem (h : s.MemInv) : KeepsMem (execParkingStallRetry s) := by
  show State.MemInv _
  split
  · exact h
  · exact h.park

theorem execRecordPoolExhausted_keepsMem (h : s.MemInv) : KeepsMem (execRecordPoolExhausted s) := by
  show State.MemInv _
  split
  · exact h
  · split
    · exact h
    · exact h.takeTrapAt

theorem execFullSpill_keepsMem (h : s.MemInv) : KeepsMem (execFullSpill s) := by
  show State.MemInv _
  split
  · exact h.spill
  · exact h

theorem execTimerWake_keepsMem (h : s.MemInv) : KeepsMem (execTimerWake s) := h.wake

theorem execEmergencyRecordCopy_keepsMem {rid} (h : s.MemInv) : KeepsMem (execEmergencyRecordCopy rid s) := by
  show State.MemInv _
  split
  · exact h
  · split
    · exact .update h
    · exact h

theorem execBinAgeExpiry_keepsMem {rid} (h : s.MemInv) : KeepsMem (execBinAgeExpiry rid s) := by
  show State.MemInv _
  split
  · exact h
  · split
    · split
      · exact .update h
      · exact h
    · exact h

/-! Bins and kept tiles -/

theorem State.MemInv.place {g} (h : s.MemInv) : (s.place g).MemInv := by
  unfold State.place
  split
  · exact .update h
  · exact .update h

theorem State.MemInv.freeTiles {core base n keep} (h : s.MemInv) : (s.freeTiles core base n keep).MemInv :=
  h.foldl fun _ _ ht => .update ht.setTile

theorem State.MemInv.tileFault {asid hd slot addr reload poison} (h : s.MemInv) :
    (s.tileFault asid hd slot addr reload poison).MemInv := h.imprecise

theorem State.MemInv.flushKept {k slot} (h : s.MemInv) : (s.flushKept k slot).2.MemInv := by
  rw [show @State.flushKept = _ from by delta State.flushKept; rfl]
  obtain ⟨check, ec⟩ : ∃ f, State.checkAccess = f := ⟨_, rfl⟩
  rw [ec]
  clear ec
  split
  · exact h.tileFault
  · extract_lets g v key bad
    have hv : v.MemInv := .update h
    split
    · exact h.wantPages
    · exact h.tileFault
    · extract_lets v1 s1
      have h1 : s1.MemInv := .update (.poisonBytes (writePieces_wf _ _ _ _ _ _ _ (touchAll_wf _ _ _ _ hv)))
      show State.MemInv _
      split
      · exact h1
      · exact h1.tileFault

theorem State.MemInv.reloadSlot {g t} (h : s.MemInv) : (s.reloadSlot g t).MemInv := by
  rw [show @State.reloadSlot = _ from by delta State.reloadSlot; rfl]
  obtain ⟨check, ec⟩ : ∃ f, State.checkAccess = f := ⟨_, rfl⟩
  rw [ec]
  clear ec
  extract_lets hd settled g0 v
  have hset : ∀ (u : State) b, u.MemInv → (settled u b).MemInv := fun u b hu => .update hu
  split
  · exact hset _ _ h.tileFault
  · have hv : v.MemInv := .update h
    split
    · exact h.wantPages
    · exact hset _ _ h.tileFault
    · split
      · rename_i e
        exact .update (hv.askAll_wait e)
      · exact hset _ _ h.tileFault
      · extract_lets v1 ws bad s1 s2
        have h1 : s1.MemInv := .update (touchAll_wf _ _ _ _ hv)
        have h2 : s2.MemInv := hset _ _ h1.setTile
        split
        · exact h2.tileFault
        · exact h2

theorem State.MemInv.reloadAll (h : s.MemInv) : s.reloadAll.MemInv :=
  h.foldl fun _ _ ht => ht.foldl fun _ _ hu => hu.reloadSlot

theorem State.MemInv.flushRec {r} (h : s.MemInv) : (s.flushRec r).2.MemInv := by
  refine h.foldl_snd fun b t tk ht => ?_
  split
  · exact ht
  · split
    · exact ht
    · split
      · exact ht
      · have h1 := ht.flushKept (k := tk.2) (slot := tk.1)
        split
        · rename_i e
          rw [e] at h1
          exact .update h1
        · rename_i e
          rw [e] at h1
          exact h1

theorem State.MemInv.trimKept (h : s.MemInv) : s.trimKept.MemInv := .update h

theorem State.MemInv.drainInto {core recs r0 l} (h : s.MemInv) : (s.drainInto core recs r0 l).MemInv := by
  unfold State.drainInto
  extract_lets role n tbase bound kept data kb gone lanes off g out rest s1 s2 s3 s4 s5 due
  have h1 : s1.MemInv := .update h
  have h3 : s3.MemInv := .foldl h1.freeTiles fun _ _ ht => ht.setTile
  have h4 : s4.MemInv := h3.foldl fun _ _ ht => ht.traceAfter
  have h5 : s5.MemInv := .foldl (.update h4) fun _ _ ht => ht.saveSlots
  exact .reloadAll (.settle (.trimKept (.takeAsks (.place (.update h5)))))

theorem execBinDrain_keepsMem {rid core} (h : s.MemInv) : KeepsMem (execBinDrain rid core s) := by
  show State.MemInv _
  split
  · exact h
  · split
    · rename_i r0 rs l _ _
      split
      · extract_lets recs s1
        split
        · exact h.drainInto
        · have h1 := State.MemInv.flushRec (s := s1) (r := r0) h.drainWcb
          split
          · rename_i e
            rw [e] at h1
            exact State.MemInv.drainInto h1
          · rename_i e
            rw [e] at h1
            exact h1
      · exact h
    · exact h

theorem State.MemInv.devFault {code detail part} (h : s.MemInv) : (s.devFault code detail part).MemInv := .update h

/-! Blocks -/

theorem State.MemInv.startGroups {l block core gs} (h : s.MemInv) : (s.startGroups l block core gs).MemInv := by
  induction gs generalizing s with
  | nil => exact h
  | cons x gs ih => exact ih (.place (.freeTiles (.update h)))

theorem State.MemInv.startBlock {l cores m unit} (h : s.MemInv) : (s.startBlock l cores m unit).MemInv :=
  State.MemInv.startGroups (.update h)

theorem State.MemInv.dispatched {l} (h : s.MemInv) : (s.dispatched l).MemInv := by
  unfold State.dispatched
  split
  · exact h
  · split
    · exact h.setQueue
    · exact h

theorem execBlockStart_keepsMem {launch cores} (h : s.MemInv) : KeepsMem (execBlockStart launch cores s) := by
  show State.MemInv _
  split
  · exact h
  · split
    · exact h
    · extract_lets s1 s2 s3
      have h1 : s1.MemInv := h.foldl fun _ _ ht => ht.startBlock
      have h2 : s2.MemInv := .update h1
      have h3 : s3.MemInv := by
        unfold s3
        split
        · exact h2.trace
        · exact h2
      split
      · exact h3.dispatched.settleQueue
      · exact h

/-! Records and blocks that move -/

theorem State.MemInv.moveBlock {b core base} (h : s.MemInv) : (s.moveBlock b core base).MemInv :=
  .update (moveBytes_wf _ _ _ _ h)

theorem State.MemInv.flushRecs {rs} (h : s.MemInv) : (s.flushRecs rs).2.MemInv := by
  refine h.foldl_snd fun b t r ht => ?_
  split
  · exact ht.flushRec
  · exact ht

theorem State.MemInv.sentOut {rs target} (h : s.MemInv) : (s.sentOut rs target).MemInv :=
  h.foldl fun _ _ ht => ht.trace.telemetry

theorem State.MemInv.onRecs {rs f} (h : s.MemInv) : (s.onRecs rs f).MemInv := .update h

theorem State.MemInv.forwardCore {r core} (h : s.MemInv) : (s.forwardCore r core).MemInv := by
  unfold State.forwardCore
  extract_lets bound moved s1
  have h1 := State.MemInv.flushRecs (s := s1) (rs := moved) h.drainWcb
  split
  · rename_i e
    rw [e] at h1
    exact h1
  · rename_i s2 e
    rw [e] at h1
    extract_lets s3 s4
    have h3 : s3.MemInv := State.MemInv.sentOut (s := s2) h1
    have h4 : s4.MemInv := by
      unfold s4
      split
      · exact h3.moveBlock
      · exact h3.onRecs
    exact h4.onRecs.trimKept.settle

theorem State.MemInv.forwardDevice {r ep} (h : s.MemInv) : (s.forwardDevice r ep).MemInv := by
  unfold State.forwardDevice
  extract_lets moved s1
  have h1 := State.MemInv.flushRecs (s := s1) (rs := moved) h.drainWcb
  split
  · rename_i e
    rw [e] at h1
    exact h1
  · rename_i s2 e
    rw [e] at h1
    exact State.MemInv.trimKept (.onRecs (.foldl (s := s2) h1 fun _ _ ht => ht.emit))

theorem execBinForward_keepsMem {rid target} (h : s.MemInv) : KeepsMem (execBinForward rid target s) := by
  show State.MemInv _
  split
  · exact h
  · split
    · exact h
    · split
      · split
        · exact h.forwardCore
        · exact h
      · split
        · exact h.forwardDevice
        · exact h

theorem State.MemInv.landBlock {asid b core} (h : s.MemInv) : (s.landBlock asid b core).MemInv := overlayOf_wf _ _ _ _ h

theorem State.MemInv.arrival {asid img r x} (h : s.MemInv) (e : s.arrival asid img r = some x) : x.2.2.MemInv := by
  revert e
  unfold State.arrival
  split
  · intro e
    obtain ⟨c, -, rfl⟩ := Option.map_eq_some_iff.mp e
    exact h
  · split
    · rintro ⟨⟩
    · split
      · rintro ⟨⟩
        exact h
      · intro e
        obtain ⟨c, -, rfl⟩ := Option.map_eq_some_iff.mp e
        exact h.landBlock

theorem State.MemInv.arrivedAgain {rid img} (h : s.MemInv) : (s.arrivedAgain rid img).MemInv := by
  unfold State.arrivedAgain
  split
  · exact h.mapRecs.settle
  · exact h

theorem execRecordTransferArrive_keepsMem {src img} (h : s.MemInv) : KeepsMem (execRecordTransferArrive src img s) := by
  show State.MemInv _
  extract_lets rid refuse
  split
  · exact h.arrivedAgain.emit
  · split
    · exact h.emit
    · extract_lets r
      split
      · rename_i e
        have h1 := h.arrival e
        split
        · exact State.MemInv.settle (.emit (.update h1))
        · exact h.emit
      · exact h.emit

theorem State.MemInv.blockGone {r} (h : s.MemInv) : (s.blockGone r).MemInv := by
  unfold State.blockGone
  split
  · exact h
  · exact .update h

theorem execRecordAcceptance_keepsMem {rid accepted} (h : s.MemInv) : KeepsMem (execRecordAcceptance rid accepted s) := by
  show State.MemInv _
  split
  · exact h
  · split
    · exact State.MemInv.blockGone (.trimKept (.sentOut (.update h)))
    · exact State.MemInv.settle (.update h)

/-! The memory hierarchy -/

theorem State.MemInv.fireBatch {b} (h : s.MemInv) : (s.fireBatch b).MemInv :=
  .reloadAll (.completeWaiting (.wake (.mapGroups (.update h))))

theorem execBatchFire_keepsMem {batch} (h : s.MemInv) : KeepsMem (execBatchFire batch s) := by
  show State.MemInv _
  split
  · split
    · exact h.fireBatch
    · exact h
  · exact h

theorem State.MemInv.maintain {o l} (h : s.MemInv) : (s.maintain o l).2.MemInv := by
  unfold State.maintain
  extract_lets p
  split
  · exact .update h
  · exact .update h

theorem execMaintOpComplete_keepsMem {op} (h : s.MemInv) : KeepsMem (execMaintOpComplete op s) := by
  show State.MemInv _
  split
  · exact h
  · rename_i o _
    extract_lets l s1 s2
    split
    · exact h
    · split
      · exact .update h.newBatch
      · have h1 : s1.MemInv := h.foldl fun _ _ ht => ht.seen
        have h2 : s2.MemInv := by
          unfold s2
          split
          · exact h1.imprecise
          · exact h1
        exact State.MemInv.completeToken (.update h2.maintain)

theorem State.MemInv.writeTlbi {ctl} (h : s.MemInv) : (s.writeTlbi ctl).MemInv := by
  unfold State.writeTlbi
  split
  · exact h
  · exact .update h

theorem execTlbiStart_keepsMem {ctl} (h : s.MemInv) : KeepsMem (execTlbiStart ctl s) := h.writeTlbi

theorem execTlbiComplete_keepsMem (h : s.MemInv) : KeepsMem (execTlbiComplete s) := by
  show State.MemInv _
  split
  · exact h
  · exact .update h

/-! Migration -/

theorem State.MemInv.takeFrames {tier n} (h : s.MemInv) : (s.takeFrames tier n).MemInv := .update h

theorem State.MemInv.giveFrames {tier n} (h : s.MemInv) : (s.giveFrames tier n).MemInv := .update h

theorem State.MemInv.pteUpdate {addr on off} (h : s.MemInv) : (s.pteUpdate addr on off).MemInv := putBytes_wf _ _ _ h

theorem State.MemInv.sample {addr lvl} (h : s.MemInv) : (s.sample addr lvl).MemInv := .update h.pteUpdate

theorem State.MemInv.beginMove {asid va lvl addr e frame tier} (h : s.MemInv) :
    (s.beginMove asid va lvl addr e frame tier).MemInv := by
  unfold State.beginMove
  split
  extract_lets m s1 r
  have h1 : s1.MemInv := .takeFrames (.update h)
  split
  · exact h1
  · exact .update h1

theorem State.MemInv.endMove {m} (h : s.MemInv) : (s.endMove m).MemInv := by
  unfold State.endMove
  extract_lets e hier s0 failed dst
  have h0 : s0.MemInv := .update h
  split
  · exact h0.giveFrames
  · split
    · exact h
    · extract_lets s1 hier1 own s2
      have h1 : s1.MemInv := by
        unfold s1
        split
        · exact h0.emit
        · split
          · exact poke_wf _ _ _ h0
          · exact copyFrame_wf _ _ _ _ h0
      have h2 : s2.MemInv := .update h1
      exact (State.MemInv.giveFrames (rewriteEntry_wf _ _ _ h2)).progress

theorem State.MemInv.moveLost {asid va} (h : s.MemInv) : (s.moveLost asid va).MemInv := by
  unfold State.moveLost
  split
  · exact h.endMove
  · exact h

theorem execMigrationFetch_keepsMem {batch va frame data} (h : s.MemInv) :
    KeepsMem (execMigrationFetch batch va frame data s) := by
  show State.MemInv _
  split
  · exact h
  · split
    · exact h
    · split
      · split
        · exact State.MemInv.progress (.takeFrames (rewriteEntry_wf _ _ _ (poke_wf _ _ _ h)))
        · exact h
      · exact h

theorem State.MemInv.toStorage {asid lvl addr e handle} (h : s.MemInv) : (s.toStorage asid lvl addr e handle).MemInv := by
  unfold State.toStorage
  extract_lets hier bytes s1
  have h1 : s1.MemInv := .emit (.update h)
  exact (State.MemInv.giveFrames (rewriteEntry_wf _ _ _ h1)).progress

theorem execMigrationDemote_keepsMem {asid va frame tier} (h : s.MemInv) :
    KeepsMem (execMigrationDemote asid va frame tier s) := by
  show State.MemInv _
  split
  · extract_lets e m
    split
    · exact h.endMove
    · split
      · exact h
      · split
        · exact h.sample
        · split
          · exact h
          · split
            · exact h.toStorage
            · split
              · exact h.beginMove
              · exact h
  · exact h.moveLost

theorem execMigrationPromote_keepsMem {asid va frame} (h : s.MemInv) : KeepsMem (execMigrationPromote asid va frame s) := by
  show State.MemInv _
  split
  · extract_lets e t
    split
    · exact h.endMove
    · split
      · exact h.beginMove
      · exact h
  · exact h.moveLost

theorem execReplicaWriteApplied_keepsMem {die} (h : s.MemInv) : KeepsMem (execReplicaWriteApplied die s) := by
  show State.MemInv _
  split
  · exact h
  · exact State.MemInv.completeWaiting (.update h)

/-! Reclaim, progress and deadlines -/

theorem State.MemInv.reclaim {c l} (h : s.MemInv) : (s.reclaim c l).MemInv := .update h.mapGroups

theorem execAgePromotionReclaim_keepsMem {core} (h : s.MemInv) : KeepsMem (execAgePromotionReclaim core s) := by
  show State.MemInv _
  split
  · exact h
  · extract_lets n cost
    split
    · split
      · exact h.reclaim
      · exact h
    · exact h

theorem State.MemInv.setPart {p x} (h : s.MemInv) : (s.setPart p x).MemInv := .update h

theorem execPmWindowExpiry_keepsMem {part} (h : s.MemInv) : KeepsMem (execPmWindowExpiry part s) := by
  show State.MemInv _
  extract_lets x y
  split
  · exact h
  · split
    · exact h.setPart.devFault
    · exact h.setPart

theorem State.MemInv.unfreeze {p} (h : s.MemInv) : (s.unfreeze p).MemInv := by
  unfold State.unfreeze
  extract_lets x
  split
  · exact h.setPart
  · exact h

theorem execExternalDeadline_keepsMem {rid} (h : s.MemInv) : KeepsMem (execExternalDeadline rid s) := by
  show State.MemInv _
  split
  · exact h
  · extract_lets dl
    split
    · exact h
    · exact State.MemInv.ctxFault (.update h)

/-! The fabric -/

theorem State.MemInv.protect {src dctx cls addr} (h : s.MemInv) : (s.protect src dctx cls addr).MemInv := .update h

theorem State.MemInv.refusePacket {p} (h : s.MemInv) : (s.refusePacket p).MemInv := h.protect.emit

theorem State.MemInv.setRecv {ep slot x} (h : s.MemInv) : (s.setRecv ep slot x).MemInv := .update h

theorem State.MemInv.ownerFault {ep slot code detail} (h : s.MemInv) : (s.ownerFault ep slot code detail).MemInv := by
  unfold State.ownerFault
  split
  · exact h.imprecise
  · exact h

theorem State.MemInv.loseSpan {ep slot gone} (h : s.MemInv) : (s.loseSpan ep slot gone).MemInv := h.setRecv.ownerFault

theorem State.MemInv.applyPacket {p} (h : s.MemInv) : (s.applyPacket p).MemInv := by
  unfold State.applyPacket
  split
  · extract_lets s1
    have h1 : s1.MemInv := h.outsideWrite
    split
    · exact .update h1
    · exact h1
  · exact h.foldl fun _ _ ht => ht.outsideWrite

theorem State.MemInv.letIn {p} (h : s.MemInv) : (s.letIn p).2.MemInv := by
  unfold State.letIn
  extract_lets s1 x d
  have h1 : s1.MemInv := h.flits
  split
  · exact h1
  · split
    · exact h1.refusePacket
    · split
      · exact h1
      · split
        · exact h1
        · split
          · exact h1.setRecv.ownerFault
          · exact h1

theorem State.MemInv.deliver {ep slot fuel} (h : s.MemInv) : (State.deliver s ep slot fuel).MemInv := by
  induction fuel generalizing s with
  | zero => exact h
  | succ fuel ih =>
    unfold State.deliver
    extract_lets x c
    split
    · exact h
    · extract_lets s1 s2 s3
      split
      · exact h
      · have h1 : s1.MemInv := State.MemInv.setRecv h.outsideWrite
        exact ih (.traceAfter h1.wake)

theorem execCountedPacketArrive_keepsMem {pkt} (h : s.MemInv) : KeepsMem (execCountedPacketArrive pkt s) := by
  have h1 := h.letIn (p := pkt)
  show State.MemInv _
  split
  · rename_i e
    rw [e] at h1
    exact h1
  · rename_i s1 e
    rw [e] at h1
    extract_lets x c s2 s3
    have h2 : s2.MemInv := State.MemInv.setRecv (s := s1) h1
    refine State.MemInv.deliver ?_
    unfold s3
    split
    · exact h2.applyPacket
    · exact h2.refusePacket

theorem execFlagArrive_keepsMem {pkt} (h : s.MemInv) : KeepsMem (execFlagArrive pkt s) := by
  have h1 := h.letIn (p := pkt)
  show State.MemInv _
  split
  · rename_i e
    rw [e] at h1
    exact h1
  · rename_i e
    rw [e] at h1
    extract_lets x c
    split
    · exact h1
    · split
      · exact State.MemInv.refusePacket h1
      · exact State.MemInv.deliver (.setRecv h1)

theorem execReplayRequest_keepsMem {ep slot} (h : s.MemInv) : KeepsMem (execReplayRequest ep slot s) := by
  show State.MemInv _
  extract_lets x x1
  split
  · exact h
  · split
    · exact h.loseSpan
    · exact h.setRecv.foldl fun _ _ ht => ht.emit

theorem State.MemInv.transmit {p} (h : s.MemInv) : (s.transmit p).MemInv := (transmit_fabric s p).memInv h

theorem State.MemInv.resend {p} (h : s.MemInv) : (s.resend p).MemInv := by
  unfold State.resend
  split
  · exact h
  · split
    · exact h.foldl fun _ _ ht => ht.emit.flits
    · exact h.transmit

theorem State.MemInv.setSend {ep slot x} (h : s.MemInv) : (s.setSend ep slot x).MemInv := .update h

theorem execReplayRequestArrive_keepsMem {ep slot span gen} (h : s.MemInv) :
    KeepsMem (execReplayRequestArrive ep slot span gen s) := by
  show State.MemInv _
  extract_lets st n spans again fresh s1 s2
  split
  · exact h
  · split
    · exact h.emit
    · have h2 : s2.MemInv := .update h.setSend
      exact h2.foldl fun _ _ ht => ht.foldl fun _ _ hu => hu.resend

theorem execReplayGone_keepsMem {ep slot} (h : s.MemInv) : KeepsMem (execReplayGone ep slot s) := h.loseSpan

theorem execSendLogExpiry_keepsMem {ep slot span} (h : s.MemInv) : KeepsMem (execSendLogExpiry ep slot span s) :=
  State.MemInv.update h

theorem execProtectionNotice_keepsMem {pkt} (h : s.MemInv) : KeepsMem (execProtectionNotice pkt s) := by
  show State.MemInv _
  split
  · exact h.imprecise
  · exact h

theorem State.MemInv.remoteBarrier {dctx p kind x y} (h : s.MemInv) : (s.remoteBarrier dctx p kind x y).MemInv := by
  unfold State.remoteBarrier
  extract_lets b low s1
  split
  · split
    · exact h
    · exact h.putBarrier.phaseChanged
  · split
    · exact h.putBarrier
    · exact h
  · split
    · exact h.putBarrier
    · exact h
  · exact h.endBarrierOp
  · have h1 : s1.MemInv := by
      unfold s1
      split
      · exact h.imprecise
      · exact h
    exact h1.putBarrier
  · exact h

theorem State.MemInv.performRemote {r} (h : s.MemInv) : (s.performRemote r).MemInv := by
  unfold State.performRemote
  split
  · exact h
  · exact h.outsideWrite
  · exact h.outsideWrite
  · exact h.remoteBarrier

theorem execRemoteRequestArrive_keepsMem {req} (h : s.MemInv) : KeepsMem (execRemoteRequestArrive req s) := by
  show State.MemInv _
  extract_lets s1
  have h1 : s1.MemInv := h.flits
  split
  · exact h1.protect.emit
  · split
    · exact h1.emit
    · split
      · exact .update h1
      · exact h1.performRemote.emit

theorem State.MemInv.remotePhase {r} (h : s.MemInv) : (s.remotePhase r).MemInv := by
  unfold State.remotePhase
  split
  · split
    · exact h.wake
    · exact h
  · exact h

theorem execRemoteResponseArrive_keepsMem {id status bytes} (h : s.MemInv) :
    KeepsMem (execRemoteResponseArrive id status bytes s) := by
  show State.MemInv _
  split
  · exact h
  · extract_lets s1 got s2
    have h1 : s1.MemInv := h.flits
    split
    · exact State.MemInv.remotePhase (.update h1)
    · split
      · exact .update h1
      · exact State.MemInv.reloadAll (.update h1)

theorem execWcbAgeExpiry_keepsMem {core key} (h : s.MemInv) : KeepsMem (execWcbAgeExpiry core key s) := h.drainWcb

/-! Ports, links and the time master -/

theorem State.MemInv.withPort {p x} (h : s.MemInv) : (s.withPort p x).MemInv := .update h

theorem execPathHoldExpiry_keepsMem {line} (h : s.MemInv) : KeepsMem (execPathHoldExpiry line s) := by
  show State.MemInv _
  extract_lets hold mine s1
  split
  · exact h
  · refine State.MemInv.foldl (s := s1) (.update h) fun t p ht => ?_
    split
    · exact ht.sendCounted
    · split
      · exact ht.transmit
      · exact ht

theorem execTimeBeaconSend_keepsMem (h : s.MemInv) : KeepsMem (execTimeBeaconSend s) := by
  show State.MemInv _
  split
  · exact .update (h.foldl fun _ _ ht => ht.emit)
  · exact h

theorem execTimeBeaconArrive_keepsMem {ts} (h : s.MemInv) : KeepsMem (execTimeBeaconArrive ts s) := by
  show State.MemInv _
  split
  · exact h
  · exact .update h

theorem State.MemInv.wearNow {u f} (h : s.MemInv) : (s.wearNow u f).MemInv := .update h

theorem State.MemInv.ownWord {port trains} (h : s.MemInv) : (s.ownWord port trains).2.MemInv := .update h

theorem execLinkTraining_keepsMem {port} (h : s.MemInv) : KeepsMem (execLinkTraining port s) := by
  show State.MemInv _
  split
  · extract_lets x n
    have h1 := State.MemInv.ownWord (s := s.countTraining port) (port := port) (trains := n) h.wearNow
    exact State.MemInv.emit (.withPort h1)
  · exact h

theorem State.MemInv.trainingFails {port} (h : s.MemInv) : (s.trainingFails port).MemInv := by
  unfold State.trainingFails
  extract_lets x y s1
  split
  · exact State.MemInv.devFault h.withPort
  · exact h.withPort

theorem execLinkStateWordArrive_keepsMem {port word sigOk} (h : s.MemInv) :
    KeepsMem (execLinkStateWordArrive port word sigOk s) := by
  show State.MemInv _
  extract_lets x same s1
  split
  · exact h
  · split
    · exact h.trainingFails
    · split
      · exact h.withPort
      · exact State.MemInv.devFault h.withPort

theorem execLinkTrainTimeout_keepsMem {port} (h : s.MemInv) : KeepsMem (execLinkTrainTimeout port s) := by
  show State.MemInv _
  split
  · split
    · exact h.trainingFails
    · exact h
  · exact h

theorem execPortLinkLoss_keepsMem {port} (h : s.MemInv) : KeepsMem (execPortLinkLoss port s) := by
  show State.MemInv _
  split
  · exact h.withPort
  · exact h

theorem execCxlLinkDown_keepsMem {port} (h : s.MemInv) : KeepsMem (execCxlLinkDown port s) := by
  show State.MemInv _
  split
  · exact State.MemInv.devFault (.update h)
  · exact h

/-! Boot and power -/

theorem State.MemInv.restart (h : s.MemInv) : s.restart.MemInv := restart_wf s h

theorem State.MemInv.cut (h : s.MemInv) : s.cut.MemInv := .update h.restart

theorem State.MemInv.retryStart (h : s.MemInv) : s.retryStart.MemInv := .update h.restart

theorem execPowerGood_keepsMem (h : s.MemInv) : KeepsMem (execPowerGood s) := by
  show State.MemInv _
  split
  · exact h
  · exact h.restart

theorem execPowerOff_keepsMem (h : s.MemInv) : KeepsMem (execPowerOff s) := by
  show State.MemInv _
  split
  · exact h.cut
  · exact h

theorem execRetry_keepsMem (h : s.MemInv) : KeepsMem (execRetry s) := by
  show State.MemInv _
  split
  · exact h.retryStart
  · exact h

theorem State.MemInv.failStart {cause} (h : s.MemInv) : (s.failStart cause).MemInv := by
  unfold State.failStart
  extract_lets flash s1
  have h1 : s1.MemInv := .update h
  split
  · exact .update h1
  · exact h1.restart

theorem State.MemInv.beginStage1 (h : s.MemInv) : s.beginStage1.MemInv :=
  .update (h.foldl fun _ _ ht => ht.wearNow)

theorem State.MemInv.train {trained} (h : s.MemInv) : (s.train trained).MemInv := by
  unfold State.train
  split
  · exact .update h
  · exact .update h

theorem State.MemInv.closeTraining (h : s.MemInv) : s.closeTraining.MemInv := by
  unfold State.closeTraining
  split
  · exact h
  · exact .update h

theorem State.MemInv.stageDone {ms trained} (h : s.MemInv) : (s.stageDone ms trained).MemInv := by
  unfold State.stageDone
  extract_lets goTo
  have hgo : ∀ (t : State) n, t.MemInv → (goTo t n).MemInv := fun _ _ ht => .update ht
  split
  · exact .beginStage1 (.update h)
  · split
    · exact h.failStart
    · exact hgo _ _ (.update h)
  · exact hgo _ _ (.update h)
  · exact hgo _ _ h.train
  · exact hgo _ _ (.update h.closeTraining)
  · exact .update (zeroModule_wf s h)

theorem execBootStageDone_keepsMem {out} (h : s.MemInv) : KeepsMem (execBootStageDone out s) := by
  show State.MemInv _
  split
  · split
    · exact h.stageDone
    · exact h.failStart
  · exact h

theorem execBootTimeout_keepsMem (h : s.MemInv) : KeepsMem (execBootTimeout s) := by
  show State.MemInv _
  split
  · exact h.failStart
  · exact h

/-! Fenced cores and soft errors -/

theorem State.MemInv.lostThreads {asid rid core tids} (h : s.MemInv) : (s.lostThreads asid rid core tids).MemInv := h.ctxFault

theorem State.MemInv.loseGroup {g} (h : s.MemInv) : (s.loseGroup g).MemInv := by
  unfold State.loseGroup
  extract_lets quads s1
  exact State.MemInv.foldl (s := s1) (.update h) fun _ _ ht => ht.lostThreads

theorem State.MemInv.loseRec {r} (h : s.MemInv) : (s.loseRec r).MemInv := State.MemInv.lostThreads (.update h)

theorem State.MemInv.moveOff {core r} (h : s.MemInv) : (s.moveOff core r).MemInv := by
  unfold State.moveOff
  split
  · exact h
  · split
    · split
      · exact h.onRecs
      · exact h.loseRec
    · extract_lets s1 s2
      have h2 : s2.MemInv := State.MemInv.onRecs h.drainWcb
      split
      · exact h2
      · exact h2.sentOut

theorem State.MemInv.endLost (h : s.MemInv) : s.endLost.MemInv := h.foldl fun _ _ ht => ht.endBlocks

theorem State.MemInv.fenceCore {core byCommand} (h : s.MemInv) : (s.fenceCore core byCommand).MemInv := by
  unfold State.fenceCore
  extract_lets off part ident s1 s2 s3 s4 s5 s6 s7 flash s8
  have h2 : s2.MemInv := .foldl (.update (.update h)) fun _ _ ht => ht.terminate
  have h3 : s3.MemInv := .update h2
  have h4 : s4.MemInv := h3.foldl fun _ _ ht => ht.loseGroup
  have h5 : s5.MemInv := h4.foldl fun _ _ ht => ht.loseRec
  have h6 : s6.MemInv := h5.foldl fun _ _ ht => ht.moveOff
  have h7 : s7.MemInv := .endLost (.settle (.update h6))
  split
  · exact h
  · exact .devFault (.update h7)

theorem State.MemInv.countCorrected {e} (h : s.MemInv) : (s.countCorrected e).MemInv := by
  unfold State.countCorrected
  extract_lets c s1
  have h1 : s1.MemInv := .update h
  split
  · exact h1.devFault
  · exact h1

theorem State.MemInv.poisonUnit {e} (h : s.MemInv) : (s.poisonUnit e).MemInv := by
  unfold State.poisonUnit
  split
  · unfold State.poisonReg
    split
    · exact h
    · extract_lets n
      split
      · exact .update h
      · exact h
  · exact .update h
  · exact .update h
  · exact .update h

theorem execSoftErrorDetect_keepsMem {err} (h : s.MemInv) : KeepsMem (execSoftErrorDetect err s) := by
  show State.MemInv _
  extract_lets c s1
  split
  · exact h
  · split
    · exact h.countCorrected
    · split
      · exact State.MemInv.countCorrected (.update h)
      · have h1 : s1.MemInv := .devFault (.update h)
        split
        · exact h1.fenceCore
        · exact h1.poisonUnit

/-! Heat and wear -/

theorem State.MemInv.setSteps {unit t} (h : s.MemInv) : (s.setSteps unit t).MemInv := .update h

theorem State.MemInv.heatFault {unit temp down} (h : s.MemInv) : (s.heatFault unit temp down).MemInv := h.devFault

theorem State.MemInv.stepDown {unit temp} (h : s.MemInv) : (s.stepDown unit temp).MemInv := by
  unfold State.stepDown
  extract_lets t
  split
  · exact h.setSteps.heatFault
  · exact .update h

theorem execThermalThrottle_keepsMem {unit temp} (h : s.MemInv) : KeepsMem (execThermalThrottle unit temp s) := by
  show State.MemInv _
  split
  · exact h.stepDown
  · exact h

theorem execThermalRelease_keepsMem {unit temp} (h : s.MemInv) : KeepsMem (execThermalRelease unit temp s) := by
  show State.MemInv _
  extract_lets t
  split
  · exact h.setSteps.heatFault
  · exact h

theorem execModulePowerCap_keepsMem {unit watts} (h : s.MemInv) : KeepsMem (execModulePowerCap unit watts s) := by
  show State.MemInv _
  split
  · exact h.stepDown
  · exact h

theorem execThermalTrip_keepsMem {unit} (h : s.MemInv) : KeepsMem (execThermalTrip unit s) := by
  show State.MemInv _
  split
  · exact State.MemInv.emit (.cut (.update h))
  · exact h

theorem execUnitTemperatureChange_keepsMem {unit temp secs} (h : s.MemInv) :
    KeepsMem (execUnitTemperatureChange unit temp secs s) := by
  show State.MemInv _
  extract_lets t cycle s1
  split
  · exact h
  · split
    extract_lets count
    have h1 : s1.MemInv := .update h
    split
    · exact .update h1
    · exact h1

theorem State.MemInv.flushWear (h : s.MemInv) : s.flushWear.MemInv := .update h

theorem execWearFlush_keepsMem (h : s.MemInv) : KeepsMem (execWearFlush s) := by
  show State.MemInv _
  split
  · exact h.flushWear
  · exact h

/-! The mailbox -/

theorem State.MemInv.free {v t} (h : s.MemInv) (e : s.free = (v, t)) : t.MemInv := by
  cases e
  exact .update h

theorem State.MemInv.replyOpen {c} (h : s.MemInv) : (s.replyOpen c).MemInv := State.MemInv.reply (.update h)

theorem State.MemInv.command {c k} (h : s.MemInv) (hk : (k s).MemInv) : KeepsMem (s.command c k) := by
  show State.MemInv _
  split
  · exact hk
  · exact h

theorem execRegisterCtx_keepsMem {cmd desc} (h : s.MemInv) : KeepsMem (execRegisterCtx cmd desc s) := by
  refine h.command ?_
  extract_lets a old c s1
  split
  · exact h.reply
  · have h1 : s1.MemInv := by
      unfold s1
      split
      · exact h.setCtx
      · exact .update h.setCtx
    exact h1.reply

theorem State.MemInv.terminateLaunches {a} (h : s.MemInv) : (s.terminateLaunches a).MemInv :=
  h.foldl fun _ _ ht => ht.complete

theorem State.MemInv.stripCtx {a} (h : s.MemInv) : (s.stripCtx a).MemInv := .update h

theorem State.MemInv.endCtx {cmd a} (h : s.MemInv) : (s.endCtx cmd a).MemInv :=
  State.MemInv.endOver (.setCtx (.stripCtx (.terminateLaunches h.drainWcb)))

theorem execDeregisterCtx_keepsMem {cmd asid} (h : s.MemInv) : KeepsMem (execDeregisterCtx cmd asid s) := by
  refine h.command ?_
  split
  · exact h.replyOpen
  · exact h.reply
  · exact h.reply
  · split
    · exact h.reply
    · exact h.endCtx
  · split
    · exact h.reply
    · exact h.endCtx

theorem State.MemInv.placeCode {asid p data t} (h : s.MemInv) : s.placeCode asid p data = .ok t → t.MemInv := by
  unfold State.placeCode
  extract_lets c n
  split
  rename_i e1
  split
  rename_i e2
  have h2 := State.MemInv.free (h.free e1) e2
  extract_lets dataAt s3 s4
  have h3 : s3.MemInv := by
    unfold s3
    split
    · exact h
    · exact h2.vPoke
  have h4 : s4.MemInv := h3.vPoke.vPoke
  split
  · rintro ⟨⟩
  · split
    · rintro ⟨⟩
    · rintro ⟨⟩
      exact .update h4

theorem execLoadCode_keepsMem {cmd asid obj size} (h : s.MemInv) : KeepsMem (execLoadCode cmd asid obj size s) := by
  refine h.command ?_
  extract_lets o
  split
  · exact h.reply
  · split
    · exact State.MemInv.reply (.update h)
    · exact h.reply
    · split
      · exact h.reply
      · rename_i e
        exact (h.placeCode e).reply

theorem execQueueEnable_keepsMem {cmd q ring log2n task asid} (h : s.MemInv) :
    KeepsMem (execQueueEnable cmd q ring log2n task asid s) := by
  refine h.command ?_
  split
  · exact h.reply
  · split
    · exact h.replyOpen
    · exact State.MemInv.reply h.setQueue

theorem execQueueDisable_keepsMem {cmd q} (h : s.MemInv) : KeepsMem (execQueueDisable cmd q s) := by
  refine h.command ?_
  split
  · exact h.reply
  · exact State.MemInv.reply h.setQueue

theorem execEndpointSet_keepsMem {cmd ep} (h : s.MemInv) : KeepsMem (execEndpointSet cmd ep s) := by
  refine h.command ?_
  split
  · exact h.reply
  · exact State.MemInv.reply (.update h)

theorem execSlotAssign_keepsMem {cmd peer slot dctx} (h : s.MemInv) : KeepsMem (execSlotAssign cmd peer slot dctx s) := by
  refine h.command ?_
  extract_lets o
  split
  · exact h.reply
  · exact State.MemInv.reply (.update h)

theorem execSlotReset_keepsMem {cmd peer slot receiver value} (h : s.MemInv) :
    KeepsMem (execSlotReset cmd peer slot receiver value s) := by
  refine h.command ?_
  split
  · exact State.MemInv.reply (.wake h.setRecv)
  · exact State.MemInv.reply h.setSend

theorem execSetTimeMaster_keepsMem {cmd ep} (h : s.MemInv) : KeepsMem (execSetTimeMaster cmd ep s) :=
  h.command (.reply (.update h))

theorem execLinkEnable_keepsMem {cmd port} (h : s.MemInv) : KeepsMem (execLinkEnable cmd port s) := by
  refine h.command ?_
  split
  · exact State.MemInv.reply h.withPort
  · exact h.reply

theorem execAttest_keepsMem {cmd asid nonce report} (h : s.MemInv) : KeepsMem (execAttest cmd asid nonce report s) := by
  refine h.command ?_
  split
  · exact h.reply
  · exact State.MemInv.reply (poke_wf _ _ _ h)

theorem execCoreFence_keepsMem {cmd core} (h : s.MemInv) : KeepsMem (execCoreFence cmd core s) := by
  refine h.command ?_
  split
  · exact h.fenceCore.reply
  · exact h.reply

theorem execFenceClear_keepsMem {cmd} (h : s.MemInv) : KeepsMem (execFenceClear cmd s) :=
  h.command (.reply (.update h))

/-! Matrix operations -/

theorem State.MemInv.multiply {t z int cyc ra rb} (h : s.MemInv) : (s.multiply t z int cyc ra rb).MemInv := by
  unfold State.multiply
  extract_lets key old bad pairs res s1
  have h1 : s1.MemInv := by
    unfold s1
    split
    · exact h.impreciseGroup
    · exact h
  exact .update h1.setTile

theorem State.MemInv.withFormat {f kind k} (h : s.MemInv) (hk : ∀ w, (k w).MemInv) : (s.withFormat f kind k).MemInv := by
  unfold State.withFormat
  extract_lets act word w
  split
  · exact h
  · split
    · exact h
    · exact hk _

theorem execMma_keepsMem {f} (h : s.MemInv) : KeepsMem (execMma f s) := by
  refine h.tileWord fun t ht => ht.withFormat fun w => ?_
  extract_lets la lb a b
  split
  · exact ht.failRes
  · split
    · exact ht.failRes
    · exact ht.multiply

theorem execMmas_keepsMem {f} (h : s.MemInv) : KeepsMem (execMmas f s) := by
  refine h.tileWord fun t ht => ht.withFormat fun w => ?_
  extract_lets la lb ks wide a b base nb groups
  split
  · exact ht.failRes
  · split
    · exact ht.failRes
    · extract_lets o
      split
      · exact ht
      · exact ht.multiply

theorem execUdesc_keepsMem {f} (h : s.MemInv) : KeepsMem (execUdesc f s) := by
  refine h.word fun t ht => ?_
  split
  · exact ht.failRes
  · split
    · exact ht.failRes
    · extract_lets s1 x
      have h1 : s1.MemInv := touchAll_wf _ _ _ _ ht
      split
      · exact ht
      · split
        · rename_i e
          exact ht.askAll_wait e
        · exact ht.failRes
        · split
          · exact State.MemInv.update h1
          · exact h1

theorem execMmau_keepsMem {f} (h : s.MemInv) : KeepsMem (execMmau f s) := by
  refine h.tileWord fun t ht => ht.withFormat fun w => ?_
  extract_lets u lb b
  split
  · exact ht
  · split
    · exact ht.failRes
    · split
      · exact ht.failRes
      · exact ht.multiply

theorem execMatrixOpComplete_keepsMem {op} (h : s.MemInv) : KeepsMem (execMatrixOpComplete op s) := by
  show State.MemInv _
  split
  · exact h
  · extract_lets owner s1 s2
    have h2 : s2.MemInv := .settle (.mapGroups (.mapRecs (.update h)))
    clear_value owner
    split
    · exact h
    · split
      · exact h2.progress
      · exact h2

/-! Switches of contexts -/

theorem execSwitchOut_keepsMem {cmd asid} (h : s.MemInv) : KeepsMem (execSwitchOut cmd asid s) := by
  refine h.command ?_
  extract_lets c
  split
  · exact h.replyOpen
  · split
    · exact h.reply
    · exact State.MemInv.beginSwitch h.setCtx

theorem State.MemInv.flushOut {r t k} (h : s.MemInv) : (s.flushOut r t k).2.MemInv := by
  unfold State.flushOut
  extract_lets drop
  have hdrop : ∀ u : State, u.MemInv → (drop u).MemInv := fun _ hu => .update hu
  have h1 := h.flushKept (k := k) (slot := t)
  split
  · exact h
  · split
    · rename_i e
      rw [e] at h1
      exact hdrop _ h1
    · rename_i e
      rw [e] at h1
      exact h1
    · rename_i e
      rw [e] at h1
      exact hdrop _ (.update h1)

theorem State.MemInv.flushAllOut {asid} (h : s.MemInv) : (s.flushAllOut asid).2.MemInv := by
  refine h.foldl_snd fun b t r ht => ?_
  split
  · refine ht.foldl_snd fun b u x hu => ?_
    split
    · exact hu.flushOut
    · exact hu
  · exact ht

theorem State.MemInv.writeFrames {asid} (h : s.MemInv) : (s.writeFrames asid).MemInv := by
  refine h.foldl fun t i ht => ?_
  split
  · exact ht.vPoke
  · exact ht

theorem State.MemInv.finishOut {asid} (h : s.MemInv) : (s.finishOut asid).MemInv := by
  unfold State.finishOut
  extract_lets s1 s2 c s3 last s4
  have h1 : s1.MemInv := .update h
  have h3 : s3.MemInv := .trace (.setCtx h1.writeFrames)
  have h4 : s4.MemInv := by
    unfold s4
    split
    · exact h3.flushWear
    · exact h3
  split
  · exact h4.reply
  · exact h4

theorem execSwitchOutDone_keepsMem {asid} (h : s.MemInv) : KeepsMem (execSwitchOutDone asid s) := by
  show State.MemInv _
  extract_lets c s1
  have h1 : s1.MemInv := .setCtx (.drainWcb (.update h))
  have h2 := h1.flushAllOut (asid := asid)
  split
  · split
    · rename_i e
      rw [e] at h2
      exact State.MemInv.finishOut h2
    · rename_i e
      rw [e] at h2
      exact h2
  · exact h

theorem execSwitchIn_keepsMem {cmd asid} (h : s.MemInv) : KeepsMem (execSwitchIn cmd asid s) := by
  refine h.command ?_
  extract_lets c
  split
  · exact h.reply
  · split
    · exact h.replyOpen
    · exact h.setCtx

theorem State.MemInv.restoreBlocks {all l t} (h : s.MemInv) : State.restoreBlocks all l s = some t → t.MemInv := by
  induction l generalizing s with
  | nil =>
    rintro ⟨⟩
    exact h
  | cons x l ih =>
    unfold State.restoreBlocks
    split
    · exact ih (restoreBlock_wf _ _ _ _ h)
    · rintro ⟨⟩

theorem State.MemInv.applyFrame {asid i f} (h : s.MemInv) : (s.applyFrame asid i f).MemInv := by
  unfold State.applyFrame
  extract_lets c mine free key gone s1
  have h1 : s1.MemInv := .update h
  split
  · exact .update h
  · exact .update h
  · exact h1.foldl fun _ _ ht => ht.endBlocks

theorem State.MemInv.applyFrames {asid} (h : s.MemInv) : (s.applyFrames asid).MemInv := by
  unfold State.applyFrames
  extract_lets fs s1
  have h1 : s1.MemInv := by
    refine h.foldl fun t i ht => ?_
    split
    · exact ht.applyFrame
    · exact ht
  exact h1.setCtx

theorem State.MemInv.resumeQueues {asid} (h : s.MemInv) : (s.resumeQueues asid).MemInv := by
  unfold State.resumeQueues
  extract_lets back s1
  exact State.MemInv.foldl (s := s1) (.update h) fun _ _ ht => ht.settleQueue

theorem execSwitchInDone_keepsMem {asid place} (h : s.MemInv) : KeepsMem (execSwitchInDone asid place s) := by
  show State.MemInv _
  extract_lets c bs rebuilt
  split
  · split
    · exact h
    · split
      · exact h
      · rename_i e
        have h1 := h.restoreBlocks e
        extract_lets c1 s2 s3 s4
        have h3 : s3.MemInv := .applyFrames (.update (.setCtx h1))
        have h4 : s4.MemInv := .joinVt (.settle (.update h3))
        exact h4.resumeQueues.trace.reply
  · exact h

/-! Registers, the aperture and the host -/

theorem State.MemInv.writeMbx {fn v} (h : s.MemInv) : (s.writeMbx fn v).MemInv := by
  unfold State.writeMbx
  extract_lets m
  split
  · exact h
  · split
    · exact .update h
    · exact .update h

theorem State.MemInv.writePart {p o v} (h : s.MemInv) : (s.writePart p o v).MemInv := by
  unfold State.writePart
  extract_lets x hole
  split
  · exact h.setPart
  · split
    · exact h.setPart
    · split
      · split
        · exact h.unfreeze
        · exact h
      · exact h

theorem State.MemInv.writeFabCtl {v} (h : s.MemInv) : (s.writeFabCtl v).MemInv := by
  unfold State.writeFabCtl
  extract_lets x
  split
  · exact h
  · exact .update h

theorem State.MemInv.writeErr {die o v} (h : s.MemInv) : (s.writeErr die o v).MemInv := by
  unfold State.writeErr
  extract_lets c
  split
  · exact .update h
  · split
    · exact .update h
    · exact h

theorem State.MemInv.writeRange {i v} (h : s.MemInv) : (s.writeRange i v).MemInv := .update h

theorem State.MemInv.setMig {tier m} (h : s.MemInv) : (s.setMig tier m).MemInv := .update h

theorem State.MemInv.writeMig {tier j v} (h : s.MemInv) : (s.writeMig tier j v).MemInv := by
  unfold State.writeMig
  extract_lets m n
  split
  · exact h.setMig
  · exact h.setMig
  · exact h.setMig
  · exact h.setMig
  · exact h.setMig
  · exact h.setMig
  · exact h

theorem State.MemInv.writeOwn {o v} (h : s.MemInv) : (s.writeOwn o v).MemInv := by
  unfold State.writeOwn
  split
  · exact .update h
  · exact .update h
  · exact .update h
  · exact h.writeTlbi
  · exact h.writePart
  · exact h.writeErr
  · split
    · exact .update h
    · exact h
  · exact h.writeRange
  · split
    · exact h.writeFabCtl
    · split
      · exact .update h
      · split
        · split
          · exact h.retryStart
          · exact h
        · exact h

theorem State.MemInv.writeReg {r v} (h : s.MemInv) : (s.writeReg r v).MemInv := by
  unfold State.writeReg
  extract_lets fn o
  split
  · exact h
  · split
    · split
      · exact h.writeMig
      · exact h.withPort
      · exact h
    · split
      · exact h
      · split
        · exact h.writeMbx
        · split
          · split
            · exact h.doorbell
            · exact h
          · split
            · exact h.writeOwn
            · exact h

theorem State.MemInv.rejectAperture {asid off x reason} (h : s.MemInv) : (s.rejectAperture asid off x reason).MemInv :=
  State.MemInv.imprecise h.setCtx

theorem State.MemInv.storeAperture {asid off x} (h : s.MemInv) : (s.storeAperture asid off x).MemInv := by
  unfold State.storeAperture
  split
  · exact h
  · split
    · exact h.rejectAperture
    · exact State.MemInv.refill (.update h)

theorem execApertureStore_keepsMem {asid off x} (h : s.MemInv) : KeepsMem (execApertureStore asid off x s) :=
  State.MemInv.storeAperture (.update h)

theorem State.MemInv.hostPoke {loc b} (h : s.MemInv) : (s.hostPoke loc b).MemInv := by
  unfold State.hostPoke
  split
  · exact .update h
  · exact h.outsideWrite

theorem State.MemInv.hostBytes {pa n l t} (h : s.MemInv) : s.hostBytes pa n = (l, t) → t.MemInv := by
  delta State.hostBytes
  refine natBrecOn_induct (fun _ (f : State → Nat → List Byte × State) => ∀ s pa l t, s.MemInv → f s pa = (l, t) → t.MemInv)
    _ ?zero ?succ n s pa l t h
  case zero =>
    rintro _ _ _ _ _ h ⟨⟩
    exact h
  case succ =>
    intro n b ih s pa l t h
    rw [show @State.hostBytes._f = _ from by delta State.hostBytes._f; rfl]
    obtain ⟨inside, ei⟩ : ∃ f, State.barMemory = f := ⟨_, rfl⟩
    obtain ⟨own, eo⟩ : ∃ f, State.recordByte = f := ⟨_, rfl⟩
    rw [ei, eo]
    clear ei eo
    dsimp only
    rintro ⟨⟩
    refine ih _ _ _ _ ?_ rfl
    split
    · exact h
    · exact .update h

theorem execHostAccess_keepsMem {acc} (h : s.MemInv) : KeepsMem (execHostAccess acc s) := by
  show State.MemInv _
  split
  · exact h
  · cases acc with
    | writeMem pa bs =>
      refine h.foldl fun t c ht => ?_
      split
      · exact ht.hostPoke
      · exact ht
    | readMem pa n => exact State.MemInv.emit (h.hostBytes rfl)
    | writeReg r v => exact h.writeReg
    | readReg r =>
      dsimp only
      split
      · exact h.emit
      · exact State.MemInv.emit (.update h)
    | aperture asid off x => exact h.storeAperture
    | readAperture asid off => exact h.emit

/-! Every instruction and event -/

theorem State.MemInv.int1 {i f op} (h : s.MemInv) : KeepsMem (s.int1 i f op) := h.alu

theorem State.MemInv.int2 {i f op} (h : s.MemInv) : KeepsMem (s.int2 i f op) := h.alu

theorem State.MemInv.bits1 {i f op} (h : s.MemInv) : KeepsMem (s.bits1 i f op) := h.alu

theorem State.MemInv.bits2 {i f op} (h : s.MemInv) : KeepsMem (s.bits2 i f op) := h.alu

theorem State.MemInv.bits3 {i f op} (h : s.MemInv) : KeepsMem (s.bits3 i f op) := h.alu

theorem State.MemInv.minmax {i f mx} (h : s.MemInv) : KeepsMem (s.minmax i f mx) := h.alu

theorem State.MemInv.func {i f fn} (h : s.MemInv) : KeepsMem (s.func i f fn) := h.alu

theorem State.MemInv.float1 {i f x} (h : s.MemInv) : KeepsMem (s.float1 i f x) := h.rounding

theorem State.MemInv.packed {i f x} (h : s.MemInv) : KeepsMem (s.packed i f x) := h.rounding

theorem State.MemInv.addrSum {i f sg} (h : s.MemInv) : KeepsMem (s.addrSum i f sg) := h.checkedAlu

theorem execDot4_keepsMem {f} (h : s.MemInv) : KeepsMem (execDot4 f s) := by
  unfold execDot4
  exact h.alu

theorem execAdiff_keepsMem {f} (h : s.MemInv) : KeepsMem (execAdiff f s) := by
  unfold execAdiff
  exact h.checkedAlu

theorem exec_keepsMem (i : Instr) (h : s.MemInv) : KeepsMem (exec i s) := by
  unfold exec
  cases i with
  | iadd _ | isub _ | imul _ | imulh _ | imin _ | imax _ => exact h.int2
  | iaddc _ | isubb _ => exact h.carryOp
  | imad _ | imad64 _ | sel _ | mov _ | movi _ | fclass _ | ppack _ | qswz _ | qxch _ | qred _ | gballot _
  | gshfl _ | gbcst _ | gred _ | gscan _ | gmatch _ | gtopk _ | gcount _ | hint1 _ => exact h.alu
  | iabs _ | ineg _ => exact h.int1
  | dot4 _ => exact execDot4_keepsMem h
  | and _ | or _ | xor _ | andn _ | shl _ | shr _ | sar _ | rotl _ | bfx _ => exact h.bits2
  | not _ | popc _ | clz _ | ctz _ | brev _ => exact h.bits1
  | bfi _ | prmt _ => exact h.bits3
  | movw _ => exact execMovw_keepsMem h
  | wmov _ | sptest _ | hint0 _ => exact h.word fun _ ht => State.MemInv.update ht
  | aadd _ | asub _ => exact h.addrSum
  | adiff _ => exact execAdiff_keepsMem h
  | acmp _ => exact execAcmp_keepsMem h
  | amovi _ => exact h.checkedAlu
  | spcast _ => exact execSpcast_keepsMem h
  | fadd _ | fsub _ | fmul _ | ffma _ | frcp _ | fsqrt _ | fscale _ => exact h.float1
  | fmin _ | fmax _ => exact h.minmax
  | frsq _ | fex2 _ | flg2 _ | fsin _ | fcos _ | ftanh _ => exact h.func
  | frnd _ | fcvt _ | ficvt _ | pkcvt _ | qdiff _ => exact h.rounding
  | icvt _ => exact execIcvt_keepsMem h
  | pkadd _ | pkmul _ | pkfma _ => exact h.packed
  | icmp _ | fcmp _ | pset _ | pand _ | por _ | pxor _ | pnot _ | pmov _ | qhelp _ | gvote _ | ktest _ => exact h.aluP
  | punpk _ | punpkMask _ => exact h.unpack
  | nop _ | hintUnimplemented _ _ => exact h.word fun _ ht => ht
  | bra _ | brc _ | call _ => exact h.branch
  | brx _ | callx _ | ret _ => exact h.indirect
  | meet _ | meetClear _ => exact h.setMr
  | exit _ => exact execExit_keepsMem h
  | park _ => exact execPark_keepsMem h
  | yield _ | await _ => exact h.word fun _ ht => ht.segEnd
  | ld _ => exact execLd_keepsMem h
  | st _ => exact execSt_keepsMem h
  | ldw _ => exact execLdw_keepsMem h
  | stw _ => exact execStw_keepsMem h
  | ldx _ => exact execLdx_keepsMem h
  | stx _ => exact execStx_keepsMem h
  | nibst _ => exact execNibst_keepsMem h
  | atom _ => exact execAtom_keepsMem h
  | atomw _ => exact execAtomw_keepsMem h
  | pref _ => exact execPref_keepsMem h
  | dcz _ => exact execDcz_keepsMem h
  | llock _ => exact execLlock_keepsMem h
  | lulock _ => exact execLulock_keepsMem h
  | cwb _ | cinv _ | icinv _ => exact h.maintWord
  | fence _ => exact execFence_keepsMem h
  | tbinit _ => exact execTbinit_keepsMem h
  | tbarv _ => exact h.arriveWord
  | tbexp _ => exact execTbexp_keepsMem h
  | tbwait _ => exact execTbwait_keepsMem h
  | tbphase _ => exact execTbphase_keepsMem h
  | qinit _ => exact execQinit_keepsMem h
  | qpush _ => exact execQpush_keepsMem h
  | qpop _ => exact execQpop_keepsMem h
  | qtryPop _ => exact execQtryPop_keepsMem h
  | qtryPush _ => exact execQtryPush_keepsMem h
  | qgrant _ => exact execQgrant_keepsMem h
  | qstat _ => exact execQstat_keepsMem h
  | mma _ => exact execMma_keepsMem h
  | mmau _ => exact execMmau_keepsMem h
  | mmas _ => exact execMmas_keepsMem h
  | udesc _ => exact execUdesc_keepsMem h
  | aclr _ => exact execAclr_keepsMem h
  | ald _ => exact execAld_keepsMem h
  | aldSparse _ => exact execAldSparse_keepsMem h
  | ast _ => exact execAst_keepsMem h
  | asts _ => exact execAsts_keepsMem h
  | acvt _ => exact execAcvt_keepsMem h
  | aquant _ => exact execAquant_keepsMem h
  | atopk _ => exact execAtopk_keepsMem h
  | aredr _ => exact execAredr_keepsMem h
  | abind _ => exact execAbind_keepsMem h
  | aunbind _ => exact execAunbind_keepsMem h
  | aunbindFlush _ => exact execAunbindFlush_keepsMem h
  | aflush _ => exact execAflush_keepsMem h
  | kset _ | ksetMask _ | kand _ | kor _ | knot _ | ktestMask _ => exact h.kWord
  | matrixOpComplete _ => exact execMatrixOpComplete_keepsMem h
  | xtmpl _ => exact execXtmpl_keepsMem h
  | xcopy _ => exact execXcopy_keepsMem h
  | xgath _ | xscat _ => exact h.gatherWord
  | sinter _ | smerge _ => exact h.streamWord
  | mred _ => exact execMred_keepsMem h
  | mrcv _ => exact execMrcv_keepsMem h
  | mrselOpen _ => exact execMrselOpen_keepsMem h
  | mrselClose _ => exact execMrselClose_keepsMem h
  | xslot _ => exact execXslot_keepsMem h
  | xstc _ => exact execXstc_keepsMem h
  | xflag _ => exact execXflag_keepsMem h
  | xflagSend _ => exact execXflagSend_keepsMem h
  | htclaim _ => exact execHtclaim_keepsMem h
  | htfree _ => exact execHtfree_keepsMem h
  | htins _ => exact execHtins_keepsMem h
  | htprobe _ => exact execHtprobe_keepsMem h
  | htdel _ => exact execHtdel_keepsMem h
  | htacc _ => exact execHtacc_keepsMem h
  | htdrain _ => exact execHtdrain_keepsMem h
  | htstat _ => exact execHtstat_keepsMem h
  | sread _ => exact execSread_keepsMem h
  | swrite _ => exact execSwrite_keepsMem h
  | tstamp _ => exact execTstamp_keepsMem h
  | trap _ | bkpt _ => exact h.word fun _ ht => ht.trapRes
  | tret _ | tretSkip _ => exact h.word fun _ ht => ht.trapReturnRes
  | ecall _ => exact execEcall_keepsMem h
  | ecallReply _ _ => exact execEcallReply_keepsMem h
  | launch _ => exact execLaunch_keepsMem h
  | tkrsv _ => exact execTkrsv_keepsMem h
  | tkpub _ => exact execTkpub_keepsMem h
  | tksig _ => exact execTksig_keepsMem h
  | clauseStart => exact execClauseStart_keepsMem h
  | implicitPark => exact execImplicitPark_keepsMem h
  | parkingStallRetry => exact execParkingStallRetry_keepsMem h
  | recordPoolExhausted => exact execRecordPoolExhausted_keepsMem h
  | emergencyRecordCopy _ => exact execEmergencyRecordCopy_keepsMem h
  | engineOpStart _ => exact execEngineOpStart_keepsMem h
  | engineChunk _ => exact execEngineChunk_keepsMem h
  | timerWake => exact execTimerWake_keepsMem h
  | binAgeExpiry _ => exact execBinAgeExpiry_keepsMem h
  | binDrain _ _ => exact execBinDrain_keepsMem h
  | binForward _ _ => exact execBinForward_keepsMem h
  | recordTransferArrive _ _ => exact execRecordTransferArrive_keepsMem h
  | recordAcceptance _ _ => exact execRecordAcceptance_keepsMem h
  | yieldRequest _ _ => exact h.mapGroups
  | fullSpill => exact execFullSpill_keepsMem h
  | batchFire _ => exact execBatchFire_keepsMem h
  | migrationFetch _ _ _ _ => exact execMigrationFetch_keepsMem h
  | migrationDemote _ _ _ _ => exact execMigrationDemote_keepsMem h
  | migrationPromote _ _ _ => exact execMigrationPromote_keepsMem h
  | wcbAgeExpiry _ _ => exact execWcbAgeExpiry_keepsMem h
  | doorbellWrite _ _ => exact execDoorbellWrite_keepsMem h
  | launchFetch _ => exact execLaunchFetch_keepsMem h
  | blockStart _ _ => exact execBlockStart_keepsMem h
  | agePromotionReclaim _ => exact execAgePromotionReclaim_keepsMem h
  | pmWindowExpiry _ => exact execPmWindowExpiry_keepsMem h
  | partUnfreeze _ => exact h.unfreeze
  | externalDeadline _ => exact execExternalDeadline_keepsMem h
  | apertureStore _ _ _ => exact execApertureStore_keepsMem h
  | tlbiStart _ => exact execTlbiStart_keepsMem h
  | tlbiComplete => exact execTlbiComplete_keepsMem h
  | fabCtlWrite _ => exact h.writeFabCtl
  | registerWrite _ _ => exact h.writeReg
  | maintOpComplete _ => exact execMaintOpComplete_keepsMem h
  | mrcvResultWrite _ => exact execMrcvResultWrite_keepsMem h
  | meshPacketArrive _ _ _ _ => exact execMeshPacketArrive_keepsMem h
  | meshNodeTimeout _ _ _ _ => exact execMeshNodeTimeout_keepsMem h
  | countedPacketArrive _ => exact execCountedPacketArrive_keepsMem h
  | flagArrive _ => exact execFlagArrive_keepsMem h
  | replayRequest _ _ => exact execReplayRequest_keepsMem h
  | replayRequestArrive _ _ _ _ => exact execReplayRequestArrive_keepsMem h
  | replayGone _ _ => exact execReplayGone_keepsMem h
  | sendLogExpiry _ _ _ => exact execSendLogExpiry_keepsMem h
  | protectionNotice _ => exact execProtectionNotice_keepsMem h
  | remoteRequestArrive _ => exact execRemoteRequestArrive_keepsMem h
  | remoteResponseArrive _ _ _ => exact execRemoteResponseArrive_keepsMem h
  | pathHoldExpiry _ => exact execPathHoldExpiry_keepsMem h
  | timeBeaconSend => exact execTimeBeaconSend_keepsMem h
  | timeBeaconArrive _ => exact execTimeBeaconArrive_keepsMem h
  | linkTraining _ => exact execLinkTraining_keepsMem h
  | linkStateWordArrive _ _ _ => exact execLinkStateWordArrive_keepsMem h
  | linkTrainTimeout _ => exact execLinkTrainTimeout_keepsMem h
  | cxlLinkDown _ => exact execCxlLinkDown_keepsMem h
  | hostAccess _ => exact execHostAccess_keepsMem h
  | registerCtx _ _ => exact execRegisterCtx_keepsMem h
  | deregisterCtx _ _ => exact execDeregisterCtx_keepsMem h
  | loadCode _ _ _ _ => exact execLoadCode_keepsMem h
  | queueEnable _ _ _ _ _ _ => exact execQueueEnable_keepsMem h
  | queueDisable _ _ => exact execQueueDisable_keepsMem h
  | switchOut _ _ => exact execSwitchOut_keepsMem h
  | switchOutDone _ => exact execSwitchOutDone_keepsMem h
  | switchIn _ _ => exact execSwitchIn_keepsMem h
  | switchInDone _ _ => exact execSwitchInDone_keepsMem h
  | endpointSet _ _ => exact execEndpointSet_keepsMem h
  | slotAssign _ _ _ _ => exact execSlotAssign_keepsMem h
  | slotReset _ _ _ _ _ => exact execSlotReset_keepsMem h
  | setTimeMaster _ _ => exact execSetTimeMaster_keepsMem h
  | linkEnable _ _ => exact execLinkEnable_keepsMem h
  | attest _ _ _ _ => exact execAttest_keepsMem h
  | coreFence _ _ => exact execCoreFence_keepsMem h
  | fenceClear _ => exact execFenceClear_keepsMem h
  | softErrorDetect _ => exact execSoftErrorDetect_keepsMem h
  | powerGood => exact execPowerGood_keepsMem h
  | bootStageDone _ => exact execBootStageDone_keepsMem h
  | bootTimeout => exact execBootTimeout_keepsMem h
  | retry => exact execRetry_keepsMem h
  | powerOff => exact execPowerOff_keepsMem h
  | thermalThrottle _ _ => exact execThermalThrottle_keepsMem h
  | thermalRelease _ _ => exact execThermalRelease_keepsMem h
  | thermalTrip _ => exact execThermalTrip_keepsMem h
  | wearFlush => exact execWearFlush_keepsMem h
  | reservedOpcode _ => exact h.takeTrap
  | portLinkLoss _ => exact execPortLinkLoss_keepsMem h
  | replicaWriteApplied _ => exact execReplicaWriteApplied_keepsMem h
  | unitTemperatureChange _ _ _ => exact execUnitTemperatureChange_keepsMem h
  | modulePowerCap _ _ => exact execModulePowerCap_keepsMem h

/-! The turn of a step -/

theorem State.MemInv.runAhead {run b} (h : s.MemInv) : (s.runAhead run b).MemInv := by
  unfold State.runAhead
  split
  · exact h
  · exact State.MemInv.reportInvalid (.update h)

theorem State.MemInv.turnTo {gid} (h : s.MemInv) : (s.turnTo gid).MemInv := by
  unfold State.turnTo
  split
  · exact h
  · exact .update h

/-- The state in which a turn acts keeps the canonical form. -/
def Turn.MemInv : Turn → Prop
  | .run _ s | .rest s => s.MemInv

theorem State.MemInv.groupTurn (h : s.MemInv) : s.groupTurn.MemInv := by
  unfold State.groupTurn
  split
  · unfold State.fetched
    split
    · exact State.MemInv.update h
    · split
      · exact h
      · exact h.takeTrap
  · exact h

theorem State.MemInv.dueElsewhere {run gs i t} (h : s.MemInv) (e : s.dueElsewhere run gs = some (i, t)) : t.MemInv := by
  induction gs with
  | nil => cases e
  | cons g gs ih =>
    unfold State.dueElsewhere at e
    dsimp only at e
    split at e
    · cases e
      exact h.turnTo
    · exact ih e

theorem State.MemInv.act {a} (h : s.MemInv) : (s.act a).MemInv := by
  cases a with
  | event i =>
    show Turn.MemInv (if agendaEvent i then .run i s else .rest s)
    split
    · exact h
    · exact h
  | issue gid => exact h.turnTo
  | tick ns => exact State.MemInv.update h
  | dropTlb key => exact State.MemInv.update h
  | writeBack core line => exact State.MemInv.update h

theorem State.MemInv.tick (h : s.MemInv) : s.tick.MemInv := .update h

theorem State.MemInv.defaultTurn {run} (h : s.MemInv) : (s.defaultTurn run).MemInv := by
  unfold State.defaultTurn
  split
  · show State.MemInv _
    split
    · exact h.tick
    · exact h
  · split
    · exact h.groupTurn
    · split
      · exact h
      · split
        · rename_i e
          exact h.dueElsewhere e
        · split
          · exact h.tick.turnTo.groupTurn
          · split
            · exact h.tick.turnTo.groupTurn
            · exact h.tick

theorem State.MemInv.turn {run} (h : s.MemInv) : (s.turn run).MemInv := by
  unfold State.turn
  split
  · exact h.runAhead
  · split
    · exact State.MemInv.act (.update h)
    · exact h.defaultTurn

theorem step_keepsMem (h : s.MemInv) : KeepsMem (step s) := by
  have ht := h.turn (run := exec)
  unfold step
  split
  · rename_i i t e
    rw [e] at ht
    exact exec_keepsMem i ht
  · rename_i t e
    rw [e] at ht
    exact ht

/-- Settles O58: a case for every instruction and event, each through what its operations keep. -/
theorem memoryInvariant : Obligations.MemoryInvariant := by
  unfold Obligations.MemoryInvariant
  intro s t h e
  have ht := step_keepsMem h
  rw [e] at ht
  exact ht

/-- Settles O60: each part of the state after power-on is a field of `State.reset`. -/
theorem reset : Obligations.Reset := by
  unfold Obligations.Reset
  exact ⟨rfl, rfl, rfl, rfl, rfl, rfl, rfl, rfl, rfl, rfl, rfl, rfl, rfl, rfl⟩

end Sys2Proof.Machine
end

section
/-! What the host does to the device (R217, R307, R335 to R338, R363, R368): stores to apertures, memory through BAR4,
registers, doorbells and launch fetches. The effect of each event is a lemma of its own, over the rules of the operations it
uses: what a fault record leaves unchanged, what the counters of queues and launches depend on, and that the check of an
aperture store does not depend on the stores under way. -/

namespace Sys2Proof.Machine

variable {s t u : State}

/-! Fault records, and what they leave unchanged -/

/-- The machine differs only where stores and trace events reach. -/
def LogOnly (s t : State) : Prop := ∃ u regs, StoreOnly s u ∧ t = { u with devRegs := regs }

theorem LogOnly.of_store (h : StoreOnly s t) : LogOnly s t := ⟨t, t.devRegs, h, rfl⟩

theorem LogOnly.refl (s : State) : LogOnly s s := .of_store (.refl s)

theorem LogOnly.trans (h1 : LogOnly s t) (h2 : LogOnly t u) : LogOnly s u := by
  obtain ⟨_, _, ⟨_, _, _, _, _, _, ⟨_, _, _, _, _, _, _, _, _, rfl⟩, rfl⟩, rfl⟩ := h1
  obtain ⟨_, _, ⟨_, _, _, _, _, _, ⟨_, _, _, _, _, _, _, _, _, rfl⟩, rfl⟩, rfl⟩ := h2
  exact ⟨_, _, ⟨_, _, _, _, _, _, ⟨_, _, _, _, _, _, _, _, _, rfl⟩, rfl⟩, rfl⟩

theorem LogOnly.keeps (h : LogOnly s t) :
    t.g = s.g ∧ t.ctxs = s.ctxs ∧ t.queues = s.queues ∧ t.engOps = s.engOps ∧ t.apStarts = s.apStarts := by
  obtain ⟨_, _, ⟨_, _, _, _, _, _, ⟨_, _, _, _, _, _, _, _, _, rfl⟩, rfl⟩, rfl⟩ := h
  exact ⟨rfl, rfl, rfl, rfl, rfl⟩

theorem StoreOnly.of_touched (h : Touched s t) : StoreOnly s t := by
  obtain ⟨m, z, rfl⟩ := h
  exact ⟨_, _, _, _, _, s, .refl s, rfl⟩

theorem poke_store (s : State) (loc : Nat) (bs : List Byte) : StoreOnly s (s.poke loc bs) := .of_touched (poke_eq s loc bs)

theorem seen_store (s : State) (asid va : Nat) : StoreOnly s (s.seen asid va) := by
  unfold State.seen
  split
  · split
    · exact .of_touched ⟨_, _, rfl⟩
    · exact .of_touched (walked_eq _ _ _ _ _ _ _)
  · exact .refl s

theorem dirtied_store (s : State) (addr : Nat) : StoreOnly s (s.dirtied addr) := .of_touched (dirtied_eq s addr)

theorem seenDirty_store (s : State) (asid va addr : Nat) (e : W64) :
    StoreOnly s (if pteD e then s.seen asid va else (s.seen asid va).dirtied addr) := by
  split
  · exact seen_store _ _ _
  · exact (seen_store _ _ _).trans (dirtied_store _ _)

theorem devicePoke_store (s : State) (asid va : Nat) (bs : List Byte) : StoreOnly s (s.devicePoke asid va bs) := by
  unfold State.devicePoke
  split
  · rename_i e lvl addr _
    split
    · exact .refl s
    · extract_lets p s1 s2
      have h2 : StoreOnly s s2 := seenDirty_store s asid va addr e
      split
      · exact h2.trans (writeLocal_store _ _ _ _ _ _ _)
      · exact h2.trans (poke_store _ _ _)
  · exact .refl s

theorem vPoke_store (s : State) (asid va : Nat) (bs : List Byte) : StoreOnly s (s.vPoke asid va bs) :=
  List.foldlRecOn (motive := fun (x : State × List Byte) => StoreOnly s x.1) _ _ (.refl s) fun _ hx _ _ =>
    hx.trans (devicePoke_store _ _ _ _)

theorem trace_log (s : State) (die core asid kind d2 d3 : Nat) : LogOnly s (s.trace die core asid kind d2 d3) := by
  unfold State.trace
  extract_lets size base w ev
  split
  · exact .refl s
  · exact ⟨_, _, poke_store _ _ _, rfl⟩

/-- A context after a fault record took the next place of its queue. -/
def Ctx.faulted (c : Ctx) : Ctx := { c with fqSeq := c.fqSeq + 1 }

/-- A fault record of a context is counted, then written as stores write (R376). -/
theorem ctxFault_log (s : State) (f : FaultRec) :
    LogOnly (s.setCtx f.asid (s.ctx f.asid).faulted) (s.ctxFault f) := by
  unfold State.ctxFault
  extract_lets c base w r s1 s2 d s3 s4
  have h2 : LogOnly s1 s2 := trace_log _ _ _ _ _ _ _
  have h4 : LogOnly s1 s4 := h2.trans (.of_store ((vPoke_store _ _ _ _).trans (vPoke_store _ _ _ _)))
  split
  · exact h2.trans (.of_store (vPoke_store _ _ _ _))
  · split
    · exact h4.trans (.of_store (.of_fabric (emit_fabric _ _)))
    · exact h4

@[simp] theorem State.ctx_setCtx_same (s : State) (a : Nat) (c : Ctx) : (s.setCtx a c).ctx a = c :=
  SMap.get_put_same Ctx.off c s.ctxs a

theorem State.ctx_setCtx (s : State) (a b : Nat) (c : Ctx) : (s.setCtx a c).ctx b = if a = b then c else s.ctx b :=
  SMap.get_put Ctx.off c s.ctxs a b

@[simp] theorem State.queue_setQueue_same (s : State) (q : Nat) (x : WorkQueue) : (s.setQueue q x).queue q = x :=
  SMap.get_put_same WorkQueue.none x s.queues q

theorem State.queue_setQueue (s : State) (q p : Nat) (x : WorkQueue) :
    (s.setQueue q x).queue p = if q = p then x else s.queue p :=
  SMap.get_put WorkQueue.none x s.queues q p

/-! The counters of queues and launches -/

/-- The heads and tails of the queues and the launch numbers of the contexts are the same. -/
structure SameCounters (s t : State) : Prop where
  head : ∀ q, (t.queue q).head = (s.queue q).head
  tail : ∀ q, (t.queue q).tail = (s.queue q).tail
  launchNum : ∀ a, (t.ctx a).launchNum = (s.ctx a).launchNum

theorem SameCounters.of_eq (hq : t.queues = s.queues) (hc : t.ctxs = s.ctxs) : SameCounters s t where
  head _ := by rw [State.queue, hq]; rfl
  tail _ := by rw [State.queue, hq]; rfl
  launchNum _ := by rw [State.ctx, hc]; rfl

theorem SameCounters.refl (s : State) : SameCounters s s := .of_eq rfl rfl

theorem SameCounters.trans (h1 : SameCounters s t) (h2 : SameCounters t u) : SameCounters s u where
  head q := (h2.head q).trans (h1.head q)
  tail q := (h2.tail q).trans (h1.tail q)
  launchNum a := (h2.launchNum a).trans (h1.launchNum a)

theorem LogOnly.sameCounters (h : LogOnly s t) : SameCounters s t := by
  obtain ⟨-, hc, hq, -, -⟩ := h.keeps
  exact .of_eq hq hc

theorem StoreOnly.sameCounters (h : StoreOnly s t) : SameCounters s t := (LogOnly.of_store h).sameCounters

theorem SameCounters.setCtx {a : Nat} {c : Ctx} (h : c.launchNum = (s.ctx a).launchNum) : SameCounters s (s.setCtx a c) where
  head _ := rfl
  tail _ := rfl
  launchNum b := by
    rw [State.ctx_setCtx]
    split
    · subst a; exact h
    · rfl

theorem SameCounters.setQueue {q : Nat} {x : WorkQueue} (hh : x.head = (s.queue q).head) (ht : x.tail = (s.queue q).tail) :
    SameCounters s (s.setQueue q x) where
  head p := by
    rw [State.queue_setQueue]
    split
    · subst q; exact hh
    · rfl
  tail p := by
    rw [State.queue_setQueue]
    split
    · subst q; exact ht
    · rfl
  launchNum _ := rfl

theorem ctxFault_sameCounters (s : State) (f : FaultRec) : SameCounters s (s.ctxFault f) :=
  (SameCounters.setCtx (c := (s.ctx f.asid).faulted) rfl).trans
    (ctxFault_log s f).sameCounters

theorem imprecise_log (s : State) (asid code : Nat) (detail : List W64) (addr : Nat) :
    LogOnly (s.setCtx asid (s.ctx asid).faulted) (s.imprecise asid code detail addr) :=
  ctxFault_log s { FaultRec.plain s asid code 1 detail with addr := BitVec.ofNat 80 addr }

theorem imprecise_sameCounters (s : State) (asid code : Nat) (detail : List W64) (addr : Nat) :
    SameCounters s (s.imprecise asid code detail addr) := ctxFault_sameCounters _ _

theorem reportInvalid_sameCounters (s : State) (asid id : Nat) (pages : List Nat) :
    SameCounters s (s.reportInvalid asid id pages) := by
  unfold State.reportInvalid
  extract_lets inv pg
  split
  · exact .refl s
  · exact imprecise_sameCounters _ _ _ _ _

theorem newBatch_sameCounters (s : State) (asid : Nat) (pages : List Nat) : SameCounters s (s.newBatch asid pages).2 := by
  have h1 : SameCounters s (s.openBatch asid pages none).2 := .of_eq rfl rfl
  exact h1.trans (reportInvalid_sameCounters _ _ _ _)

theorem wantPages_sameCounters (s : State) (asid : Nat) (pages : List Nat) : SameCounters s (s.wantPages asid pages) := by
  unfold State.wantPages
  split
  · exact .refl s
  · exact newBatch_sameCounters _ _ _

theorem ctxStore_sameCounters (s : State) (asid va : Nat) (bs : List Byte) : SameCounters s (s.ctxStore asid va bs).2 := by
  unfold State.ctxStore
  split
  · rename_i e lvl addr _
    split
    · exact ((seenDirty_store s asid va addr e).trans
        (.of_fabric ((wcbStore_fabric _ _ _ _ _ _ _).trans (drainWcb_fabric _ _)))).sameCounters
    · exact (vPoke_store _ _ _ _).sameCounters
  · exact imprecise_sameCounters _ _ _ _ _
  · split
    · exact .refl s
    · exact wantPages_sameCounters _ _ _

theorem queueTurn_sameCounters (s : State) (q : Nat) : SameCounters s (s.queueTurn q) := by
  unfold State.queueTurn
  extract_lets x ls next
  split
  · exact .refl s
  · exact .setQueue rfl rfl

theorem settleQueue_sameCounters (s : State) (q : Nat) : SameCounters s (s.settleQueue q) :=
  .trans (.trans (queueTurn_sameCounters _ _) (queueTurn_sameCounters _ _)) (queueTurn_sameCounters _ _)

theorem SameCounters.launches (s : State) (ls : List Launch) : SameCounters s { s with launches := ls } := .of_eq rfl rfl

theorem complete_sameCounters (s : State) (l : Launch) : SameCounters s (s.complete l) := by
  rw [show @State.complete = _ from by delta State.complete; rfl]
  split
  rename_i ok s1 e
  have h1 : SameCounters s s1 := by
    split at e
    · cases e; exact .refl s
    · split at e
      · cases e; exact .refl s
      · rw [← show _ = s1 from congrArg Prod.snd e]
        exact .trans (StoreOnly.of_fabric (drainWcb_fabric _ _)).sameCounters (ctxStore_sameCounters _ _ _ _)
  extract_lets mine s2
  split
  · have h2 : SameCounters s s2 := h1.trans (trace_log _ _ _ _ _ _ _).sameCounters
    exact (h2.trans (.launches _ _)).trans (settleQueue_sameCounters _ _)
  · exact h1.trans (.launches _ _)

theorem refuseLaunch_sameCounters (s : State) (l : Launch) (code : Nat) : SameCounters s (s.refuseLaunch l code) := by
  unfold State.refuseLaunch
  extract_lets s1 silent
  refine .trans ?_ (complete_sameCounters _ _)
  show SameCounters s (match l.slot with | none => s | some i => _)
  split
  · exact .refl s
  · exact .setQueue rfl rfl

/-- The sending of a request leaves queues and contexts. -/
theorem request_sameCounters (s : State) (a : Ask) : SameCounters s (s.request a) := by
  unfold State.request
  split
  · exact .refl s
  · extract_lets s1 r s2
    have h1 : SameCounters s s1 := by
      unfold s1
      split
      · exact .refl s
      · exact (StoreOnly.of_fabric (drainWcb_fabric _ _)).sameCounters
    split
    · exact h1
    · have h2 : SameCounters s s2 := h1.trans (StoreOnly.of_fabric (progress_fabric _ _)).sameCounters
      exact h2.trans (.of_eq rfl rfl)

theorem askAll_wait_sameCounters {asks : List Ask} {must : Nat → Bool} (e : s.askAll asks must = .wait t) : SameCounters s t := by
  unfold State.askAll at e
  split at e
  · cases e
  · split at e
    · split at e <;> cases e
    · extract_lets s1 at e
      split at e
      · rw [← show s1 = t from Answers.wait.inj e]
        exact List.foldlRecOn asks _ (.refl s) fun _ hx a _ => hx.trans (request_sameCounters _ a)
      · split at e <;> cases e

/-- The heads, tails and launch numbers stay in a state that a read of a context's memory hands on. -/
def CtxRead.SameCounters (s : State) : CtxRead → Prop
  | .wait t | .ok t _ => Machine.SameCounters s t
  | _ => True

theorem ctxRead_sameCounters (s : State) (asid tag va n : Nat) : (s.ctxRead asid tag va n).SameCounters s := by
  rw [show @State.ctxRead = _ from by delta State.ctxRead; rfl]
  obtain ⟨check, ec⟩ : ∃ f, State.checkAccess = f := ⟨_, rfl⟩
  rw [ec]
  clear ec
  extract_lets g v
  have hv : Machine.SameCounters s v := .of_eq rfl rfl
  split
  · trivial
  · trivial
  · split
    · rename_i e
      exact (hv.trans (askAll_wait_sameCounters e)).trans (.of_eq rfl rfl)
    · trivial
    · rename_i ps _ _ _
      have h1 := StoreOnly.of_touched (touchAll_eq v asid false ps)
      exact (hv.trans h1.sameCounters).trans (.of_eq rfl rfl)

theorem acceptLaunch_sameCounters (s : State) (l : Launch) : SameCounters s (s.acceptLaunch l) := by
  have h1 := ctxRead_sameCounters s l.asid (2 ^ 40 + l.num) l.constAddr 256
  rw [show @State.acceptLaunch = _ from by delta State.acceptLaunch; rfl]
  obtain ⟨read, er⟩ : ∃ f, State.ctxRead = f := ⟨_, rfl⟩
  obtain ⟨first, ef⟩ : ∃ f, @List.find? (Nat × PageCheck) = f := ⟨_, rfl⟩
  rw [er] at h1 ⊢
  rw [ef]
  clear er ef
  extract_lets found gone
  split
  · exact refuseLaunch_sameCounters _ _ _
  · split
    · exact .trans (imprecise_sameCounters _ _ _ _ _) (refuseLaunch_sameCounters _ _ _)
    · split
      · exact wantPages_sameCounters _ _ _
      · split
        · exact refuseLaunch_sameCounters _ _ _
        · split
          · rename_i e
            rw [e] at h1
            exact h1
          · exact wantPages_sameCounters _ _ _
          · exact refuseLaunch_sameCounters _ _ _
          · rename_i e
            rw [e] at h1
            exact .trans h1 (.launches _ _)

theorem activate_sameCounters (s : State) (asid : Nat) : SameCounters s (s.activate asid) := by
  unfold State.activate
  split
  · exact .refl s
  · unfold State.joinVt
    extract_lets c others
    cases others with
    | nil => exact .refl s
    | cons x xs => exact .setCtx rfl

/-- A context after a record took its launch number. -/
def Ctx.numbered (c : Ctx) : Ctx := { c with launchNum := (c.launchNum + 1) % 2 ^ 32 }

/-- A record taken from a launch queue takes the next launch number of its context (R337). -/
theorem takeRecord_counters (s : State) (q asid : Nat) (words : List W64) :
    SameCounters (s.setCtx asid (s.ctx asid).numbered) (s.takeRecord q asid words none) := by
  unfold State.takeRecord
  extract_lets s0 c since l0 l s1 s2
  have h0 : SameCounters s s0 := activate_sameCounters s asid
  have h1 : SameCounters (s.setCtx asid (s.ctx asid).numbered) s1 := by
    refine ⟨h0.head, h0.tail, fun a => ?_⟩
    rw [State.ctx_setCtx, State.ctx_setCtx]
    split
    · exact congrArg (fun n => (n + 1) % 2 ^ 32) (h0.launchNum asid)
    · exact h0.launchNum a
  have h2 := h1.trans (.launches s1 (s1.launches ++ [l]))
  split
  · exact h2.trans (refuseLaunch_sameCounters _ _ _)
  · exact h2.trans (acceptLaunch_sameCounters _ _)

/-! FAB_CTL and doorbells -/

theorem writeFabCtl_refused {v : W64}
    (h : tLostUs (v &&& 0x0000FFFFFFFFFFFF#64) < 2 * pktLifeUs (v &&& 0x0000FFFFFFFFFFFF#64)
      ∨ tKeepUs (v &&& 0x0000FFFFFFFFFFFF#64)
        < 3 * tLostUs (v &&& 0x0000FFFFFFFFFFFF#64) + pktLifeUs (v &&& 0x0000FFFFFFFFFFFF#64)) :
    s.writeFabCtl v = s := if_pos h

theorem writeFabCtl_written {v : W64}
    (h : ¬ (tLostUs (v &&& 0x0000FFFFFFFFFFFF#64) < 2 * pktLifeUs (v &&& 0x0000FFFFFFFFFFFF#64)
      ∨ tKeepUs (v &&& 0x0000FFFFFFFFFFFF#64)
        < 3 * tLostUs (v &&& 0x0000FFFFFFFFFFFF#64) + pktLifeUs (v &&& 0x0000FFFFFFFFFFFF#64))) :
    s.writeFabCtl v = { s with fabCtl := v &&& 0x0000FFFFFFFFFFFF#64 } := if_neg h

/-- The three effects of a doorbell of a queue that takes one (R335). -/
theorem doorbell_backward {q : Nat} {d : W32} (h : 2 ^ 31 ≤ (d - (s.queue q).tail).toNat) : s.doorbell q d = s := by
  unfold State.doorbell
  extract_lets x
  split
  · rfl
  · rfl

theorem doorbell_over {q : Nat} {d : W32} (ht : (s.queue q).task = false) (ho : (s.queue q).state ≠ .off)
    (hs : (s.queue q).state ≠ .stopped) (hf : (d - (s.queue q).tail).toNat < 2 ^ 31)
    (hn : (s.queue q).cap < (d - (s.queue q).head).toNat) : s.doorbell q d = s.stopQueue q 0 := by
  unfold State.doorbell
  extract_lets x
  rw [if_neg (by simp [x, ht, ho, hs]), if_neg (Nat.not_le.mpr hf), if_pos hn]

theorem doorbell_taken {q : Nat} {d : W32} (ht : (s.queue q).task = false) (ho : (s.queue q).state ≠ .off)
    (hs : (s.queue q).state ≠ .stopped) (hf : (d - (s.queue q).tail).toNat < 2 ^ 31)
    (hn : (d - (s.queue q).head).toNat ≤ (s.queue q).cap) :
    s.doorbell q d = (s.setQueue q { s.queue q with tail := d }).settleQueue q := by
  unfold State.doorbell
  extract_lets x
  rw [if_neg (by simp [x, ht, ho, hs]), if_neg (Nat.not_le.mpr hf), if_neg (Nat.not_lt.mpr hn)]

theorem queueTurn_mem_g (s : State) (q : Nat) : (s.queueTurn q).mem = s.mem ∧ (s.queueTurn q).g = s.g := by
  unfold State.queueTurn
  extract_lets x ls next
  split
  · exact ⟨rfl, rfl⟩
  · exact ⟨rfl, rfl⟩

theorem settleQueue_mem_g (s : State) (q : Nat) : (s.settleQueue q).mem = s.mem ∧ (s.settleQueue q).g = s.g := by
  obtain ⟨m1, g1⟩ := queueTurn_mem_g s q
  obtain ⟨m2, g2⟩ := queueTurn_mem_g (s.queueTurn q) q
  obtain ⟨m3, g3⟩ := queueTurn_mem_g ((s.queueTurn q).queueTurn q) q
  exact ⟨m3.trans (m2.trans m1), g3.trans (g2.trans g1)⟩

/-! Launch fetches -/

/-- A fetch from an ACTIVE launch queue whose taken records have all started takes the next record (R337, R338). -/
theorem launchFetch_takes {q : Nat} {s1 : State} {bs : List Byte} (hs : (s.queue q).state = .active)
    (ht : (s.queue q).task = false) (hc : (s.ctx (s.queue q).asid).state = .running)
    (hne : (s.queue q).head ≠ (s.queue q).tail) (hl : ∀ l ∈ s.launchesOf q, l.unstarted = false ∧ l.accepted = true)
    (e : s.ctxRead (s.queue q).asid (2 ^ 41 + q)
      ((s.queue q).ring.toNat + 128 * ((s.queue q).head.toNat % 2 ^ (s.queue q).log2n)) 128 = .ok s1 bs) :
    exec (.launchFetch q) s = .next (((s1.setQueue q { s.queue q with head := (s.queue q).head + 1 }).takeRecord q
      (s.queue q).asid (dwordsOf 16 bs) none).settleQueue q) := by
  have h1 : (s.launchesOf q).filter (fun l => !l.accepted && !l.completed) = [] :=
    List.filter_eq_nil_iff.mpr fun l m => by simp [(hl l m).2]
  have h2 : (s.launchesOf q).any Launch.unstarted = false :=
    List.any_eq_false.mpr fun l m => by simp [(hl l m).1]
  show execLaunchFetch q s = _
  rw [show @execLaunchFetch = _ from by delta execLaunchFetch; rfl]
  extract_lets x c
  have e' : s.ctxRead x.asid (2 ^ 41 + q) (x.ring.toNat + 128 * (x.head.toNat % x.cap)) 128 = .ok s1 bs := e
  rw [e', if_neg (by simp [x, c, hs, hc]), h1]
  dsimp only
  rw [if_neg (by simp [x, hs, ht, hne, h2])]

theorem launchFetch_effect {q : Nat} {s1 : State} {bs : List Byte} (hs : (s.queue q).state = .active)
    (ht : (s.queue q).task = false) (hc : (s.ctx (s.queue q).asid).state = .running)
    (hne : (s.queue q).head ≠ (s.queue q).tail) (hl : ∀ l ∈ s.launchesOf q, l.unstarted = false ∧ l.accepted = true)
    (e : s.ctxRead (s.queue q).asid (2 ^ 41 + q)
      ((s.queue q).ring.toNat + 128 * ((s.queue q).head.toNat % 2 ^ (s.queue q).log2n)) 128 = .ok s1 bs) :
    Completes (.launchFetch q) s (fun t => (t.queue q).head = (s.queue q).head + 1 ∧ (t.queue q).tail = (s.queue q).tail
      ∧ (t.ctx (s.queue q).asid).launchNum = ((s.ctx (s.queue q).asid).launchNum + 1) % 2 ^ 32) := by
  have h1 : SameCounters s s1 := by
    have h := ctxRead_sameCounters s (s.queue q).asid (2 ^ 41 + q)
      ((s.queue q).ring.toNat + 128 * ((s.queue q).head.toNat % 2 ^ (s.queue q).log2n)) 128
    rwa [e] at h
  have h2 := (takeRecord_counters (s1.setQueue q { s.queue q with head := (s.queue q).head + 1 }) q (s.queue q).asid
    (dwordsOf 16 bs)).trans (settleQueue_sameCounters _ q)
  refine ⟨_, launchFetch_takes hs ht hc hne hl e, ?_, ?_, ?_⟩
  · rw [h2.head]
    show ((s1.setQueue q _).queue q).head = _
    rw [State.queue_setQueue_same]
  · rw [h2.tail]
    show ((s1.setQueue q _).queue q).tail = _
    rw [State.queue_setQueue_same]
  · rw [h2.launchNum, State.ctx_setCtx_same]
    exact congrArg (fun n => (n + 1) % 2 ^ 32) (h1.launchNum _)

/-! Stores to apertures under way: the checks and reads of the machine do not depend on them -/

/-- The machine with another list of aperture stores under way. -/
def State.withStores (s : State) (l : List (Nat × BitVec 16 × W32)) : State := { s with apStores := l }

section
variable (s : State) (l : List (Nat × BitVec 16 × W32))

theorem walkFrom_withStores (asid va lvl base : Nat) :
    (s.withStores l).walkFrom asid va lvl base = s.walkFrom asid va lvl base := by
  induction lvl generalizing base with
  | zero => rw [State.walkFrom, State.walkFrom]; rfl
  | succ n ih => rw [State.walkFrom, State.walkFrom, ih]; rfl

theorem walkPath_withStores (asid va lvl base : Nat) :
    (s.withStores l).walkPath asid va lvl base = s.walkPath asid va lvl base := by
  induction lvl generalizing base with
  | zero => rw [State.walkPath, State.walkPath]; rfl
  | succ n ih => rw [State.walkPath, State.walkPath, ih]; rfl

theorem translate_withStores (asid va : Nat) : (s.withStores l).translate asid va = s.translate asid va := by
  unfold State.translate
  rw [walkFrom_withStores]; rfl

theorem lookup_withStores (asid va : Nat) : (s.withStores l).lookup asid va = s.lookup asid va := by
  unfold State.lookup
  rw [translate_withStores]; rfl

theorem withWalk_withStores (asid : Nat) (rs : List (Nat × Nat)) : (s.withStores l).withWalk asid rs = s.withWalk asid rs := by
  simp only [State.withWalk, lookup_withStores]

theorem runsOf_withStores (tid : W32) (p : Place) (n : Nat) : (s.withStores l).runsOf tid p n = s.runsOf tid p n := rfl

theorem poisonOk_withStores (ps : List Piece) : (s.withStores l).poisonOk ps = s.poisonOk ps := rfl

theorem checkPages_withStores (asid : Nat) (tid : W32) (acc : Acc) (p : Place) (n : Nat) :
    (s.withStores l).checkPages asid tid acc p n = s.checkPages asid tid acc p n := by
  unfold State.checkPages
  cases p <;> simp only [poisonOk_withStores, runsOf_withStores, withWalk_withStores] <;> rfl

theorem decode_withStores (a : Nat) : (s.withStores l).decode a = s.decode a := rfl

theorem checkEnds_withStores (a n align : Nat) : (s.withStores l).checkEnds a n align = s.checkEnds a n align := by
  unfold State.checkEnds
  rw [decode_withStores, decode_withStores]

theorem checkAccess_withStores (tid : W32) (acc : Acc) (a n align : Nat) :
    (s.withStores l).checkAccess tid acc a n align = s.checkAccess tid acc a n align := by
  unfold State.checkAccess
  rw [checkEnds_withStores]
  simp only [checkPages_withStores]
  rfl

theorem tableEntry_withStores (asid va lvl addr : Nat) :
    (s.withStores l).tableEntry asid va lvl addr = s.tableEntry asid va lvl addr := rfl

theorem walked_withStores (asid va : Nat) (e cur : W64) (lvl addr : Nat) :
    (s.withStores l).walked asid va e cur lvl addr = (s.walked asid va e cur lvl addr).withStores l := by
  unfold State.walked
  extract_lets zf s1 s2 h1 t s1' s2' h1'
  have e1 : s1 = s1'.withStores l := by
    show (if zf && !pteFt e then _ else _) = (if zf && !pteFt e then _ else _ : State).withStores l
    split <;> rfl
  have e2 : s2 = s2'.withStores l := by
    show (if pteA cur && !zf then s1 else s1.pteUpdate addr 0x10000#64 (if zf then 0x10#64 else 0))
      = (if pteA cur && !zf then s1' else s1'.pteUpdate addr 0x10000#64 (if zf then 0x10#64 else 0) : State).withStores l
    rw [e1]
    split <;> rfl
  have e3 : h1 = h1' := by
    unfold h1 h1'
    rw [walkPath_withStores, e2]
    rfl
  rw [e2, e3]
  rfl

theorem seenPiece_withStores (asid : Nat) (p : Piece) :
    (s.withStores l).seenPiece asid p = (s.seenPiece asid p).withStores l := by
  unfold State.seenPiece
  split
  · rfl
  · simp only [tableEntry_withStores, walked_withStores]
    rw [show (s.withStores l).g = s.g from rfl, show (s.withStores l).hier.serving = s.hier.serving from rfl,
      show (s.withStores l).hier.held (s.withStores l).ctlCount = s.hier.held s.ctlCount from rfl]
    by_cases h : (s.hier.serving (s.g.gid != 0) s.g.core asid (p.va / 128)).isSome
    · rw [if_pos h, if_pos h]
    · rw [if_neg h, if_neg h]
      cases s.hier.held s.ctlCount asid p.va with
      | some t => rfl
      | none => exact (apply_ite (State.withStores · l) _ _ _).symm

theorem cacheRead_withStores (asid : Nat) (p : Piece) :
    (s.withStores l).cacheRead asid p = (s.cacheRead asid p).withStores l := by
  unfold State.cacheRead
  split
  · rfl
  · split <;> rfl

theorem touch_withStores (asid : Nat) (wr : Bool) (p : Piece) :
    (s.withStores l).touch asid wr p = (s.touch asid wr p).withStores l := by
  unfold State.touch
  split
  · rfl
  · rw [seenPiece_withStores]
    extract_lets s1 s2
    split
    · split <;> rfl
    · exact cacheRead_withStores _ _ _ _

theorem touchAll_withStores (asid : Nat) (wr : Bool) (ps : List Piece) :
    (s.withStores l).touchAll asid wr ps = (s.touchAll asid wr ps).withStores l := by
  induction ps generalizing s with
  | nil => rfl
  | cons p ps ih =>
    show ((s.withStores l).touch asid wr p).touchAll asid wr ps = ((s.touch asid wr p).touchAll asid wr ps).withStores l
    rw [touch_withStores, ih]

theorem bytesAt_withStores (die loc n : Nat) : (s.withStores l).bytesAt die loc n = s.bytesAt die loc n := by
  induction n generalizing loc with
  | zero => rfl
  | succ n ih => rw [State.bytesAt, State.bytesAt, ih]; rfl

theorem pieceBytes_withStores (tag : Nat) : (s.withStores l).pieceBytes tag = s.pieceBytes tag := by
  funext p
  unfold State.pieceBytes
  rw [bytesAt_withStores]; rfl

theorem gather_withStores (tag : Nat) (ps : List Piece) : (s.withStores l).gather tag ps = s.gather tag ps := by
  unfold State.gather
  rw [pieceBytes_withStores]

theorem toFabric_withStores : (s.withStores l).toFabric = s.toFabric := by
  funext asid p
  unfold State.toFabric
  simp only [translate_withStores]

end

/-! Requests of a read: whether they are answered is decided before they are sent -/

/-- The answer to a request, where one has come. -/
def State.statusOf (s : State) (a : Ask) : Option RemoteStatus := (s.answerOf a).bind RemoteWait.status

/-- The machine differs by requests that wait for their answer, and in what no answer depends on. -/
def MoreAsked (s t : State) : Prop := t.g = s.g ∧ ∃ new, t.remotes = s.remotes ++ new ∧ ∀ r ∈ new, r.status = none

theorem MoreAsked.refl (s : State) : MoreAsked s s := ⟨rfl, [], (List.append_nil _).symm, by simp⟩

theorem MoreAsked.trans {s t u : State} (h1 : MoreAsked s t) (h2 : MoreAsked t u) : MoreAsked s u := by
  obtain ⟨g1, n1, r1, w1⟩ := h1
  obtain ⟨g2, n2, r2, w2⟩ := h2
  refine ⟨g2.trans g1, n1 ++ n2, by rw [r2, r1, List.append_assoc], fun r m => ?_⟩
  exact (List.mem_append.mp m).elim (w1 r) (w2 r)

theorem MoreAsked.statusOf {s t : State} (h : MoreAsked s t) (a : Ask) : t.statusOf a = s.statusOf a := by
  obtain ⟨hg, new, hr, hw⟩ := h
  unfold State.statusOf State.answerOf
  rw [hg, hr, List.find?_append]
  cases s.remotes.find? _ with
  | some r => rfl
  | none =>
    cases e : new.find? _ with
    | none => rfl
    | some r => exact hw r (List.mem_of_find?_eq_some e)

theorem request_moreAsked (s : State) (a : Ask) (h : a.op = .read) : MoreAsked s (s.request a) := by
  unfold State.request
  split
  · exact .refl s
  · rw [if_pos h]
    extract_lets v r s1
    split
    · exact .refl v
    · exact ⟨rfl, _, rfl, by simp⟩

/-- Every request has its answer, and none has failed. -/
def State.AllAnswered (s : State) (asks : List Ask) : Prop :=
  if s.pathUp then ∀ a ∈ asks, ∃ st, s.statusOf a = some st ∧ statusFail st a.ep = none
  else ∀ a ∈ asks, s.answerOf a ≠ none

theorem askAll_all_iff (s : State) {asks : List Ask} (h : ∀ a ∈ asks, a.op = .read) :
    s.askAll asks (fun _ => true) = .all ↔ s.AllAnswered asks := by
  have hm : MoreAsked s (asks.foldl State.request s) :=
    List.foldlRecOn asks _ (.refl s) fun _ hx a m => hx.trans (request_moreAsked _ a (h a m))
  unfold State.askAll State.AllAnswered
  extract_lets s1
  split
  · next e => simp [List.isEmpty_iff.mp e]
  split
  · next e =>
    rw [if_neg (by simpa using e)]
    split
    · next x e =>
      refine iff_of_false nofun fun ha => ?_
      exact ha _ (List.mem_of_find?_eq_some e) (by simpa using List.find?_some e)
    · next e =>
      refine iff_of_true rfl fun a m => ?_
      simpa using List.find?_eq_none.mp e a m
  next e =>
  have hp : s.pathUp = true := by simpa using e
  rw [if_pos hp]
  split
  · next e =>
    obtain ⟨a, m, e⟩ := List.any_eq_true.mp e
    refine iff_of_false nofun fun ha => ?_
    obtain ⟨st, hs, -⟩ := ha a m
    obtain ⟨r, hr, hst⟩ := Option.bind_eq_some_iff.mp ((hm.statusOf a).trans hs)
    rw [hr] at e
    simp [hst] at e
  next e =>
  have hs (a) (m : a ∈ asks) : ∃ r st, s1.answerOf a = some r ∧ r.status = some st ∧ s.statusOf a = some st := by
    have h1 := List.any_eq_false.mp (Bool.not_eq_true _ ▸ e) a m
    cases hr : s1.answerOf a with
    | none => simp [hr] at h1
    | some r =>
      obtain ⟨st, hst⟩ : ∃ st, r.status = some st := by simpa [hr, Option.isNone_iff_eq_none, Option.ne_none_iff_exists'] using h1
      exact ⟨r, st, rfl, hst, by rw [← hm.statusOf a]; exact Option.bind_eq_some_iff.mpr ⟨r, hr, hst⟩⟩
  split
  · next t f _ e =>
    have hf : (t, f) ∈ List.filter _ _ := e ▸ List.mem_cons_self
    obtain ⟨a, m, ha⟩ := List.mem_filterMap.mp (List.mem_of_mem_filter hf)
    obtain ⟨r, st, hr, hst, hs⟩ := hs a m
    refine iff_of_false nofun fun hall => ?_
    obtain ⟨st', hs', hn⟩ := hall a m
    cases hs.symm.trans hs'
    rw [hr] at ha
    simp [hst, hn] at ha
  · next e =>
    refine iff_of_true rfl fun a m => ?_
    obtain ⟨r, st, hr, hst, hs⟩ := hs a m
    refine ⟨st, hs, ?_⟩
    cases hf : statusFail st a.ep with
    | none => rfl
    | some f =>
      refine absurd rfl (List.filter_eq_nil_iff.mp e (a.tag, f) (List.mem_filterMap.mpr ⟨a, m, ?_⟩))
      rw [hr]
      simp [hst, hf]

theorem readAsks_op {tag : Nat} {ps : List Piece} : ∀ a ∈ readAsks tag ps, a.op = .read := by
  intro a m
  obtain ⟨p, -, e⟩ := List.mem_filterMap.mp m
  obtain ⟨ep, -, rfl⟩ := Option.map_eq_some_iff.mp e
  rfl

/-- The bytes a read of a context's memory gives, where it gives any. -/
def CtxRead.bytes : CtxRead → Option (List Byte)
  | .ok _ bs => some bs
  | _ => none

/-- The machine as a read of a context's memory sees it: no group's fields but the context's. -/
def State.reader (s : State) (asid : Nat) : State := { s with g := { Group.off with asid := asid } }

theorem ctxRead_bytes_iff (s : State) {asid tag va n : Nat} {bs : List Byte} :
    (s.ctxRead asid tag va n).bytes = some bs ↔ ∃ ps, (s.reader asid).checkAccess 0 .read va n 1 = .ok ps
      ∧ (s.reader asid).AllAnswered (readAsks tag ps) ∧ ((s.reader asid).touchAll asid false ps).gather tag ps = bs := by
  rw [show @State.ctxRead = _ from by delta State.ctxRead; rfl]
  obtain ⟨check, ec⟩ : ∃ f, State.checkAccess = f := ⟨_, rfl⟩
  rw [ec]
  clear ec
  extract_lets g v
  have hv : v = s.reader asid := rfl
  rw [← hv]
  split
  · next e => rw [e]; simp [CtxRead.bytes]
  · next e => rw [e]; simp [CtxRead.bytes]
  next ps e =>
  rw [e]
  have hall := askAll_all_iff v (readAsks_op (tag := tag) (ps := ps))
  split
  · next e => simp [CtxRead.bytes, ← hall, e]
  · next e => simp [CtxRead.bytes, ← hall, e]
  · next e => simp [CtxRead.bytes, ← hall, e]

theorem allAnswered_withStores (s : State) (l : List (Nat × BitVec 16 × W32)) (asks : List Ask) :
    (s.withStores l).AllAnswered asks ↔ s.AllAnswered asks := Iff.rfl

theorem reader_withStores (s : State) (l : List (Nat × BitVec 16 × W32)) (asid : Nat) :
    (s.withStores l).reader asid = (s.reader asid).withStores l := rfl

theorem ctxRead_withStores (s : State) (l : List (Nat × BitVec 16 × W32)) (asid tag va n : Nat) :
    ((s.withStores l).ctxRead asid tag va n).bytes = (s.ctxRead asid tag va n).bytes := by
  refine Option.ext fun bs => ?_
  simp only [ctxRead_bytes_iff, reader_withStores, checkAccess_withStores, allAnswered_withStores, touchAll_withStores,
    gather_withStores]

/-- The check of an aperture store does not depend on the stores under way. -/
theorem apertureCheck_withStores (s : State) (l : List (Nat × BitVec 16 × W32)) (asid : Nat) (off : BitVec 16) (x : W32) :
    (s.withStores l).apertureCheck asid off x = s.apertureCheck asid off x := by
  have h := ctxRead_withStores s l asid (2 ^ 43 + asid) (((s.ctx asid).tmplBase.toNat + 64 * (x.toNat % 4096)) % 2 ^ 80) 64
  unfold State.apertureCheck
  extract_lets core i
  rw [show (s.withStores l).ctx = s.ctx from rfl, show (s.withStores l).coreLive = s.coreLive from rfl,
    show (s.withStores l).waiting = s.waiting from rfl, toFabric_withStores]
  change _ = (s.ctxRead asid (2 ^ 43 + asid) (((s.ctx asid).tmplBase.toNat + 64 * i) % 2 ^ 80) 64).bytes at h
  generalize (s.withStores l).ctxRead asid (2 ^ 43 + asid) (((s.ctx asid).tmplBase.toNat + 64 * i) % 2 ^ 80) 64 = r1 at h ⊢
  generalize s.ctxRead asid (2 ^ 43 + asid) (((s.ctx asid).tmplBase.toNat + 64 * i) % 2 ^ 80) 64 = r2 at h ⊢
  cases r1 with
  | ok s1 b1 =>
    cases r2 <;> cases h
    rfl
  | _ =>
    cases r2 with
    | ok s2 b2 => cases h
    | _ => rfl

/-! The aperture (R217) -/

theorem apertureStore_next (s : State) (asid : Nat) (off : BitVec 16) (x : W32) :
    ∃ l, exec (.apertureStore asid off x) s = .next ((s.withStores l).storeAperture asid off x) := ⟨_, rfl⟩

theorem storeAperture_error {asid n : Nat} {off : BitVec 16} {x : W32} (hr : s.boot.ready = true)
    (hc : (s.ctx asid).state ≠ .off) (h : s.apertureCheck asid off x = .error n) :
    s.storeAperture asid off x = s.rejectAperture asid off x n := by
  unfold State.storeAperture
  rw [if_neg (by simp [hr, hc]), h]

/-- The operation an aperture store starts, before a slot of the engine takes it. -/
def State.startedCopy (s : State) (asid : Nat) (off : BitVec 16) (m : Template) : EngOp :=
  { id := s.serial, engop := s.engNext.get 0 (off.toNat / 256 * 16 + 1), core := off.toNat / 256, asid := asid
    launch := 0xFFFFFFFF, block := 0xFFFFFF, gid := 0
    kind := .copy m.plan, tok := 0, bar := some m.barAddr, slot := 0, running := false, waits := none, curA := 0
    curB := 0, curN := 0, count0 := 0, aperture := true, seqAt := s.seqNum, dying := false, chain := none, found := [] }

theorem storeAperture_ok {asid : Nat} {off : BitVec 16} {x : W32} {m : Template} (hr : s.boot.ready = true)
    (hc : (s.ctx asid).state ≠ .off) (h : s.apertureCheck asid off x = .ok m) :
    ∃ t : State, t.mem = s.mem ∧ t.g = s.g ∧ t.apStarts = s.apStarts ++ [s.startedCopy asid off m]
      ∧ s.storeAperture asid off x = t.refill (off.toNat / 256) := by
  unfold State.storeAperture
  rw [if_neg (by simp [hr, hc]), h]
  refine ⟨_, ?_, ?_, ?_, rfl⟩ <;> rfl

theorem refill_mem_g (s : State) (core : Nat) : (s.refill core).mem = s.mem ∧ (s.refill core).g = s.g := by
  unfold State.refill
  split
  · exact ⟨rfl, rfl⟩
  · split <;> exact ⟨rfl, rfl⟩

/-- An operation that waits for a slot has one after a refill, or waits on. -/
theorem refill_keeps {o : EngOp} (core : Nat) (m : o ∈ s.apStarts) (h : ∀ p ∈ s.apStarts, p.id = o.id → p = o) :
    o ∈ (s.refill core).engOps ∨ o ∈ (s.refill core).apStarts := by
  unfold State.refill
  split
  · exact .inr m
  next p e =>
  split
  · exact .inr m
  by_cases hp : p = o
  · exact .inl (List.mem_append_right _ (hp ▸ List.mem_singleton_self p))
  · have hid : o.id ≠ p.id := fun hid => hp (h p (List.mem_of_find?_eq_some e) hid.symm)
    exact .inr (List.mem_filter.mpr ⟨m, by simpa using hid⟩)

/-- A context after a store to its aperture was rejected. -/
def Ctx.dropped (c : Ctx) : Ctx := { c with aperDrop := c.aperDrop + 1 }

theorem rejectAperture_log (s : State) (asid : Nat) (off : BitVec 16) (x : W32) (n : Nat) :
    LogOnly ((s.setCtx asid (s.ctx asid).dropped).setCtx asid (s.ctx asid).dropped.faulted)
      (s.rejectAperture asid off x n) := by
  have h := imprecise_log (s.setCtx asid (s.ctx asid).dropped) asid 0x44
    [w64 (off.toNat / 256 + x.toNat % 4096 * 2 ^ 8 + n * 2 ^ 20), w64 x.toNat] 0
  rwa [State.ctx_setCtx_same] at h

theorem rejectAperture_effect (s : State) (asid : Nat) (off : BitVec 16) (x : W32) (n : Nat) :
    (s.rejectAperture asid off x n).ctx asid = (s.ctx asid).dropped.faulted
      ∧ (s.rejectAperture asid off x n).engOps = s.engOps ∧ (s.rejectAperture asid off x n).apStarts = s.apStarts := by
  obtain ⟨-, hc, -, ho, hs⟩ := (rejectAperture_log s asid off x n).keeps
  refine ⟨?_, ho, hs⟩
  rw [State.ctx, hc]
  exact State.ctx_setCtx_same _ _ _

theorem apertureStore_error {asid n : Nat} {off : BitVec 16} {x : W32} (hr : s.boot.ready = true)
    (hc : (s.ctx asid).state ≠ .off) (h : s.apertureCheck asid off x = .error n) :
    Completes (.apertureStore asid off x) s (fun t => (t.ctx asid).aperDrop = (s.ctx asid).aperDrop + 1
      ∧ (t.ctx asid).fqSeq = (s.ctx asid).fqSeq + 1 ∧ t.engOps = s.engOps ∧ t.apStarts = s.apStarts) := by
  obtain ⟨l, e⟩ := apertureStore_next s asid off x
  rw [storeAperture_error (s := s.withStores l) hr hc ((apertureCheck_withStores ..).trans h)] at e
  obtain ⟨hctx, ho, hs⟩ := rejectAperture_effect (s.withStores l) asid off x n
  exact ⟨_, e, by rw [hctx]; rfl, by rw [hctx]; rfl, ho, hs⟩

theorem apertureStore_ok {asid : Nat} {off : BitVec 16} {x : W32} {m : Template} (hr : s.boot.ready = true)
    (hc : (s.ctx asid).state ≠ .off) (h : s.apertureCheck asid off x = .ok m) (hid : ∀ o ∈ s.apStarts, o.id ≠ s.serial) :
    Completes (.apertureStore asid off x) s (fun t => t.mem = s.mem ∧ t.g = s.g
      ∧ ∃ o, (o ∈ t.engOps ∨ o ∈ t.apStarts) ∧ o.kind = .copy m.plan ∧ o.bar = some m.barAddr
        ∧ o.core = off.toNat / 256 ∧ o.asid = asid ∧ o.tok = 0 ∧ o.aperture = true) := by
  obtain ⟨l, e⟩ := apertureStore_next s asid off x
  obtain ⟨t, hm, hg, ha, e'⟩ := storeAperture_ok (s := s.withStores l) hr hc ((apertureCheck_withStores ..).trans h)
  obtain ⟨hm', hg'⟩ := refill_mem_g t (off.toNat / 256)
  rw [e'] at e
  refine ⟨_, e, hm'.trans hm, hg'.trans hg, s.startedCopy asid off m, refill_keeps _ ?_ ?_, rfl, rfl, rfl, rfl, rfl, rfl⟩
  · rw [ha]
    exact List.mem_append_right _ (List.mem_singleton_self _)
  · intro p hp he
    rw [ha] at hp
    rcases List.mem_append.mp hp with hp | hp
    · exact absurd he (hid p hp)
    · exact List.mem_singleton.mp hp

/-! Memory through BAR4 (R307, R368) -/

theorem hbmBytes_le (s : State) : s.hbmBytes ≤ 2 ^ 39 := by
  have h : (below 8 (fun i => s.ident.stackEn.getLsbD i)).length ≤ 8 :=
    (List.length_filter_le _ _).trans (List.length_range ..).le
  unfold State.hbmBytes
  omega

/-- What BAR4 reaches is not behind a CXL link (R318). -/
theorem cxlLost_of_barMemory {a : Nat} (h : s.barMemory a = true) : s.cxlLost a = false := by
  have hb := hbmBytes_le s
  have ha : ¬ 0x1000000000000 ≤ a := by
    simp only [State.barMemory, Bool.or_eq_true, Bool.and_eq_true, decide_eq_true_eq] at h
    omega
  unfold State.cxlLost cxlPort
  rw [if_neg (by omega), if_neg (by omega)]

theorem recordAt_none_of_no_pool (h : ∀ r ∈ s.records, ∀ u, r.place ≠ .pool u) (loc : Nat) : s.recordAt loc = none := by
  refine List.findSome?_eq_none_iff.mpr fun r m => ?_
  split
  · next u e => exact absurd e (h r m u)
  · rfl

/-- The machine differs by bytes the host wrote: neither the group, the contexts, the records nor the identity do. -/
structure HostWrote (s t : State) : Prop where
  g : t.g = s.g
  ctxs : t.ctxs = s.ctxs
  records : t.records = s.records
  ident : t.ident = s.ident

theorem HostWrote.refl (s : State) : HostWrote s s := ⟨rfl, rfl, rfl, rfl⟩

theorem HostWrote.trans (h1 : HostWrote s t) (h2 : HostWrote t u) : HostWrote s u :=
  ⟨h2.g.trans h1.g, h2.ctxs.trans h1.ctxs, h2.records.trans h1.records, h2.ident.trans h1.ident⟩

theorem HostWrote.barMemory (h : HostWrote s t) (a : Nat) : t.barMemory a = s.barMemory a := by
  unfold State.barMemory State.hbmBytes
  rw [h.ident]

theorem poke_hostWrote (s : State) (loc : Nat) (bs : List Byte) : HostWrote s (s.poke loc bs) := by
  unfold State.poke
  split
  · exact .refl s
  · exact ⟨rfl, rfl, rfl, rfl⟩

theorem outsideWrite_hostWrote (s : State) (loc : Nat) (bs : List Byte) : HostWrote s (s.outsideWrite loc bs) := by
  have h := poke_hostWrote s loc bs
  unfold State.outsideWrite
  split
  · exact ⟨h.g, h.ctxs, h.records, h.ident⟩
  · exact h

theorem outsideWrite_mem (s : State) (loc : Nat) (bs : List Byte) : (s.outsideWrite loc bs).mem = (s.poke loc bs).mem := by
  unfold State.outsideWrite
  split <;> rfl

/-- A byte the host writes, where BAR4 reaches memory. -/
def State.barPoke (s : State) (c : Nat × Byte) : State := if s.barMemory c.1 then s.hostPoke c.1 c.2 else s

theorem barPoke_of_no_record {loc : Nat} {b : Byte} (h : s.recordAt loc = none) :
    s.barPoke (loc, b) = if s.barMemory loc then s.outsideWrite loc [b] else s := by
  unfold State.barPoke State.hostPoke
  rw [h]

theorem barPoke_hostWrote {loc : Nat} {b : Byte} (h : s.recordAt loc = none) : HostWrote s (s.barPoke (loc, b)) := by
  rw [barPoke_of_no_record h]
  split
  · exact outsideWrite_hostWrote _ _ _
  · exact .refl s

theorem barPoke_get {loc : Nat} {b : Byte} (h : s.recordAt loc = none) (a : Nat) :
    (s.barPoke (loc, b)).mem.get 0 a = if loc = a ∧ s.barMemory loc then b else s.mem.get 0 a := by
  rw [barPoke_of_no_record h]
  by_cases hb : s.barMemory loc
  · rw [if_pos hb, outsideWrite_mem]
    unfold State.poke
    rw [cxlLost_of_barMemory hb, if_neg Bool.false_ne_true]
    show (putBytes loc [b] s.mem).get 0 a = _
    rw [putBytes, putBytes, SMap.get_put]
    simp [hb]
  · simp [hb]

/-- The bytes of a host's write. -/
def State.barWrite (s : State) (pa : Nat) (bs : List Byte) : State :=
  (bs.mapIdx (fun i b => (pa + i, b))).foldl State.barPoke s

theorem barWrite_cons (s : State) (pa : Nat) (b : Byte) (bs : List Byte) :
    s.barWrite pa (b :: bs) = (s.barPoke (pa, b)).barWrite (pa + 1) bs := by
  unfold State.barWrite
  rw [List.mapIdx_cons, List.foldl_cons]
  simp only [Nat.add_zero, Nat.add_assoc, Nat.add_comm 1]

theorem barWrite_nil (s : State) (pa : Nat) : s.barWrite pa [] = s := rfl

/-- No byte of a host's write lies in a record. -/
def State.ClearOfRecords (s : State) (pa : Nat) : List Byte → Prop
  | [] => True
  | b :: bs => s.recordAt pa = none ∧ (s.barPoke (pa, b)).ClearOfRecords (pa + 1) bs

theorem clearOfRecords_of_no_pool {pa : Nat} {bs : List Byte} (h : ∀ r ∈ s.records, ∀ u, r.place ≠ .pool u) :
    s.ClearOfRecords pa bs := by
  induction bs generalizing s pa with
  | nil => trivial
  | cons b bs ih =>
    have hn := recordAt_none_of_no_pool h pa
    exact ⟨hn, ih (by rwa [(barPoke_hostWrote hn).records])⟩

theorem clearOfRecords_of_single {pa : Nat} {bs : List Byte} (hl : bs.length = 1) (h : s.recordAt pa = none) :
    s.ClearOfRecords pa bs := by
  obtain ⟨b, rfl⟩ := List.length_eq_one_iff.mp hl
  exact ⟨h, trivial⟩

theorem barWrite_hostWrote {pa : Nat} {bs : List Byte} (h : s.ClearOfRecords pa bs) : HostWrote s (s.barWrite pa bs) := by
  induction bs generalizing s pa with
  | nil => exact .refl s
  | cons b bs ih =>
    rw [barWrite_cons]
    exact (barPoke_hostWrote h.1).trans (ih h.2)

theorem barWrite_get {pa : Nat} {bs : List Byte} (h : s.ClearOfRecords pa bs) (a : Nat) :
    (s.barWrite pa bs).mem.get 0 a
      = if pa ≤ a ∧ a < pa + bs.length ∧ s.barMemory a = true then bs.getD (a - pa) 0 else s.mem.get 0 a := by
  induction bs generalizing s pa with
  | nil => rw [if_neg (by simp; omega), barWrite_nil]
  | cons b bs ih =>
    rw [barWrite_cons, ih h.2, barPoke_get h.1, (barPoke_hostWrote h.1).barMemory, List.length_cons]
    by_cases hb : s.barMemory a = true
    · by_cases h0 : pa = a
      · subst h0
        rw [if_neg (by omega), if_pos ⟨rfl, hb⟩, if_pos ⟨le_rfl, by omega, hb⟩]
        simp
      · by_cases h1 : pa + 1 ≤ a ∧ a < pa + 1 + bs.length
        · obtain ⟨k, rfl⟩ : ∃ k, a = pa + 1 + k := ⟨a - (pa + 1), by omega⟩
          rw [if_pos ⟨h1.1, h1.2, hb⟩, if_pos ⟨by omega, by omega, hb⟩, show pa + 1 + k - pa = k + 1 by omega,
            show pa + 1 + k - (pa + 1) = k by omega, List.getD_cons_succ]
        · rw [if_neg (fun c => h1 ⟨c.1, c.2.1⟩), if_neg (fun c => h0 c.1), if_neg (by omega)]
    · rw [if_neg (fun c => hb c.2.2), if_neg (fun ⟨e, c⟩ => hb (e ▸ c)), if_neg (fun c => hb c.2.2)]

theorem homeBytes_succ (s : State) (pa n : Nat) :
    s.homeBytes pa (n + 1) = s.byteAt (s.homeDie pa) pa :: s.homeBytes (pa + 1) n := by
  unfold State.homeBytes
  rw [List.range_succ_eq_map, List.map_cons, List.map_map]
  simp only [Nat.add_zero, Function.comp_def, Nat.succ_eq_add_one, Nat.add_assoc, Nat.add_comm 1]

theorem hostBytes_eq (s : State) (n pa : Nat) (h : s.records = []) (hm : ∀ j, j < n → s.barMemory (pa + j) = true) :
    s.hostBytes pa n = (s.homeBytes pa n, s) := by
  have hown (a : Nat) : s.recordByte a = none := by
    rw [State.recordByte, recordAt_none_of_no_pool (by simp [h])]
    rfl
  have hn := homeBytes_succ s
  delta State.hostBytes
  refine natBrecOn_induct (fun n (f : State → Nat → List Byte × State) =>
    ∀ pa, (∀ j, j < n → s.barMemory (pa + j) = true) → f s pa = (s.homeBytes pa n, s)) _ ?zero ?succ n pa hm
  case zero => exact fun _ _ _ => rfl
  case succ =>
    intro n b ih pa hm
    have h0 : s.barMemory pa = true := hm 0 (Nat.succ_pos n)
    have h1 := ih (pa + 1) fun j hj => by
      rw [Nat.add_assoc, Nat.add_comm 1]
      exact hm (j + 1) (by omega)
    rw [hn]
    rw [show @State.hostBytes._f = _ from by delta State.hostBytes._f; rfl]
    obtain ⟨inside, ei⟩ : ∃ f, State.barMemory = f := ⟨_, rfl⟩
    obtain ⟨own, eo⟩ : ∃ f, State.recordByte = f := ⟨_, rfl⟩
    obtain ⟨byte, eb⟩ : ∃ f, State.byteAt = f := ⟨_, rfl⟩
    rw [ei] at h0
    rw [eo] at hown
    rw [ei, eo, eb]
    clear ei eo eb hm hn h ih
    dsimp only
    rw [h0, hown, if_pos rfl]
    dsimp only
    have hl : (b.1 s (pa + 1)).1 = s.homeBytes (pa + 1) n := congrArg Prod.fst h1
    have hs : (b.1 s (pa + 1)).2 = s := congrArg Prod.snd h1
    exact Prod.ext (congrArg (byte s (s.homeDie pa) pa :: ·) hl) hs

/-! Host accesses -/

theorem hostAccess_writeMem {pa : Nat} {bs : List Byte} (hp : s.boot.power = true) :
    exec (.hostAccess (.writeMem pa bs)) s = .next (s.barWrite pa bs) := by
  show execHostAccess (.writeMem pa bs) s = _
  unfold execHostAccess
  rw [if_neg (by simp [hp])]
  rfl

theorem hostAccess_readMem {pa n : Nat} (hp : s.boot.power = true) (hr : s.records = [])
    (hm : ∀ j, j < n → s.barMemory (pa + j) = true) :
    exec (.hostAccess (.readMem pa n)) s = .next (s.emit (.hostData (s.homeBytes pa n))) := by
  have e := hostBytes_eq s n pa hr hm
  show execHostAccess (.readMem pa n) s = _
  rw [show @execHostAccess = _ from by delta execHostAccess; rfl]
  obtain ⟨f, ef⟩ : ∃ f, State.hostBytes = f := ⟨_, rfl⟩
  rw [ef] at e ⊢
  clear ef
  dsimp only
  rw [if_neg (by simp [hp]), e]

theorem hostAccess_writeReg {r : Nat} {v : W64} (hp : s.boot.power = true) :
    exec (.hostAccess (.writeReg r v)) s = exec (.registerWrite r v) s := by
  show execHostAccess (.writeReg r v) s = execRegisterWrite r v s
  unfold execHostAccess
  rw [if_neg (by simp [hp])]
  rfl

theorem hostAccess_readReg {r x : Nat} (hp : s.boot.power = true) (h : s.readReg r = some x) :
    exec (.hostAccess (.readReg r)) s = .next (s.emit (.hostData (natBytes 8 x))) := by
  show execHostAccess (.readReg r) s = _
  rw [show @execHostAccess = _ from by delta execHostAccess; rfl]
  obtain ⟨f, ef⟩ : ∃ f, State.readReg = f := ⟨_, rfl⟩
  rw [ef] at h ⊢
  clear ef
  dsimp only
  rw [if_neg (by simp [hp]), h]

theorem hostAccess_aperture {asid : Nat} {off : BitVec 16} {x : W32} (hp : s.boot.power = true)
    (h : (asid, off, x) ∉ s.apStores) :
    exec (.hostAccess (.aperture asid off x)) s = exec (.apertureStore asid off x) s := by
  show execHostAccess (.aperture asid off x) s
    = .next (State.storeAperture { s with apStores := s.apStores.erase (asid, off, x) } asid off x)
  rw [List.erase_of_not_mem h]
  unfold execHostAccess
  rw [if_neg (by simp [hp])]

/-! Registers (R8, R368) -/

theorem inTable_none {o base step n : Nat} (h : o < base ∨ base + step * n ≤ o) : inTable o base step n = none :=
  if_neg (by omega)

theorem inTable_entry {base step n i x : Nat} (hi : i < n) (hx : x < step) :
    inTable (base + step * i + x) base step n = some (i, x) := by
  have h : step * (i + 1) ≤ step * n := Nat.mul_le_mul_left step hi
  rw [Nat.mul_succ] at h
  unfold inTable
  rw [if_pos (by omega), show base + step * i + x - base = x + step * i by omega, Nat.add_mul_div_left _ _ (by omega),
    Nat.add_mul_mod_self_left, Nat.div_eq_of_lt hx, Nat.mod_eq_of_lt hx, Nat.zero_add]

/-- A write to a register of a function, beside the doorbells and the mailbox (R368). -/
theorem writeReg_own {o : Nat} {v : W64} (hp : s.boot.power = true) (ho : o < 2 ^ 30) (hm : o ≠ 0x8000)
    (hq : inTable o 0x10000000 8 Config.workQueues = none) : s.writeReg o v = s.writeOwn o v := by
  unfold State.writeReg
  have hf : regFn o = 0 := Nat.div_eq_of_lt ho
  have hr : regOff o = o := Nat.mod_eq_of_lt ho
  rw [hf, hr]
  dsimp only
  rw [hq, if_neg (by simp [hp]), if_neg (by omega), if_neg (by omega), if_neg hm]
  rfl

theorem writeReg_doorbell {q : Nat} {v : W64} (hp : s.boot.power = true) (hr : s.boot.ready = true) (hq : q < 131072) :
    s.writeReg (0x10000000 + 8 * q) v = s.doorbell q (w32 v.toNat) := by
  have hf : regFn (0x10000000 + 8 * q) = 0 := Nat.div_eq_of_lt (by omega)
  have ho : regOff (0x10000000 + 8 * q) = 0x10000000 + 8 * q := Nat.mod_eq_of_lt (by omega)
  have ht : inTable (0x10000000 + 8 * q) 0x10000000 8 Config.workQueues = some (q, 0) :=
    inTable_entry (x := 0) hq (by omega)
  unfold State.writeReg
  rw [hf, ho]
  dsimp only
  rw [ht, if_neg (by simp [hp]), if_neg (by omega), if_neg (by omega), if_neg (by omega)]
  exact if_pos (c := (s.boot.ready && s.seesQueue 0 q) = true) (by simp [hr, State.seesQueue])

theorem writeReg_mailbox {r fn : Nat} {v : W64} (hp : s.boot.power = true) (h : r < 2 ^ 34) (hf : regFn r = fn)
    (ho : regOff r = 0x8000) (hn : fn ≤ 8) : s.writeReg r v = s.writeMbx fn v := by
  unfold State.writeReg
  rw [hf, ho]
  dsimp only
  rw [if_neg (by simp [hp]), if_neg (by omega), if_neg (by omega), if_pos rfl]

/-- A mailbox whose request has been given. -/
def Mailbox.asked (m : Mailbox) (req : Nat) : Mailbox := { m with req := some req, done := false }

def State.setMailbox (s : State) (fn : Nat) (m : Mailbox) : State := { s with mbx := s.mbx.put Mailbox.idle fn m }

theorem State.mailbox_setMailbox_same (s : State) (fn : Nat) (m : Mailbox) : (s.setMailbox fn m).mailbox fn = m :=
  SMap.get_put_same ..

theorem writeMbx_idle {fn : Nat} {v : W64} (hr : s.boot.ready = true) (h : (s.mailbox fn).req = none) :
    s.writeMbx fn v = s.setMailbox fn ((s.mailbox fn).asked (v.toNat / 64 * 64)) := by
  unfold State.writeMbx
  extract_lets m
  rw [if_neg (by simp [hr]), if_neg (by simp [m, h])]
  rfl

theorem writeReg_mailbox_idle {fn : Nat} {v : W64} (hp : s.boot.power = true) (hf : fn ≤ 8) (hr : s.boot.ready = true)
    (h : (s.mailbox fn).req = none) :
    Completes (.registerWrite (fn * 2 ^ 30 + 0x8000) v) s (fun t =>
      (t.mailbox fn).req = some (v.toNat / 64 * 64) ∧ (t.mailbox fn).done = false ∧ t.mem = s.mem ∧ t.g = s.g) := by
  have e : s.writeReg (fn * 2 ^ 30 + 0x8000) v = s.writeMbx fn v :=
    writeReg_mailbox hp (by omega) (by unfold regFn; omega) (by unfold regOff; omega) hf
  rw [writeMbx_idle hr h] at e
  refine ⟨_, congrArg Host.Outcome.next e, ?_, ?_, rfl, rfl⟩
  · rw [State.mailbox_setMailbox_same]
    rfl
  · rw [State.mailbox_setMailbox_same]
    rfl

theorem writeReg_fabCtl {v : W64} (hp : s.boot.power = true) : s.writeReg 0x300000 v = s.writeFabCtl v := by
  rw [writeReg_own hp (by omega) (by omega) (inTable_none (by omega))]
  unfold State.writeOwn
  rw [inTable_none (base := 0x100000) (by omega), inTable_none (base := 0x200000) (by omega),
    inTable_none (base := 0x400000) (by omega), inTable_none (base := 0x600000) (by omega),
    inTable_none (base := 0x30000000) (by omega)]
  rfl

theorem writeReg_tlbi {v : W64} (hp : s.boot.power = true) : s.writeReg 0x100018 v = s.writeTlbi v := by
  rw [writeReg_own hp (by omega) (by omega) (inTable_none (by omega))]
  unfold State.writeOwn
  rw [show inTable 0x100018 0x100000 32 1 = some (0, 24) from
    inTable_entry (base := 0x100000) (step := 32) (n := 1) (i := 0) (x := 24) (by omega) (by omega),
    inTable_none (base := 0x200000) (by omega), inTable_none (base := 0x400000) (by omega),
    inTable_none (base := 0x600000) (by omega), inTable_none (base := 0x30000000) (by omega)]
  rfl

theorem writeReg_part {p i : Nat} {v : W64} (hp : s.boot.power = true) (h : p < 8) (hi : i < 4) :
    s.writeReg (0x200000 + 0x100 * p + 8 * i) v = s.writePart p (8 * i) v := by
  rw [writeReg_own hp (by omega) (by omega) (inTable_none (by omega))]
  unfold State.writeOwn
  rw [inTable_none (base := 0x100000) (by omega),
    show inTable (0x200000 + 0x100 * p + 8 * i) 0x200000 0x100 8 = some (p, 8 * i) from inTable_entry h (by omega)]

/-- The mask of a partition after a write of doubleword i of it. -/
def withDword (m : BitVec 256) (i : Nat) (v : W64) : BitVec 256 :=
  (m &&& ~~~BitVec.ofNat 256 ((2 ^ 64 - 1) * 2 ^ (8 * (8 * i)))) ||| BitVec.ofNat 256 (v.toNat * 2 ^ (8 * (8 * i)))

/-- The bits of a doubleword that stands at place i. -/
theorem getLsbD_dword {x i n : Nat} (hx : x < 2 ^ 64) (hn : n < 256) :
    (BitVec.ofNat 256 (x * 2 ^ (8 * (8 * i)))).getLsbD n = (decide (n / 64 = i) && x.testBit (n % 64)) := by
  rw [BitVec.getLsbD_ofNat, Nat.testBit_mul_two_pow, decide_eq_true hn, Bool.true_and]
  by_cases h : n / 64 = i
  · rw [decide_eq_true (by omega : n ≥ 8 * (8 * i)), decide_eq_true h, show n - 8 * (8 * i) = n % 64 by omega]
  · rw [decide_eq_false h, Bool.false_and]
    by_cases h' : 8 * (8 * i) ≤ n
    · rw [Nat.testBit_lt_two_pow (hx.trans_le (Nat.pow_le_pow_right (by omega) (by omega))), Bool.and_false]
    · rw [decide_eq_false (by omega), Bool.false_and]

theorem getLsbD_withDword {m : BitVec 256} {i n : Nat} {v : W64} (hn : n < 256) :
    (withDword m i v).getLsbD n = if n / 64 = i then v.getLsbD (n % 64) else m.getLsbD n := by
  have h64 : n % 64 < 64 := Nat.mod_lt _ (by omega)
  unfold withDword
  rw [BitVec.getLsbD_or, BitVec.getLsbD_and, BitVec.getLsbD_not, getLsbD_dword (by omega) hn, getLsbD_dword v.isLt hn,
    Nat.testBit_two_pow_sub_one]
  by_cases h : n / 64 = i
  · simp [h, h64, hn, BitVec.getLsbD]
  · simp [h, hn]

theorem writePart_mask {p i : Nat} {v : W64} (hi : i < 4) :
    ((s.writePart p (8 * i) v).part p).mask = withDword (s.part p).mask i v := by
  unfold State.writePart
  extract_lets x hole
  rw [if_pos (by omega)]
  exact congrArg Part.mask (SMap.get_put_same ..)

/-! The effects of the host's events, and their obligation -/

theorem fabCtlWrite_effect (s : State) (v : W64) :
    let x : W64 := v &&& 0x0000FFFFFFFFFFFF#64
    let bad := tLostUs x < 2 * pktLifeUs x ∨ tKeepUs x < 3 * tLostUs x + pktLifeUs x
    (bad → exec (.fabCtlWrite v) s = .next s) ∧ (¬ bad → exec (.fabCtlWrite v) s = .next { s with fabCtl := x }) :=
  ⟨fun h => congrArg Host.Outcome.next (writeFabCtl_refused h), fun h => congrArg Host.Outcome.next (writeFabCtl_written h)⟩

/-- A queue after it was stopped. -/
def WorkQueue.stop (x : WorkQueue) : WorkQueue := { x with state := .stopped }

theorem doorbellWrite_over {q : Nat} {d : W32} (ht : (s.queue q).task = false) (ho : (s.queue q).state ≠ .off)
    (hs : (s.queue q).state ≠ .stopped) (hf : (d - (s.queue q).tail).toNat < 2 ^ 31)
    (hn : 2 ^ (s.queue q).log2n < (d - (s.queue q).head).toNat) :
    Completes (.doorbellWrite q d) s (fun u => (u.queue q).state = .stopped ∧ (u.queue q).tail = (s.queue q).tail
      ∧ u.mem = s.mem ∧ ∃ f, u.devFaults = s.devFaults ++ [f] ∧ f.code = 0x81) := by
  have hq : (s.stopQueue q 0).queue q = (s.queue q).stop := State.queue_setQueue_same s q (s.queue q).stop
  refine ⟨_, congrArg Host.Outcome.next (doorbell_over ht ho hs hf hn), ?_, ?_, rfl, _, rfl, rfl⟩ <;> rw [hq] <;> rfl

theorem doorbellWrite_taken {q : Nat} {d : W32} (ht : (s.queue q).task = false) (ho : (s.queue q).state ≠ .off)
    (hs : (s.queue q).state ≠ .stopped) (hf : (d - (s.queue q).tail).toNat < 2 ^ 31)
    (hn : (d - (s.queue q).head).toNat ≤ 2 ^ (s.queue q).log2n) :
    Completes (.doorbellWrite q d) s (fun u => (u.queue q).tail = d ∧ (u.queue q).head = (s.queue q).head
      ∧ u.mem = s.mem ∧ u.g = s.g) := by
  have hq := State.queue_setQueue_same s q { s.queue q with tail := d }
  have hc := settleQueue_sameCounters (s.setQueue q { s.queue q with tail := d }) q
  obtain ⟨hm, hg⟩ := settleQueue_mem_g (s.setQueue q { s.queue q with tail := d }) q
  refine ⟨_, congrArg Host.Outcome.next (doorbell_taken ht ho hs hf hn), ?_, ?_, hm, hg⟩
  · rw [hc.tail, hq]
  · rw [hc.head, hq]

theorem hostAccess_writeMem_effect {pa : Nat} {bs : List Byte} (hp : s.boot.power = true) (h : s.ClearOfRecords pa bs) :
    Completes (.hostAccess (.writeMem pa bs)) s (fun t =>
      (∀ j, j < bs.length → s.barMemory (pa + j) = true → t.mem.get 0 (pa + j) = bs.getD j 0)
        ∧ (∀ a, Outside a [(pa, bs.length)] → t.mem.get 0 a = s.mem.get 0 a) ∧ t.g = s.g ∧ t.ctxs = s.ctxs) := by
  have hw := barWrite_hostWrote h
  refine ⟨_, hostAccess_writeMem hp, fun j hj hb => ?_, fun a ha => ?_, hw.g, hw.ctxs⟩
  · rw [barWrite_get h, if_pos ⟨by omega, by omega, hb⟩, Nat.add_sub_cancel_left]
  · have ho := ha _ (List.mem_singleton_self _)
    rw [barWrite_get h, if_neg (by dsimp only at ho; omega)]

theorem registerWrite_part_effect {p i : Nat} {v : W64} (hp : s.boot.power = true) (h : p < 8) (hi : i < 4) :
    Completes (.registerWrite (0x200000 + 0x100 * p + 8 * i) v) s (fun t =>
      ∀ n, n < 256 → (t.part p).mask.getLsbD n = if n / 64 = i then v.getLsbD (n % 64) else (s.part p).mask.getLsbD n) := by
  refine ⟨_, congrArg Host.Outcome.next (writeReg_part hp h hi), fun n hn => ?_⟩
  rw [writePart_mask hi]
  exact getLsbD_withDword hn

/-- Settles O52: each event's effect is a lemma of its own above. -/
theorem hostEvents : Obligations.HostEvents := by
  intro s
  refine ⟨fabCtlWrite_effect s, fun q d ht ho hs => ?doorbell, fun q s1 bs hs ht hc hne hl e => ?launch,
    fun asid off x hr hc => ?aperture, fun hp => ?access⟩
  case doorbell =>
    exact ⟨fun h => congrArg Host.Outcome.next (doorbell_backward h), doorbellWrite_over ht ho hs, doorbellWrite_taken ht ho hs⟩
  case launch => exact launchFetch_effect hs ht hc hne hl e
  case aperture => exact ⟨fun n => apertureStore_error hr hc, fun m => apertureStore_ok hr hc⟩
  case access =>
    refine ⟨fun pa bs h => hostAccess_writeMem_effect hp ?_, fun pa n => hostAccess_readMem hp,
      fun r v => hostAccess_writeReg hp, fun r x => hostAccess_readReg hp, fun a off x => hostAccess_aperture hp,
      fun v => congrArg Host.Outcome.next (writeReg_fabCtl hp), fun v => congrArg Host.Outcome.next (writeReg_tlbi hp),
      fun q v hr hq => congrArg Host.Outcome.next (writeReg_doorbell hp hr hq), fun p i v => registerWrite_part_effect hp,
      fun fn v hf hr => writeReg_mailbox_idle hp hf hr⟩
    exact h.elim clearOfRecords_of_no_pool fun ⟨hl, hn⟩ => clearOfRecords_of_single hl hn

end Sys2Proof.Machine
end

section
/-! What a step runs (R10, R42, R58, R129, R282): the turn of the machine, and the word that the issuing group fetches. -/

namespace Sys2Proof.Machine

variable {s : State} {r : Run}

/-- What a step makes of a turn. -/
def Turn.taken : Turn → Host.Outcome State Fault Refusal
  | .run i t => exec i t
  | .rest t => .next t

theorem step_eq_taken (s : State) : step s = (s.turn exec).taken := rfl

/-! The order of turns: a group that is to run ahead, then the agenda, then the machine's own choice -/

theorem turn_of_ahead {run} {b : Batch} (h : s.aheadDue = some b) : s.turn run = .rest (s.runAhead run b) := by
  unfold State.turn
  rw [h]

theorem turn_of_agenda {run} {a : Action} {rest : List Action} (h : s.aheadDue = none) (ha : s.agenda = a :: rest) :
    s.turn run = { s with agenda := rest }.act a := by
  unfold State.turn
  rw [h, ha]

theorem turn_of_no_agenda {run} (h : s.aheadDue = none) (ha : s.agenda = []) : s.turn run = s.defaultTurn run := by
  unfold State.turn
  rw [h, ha]

theorem act_event {i : Instr} (h : i.isWord = false) : s.act (.event i) = .run i s := by
  simp [State.act, agendaEvent, h]

theorem act_word {i : Instr} (h : i.isWord = true) : s.act (.event i) = .rest s := by
  simp [State.act, agendaEvent, h]

theorem defaultTurn_of_running {run} (hl : s.alive = true) (hg : s.runnable s.g = true) (hr : s.g.run = some r) :
    s.defaultTurn run = s.fetched r := by
  simp [State.defaultTurn, State.groupTurn, hl, hg, hr]

theorem defaultTurn_of_no_power {run} (h : s.boot.power = false) : s.defaultTurn run = .rest s := by
  simp [State.defaultTurn, State.alive, h]

/-! The word that comes next -/

theorem fetched_of_decoded {w : W64} {i : Instr} (hw : r.words[r.wix]? = some w) (hi : decodeWord r.lits w = .ok i) :
    s.fetched r = .run i s := by
  simp only [State.fetched, hw, hi]

theorem fetched_of_illegal {w : W64} {n : Nat} (hw : r.words[r.wix]? = some w) (hn : decodeWord r.lits w = .error n) :
    s.fetched r = .rest (s.badWord w n) := by
  simp only [State.fetched, hw, hn]

theorem fetched_of_past_end (hw : r.words[r.wix]? = none) : s.fetched r = .rest { s with g := s.g.endClause r } := by
  simp only [State.fetched, hw]

/-- Settles O56: the turn is the first of the three sources that has one, and the word fetched decides the third. -/
theorem stepRunsDecoded : Obligations.StepRunsDecoded := by
  intro s r
  refine ⟨fun b hb => ?ahead, fun hb ha hl hg hr => ?word, fun i rest hb ha => ?event, fun gid rest hb ha => ?issue,
    fun n rest hb ha => ?tick, fun hb ha hp => ?unpowered⟩
  case ahead => rw [step_eq_taken, turn_of_ahead hb]; rfl
  case word =>
    have hs : step s = (s.fetched r).taken := by
      rw [step_eq_taken, turn_of_no_agenda hb ha, defaultTurn_of_running hl hg hr]
    refine ⟨fun w i hw hi => ?_, fun w n hw hn => ?_, fun hw => ?_⟩
    · rw [hs, fetched_of_decoded hw hi]; rfl
    · rw [hs, fetched_of_illegal hw hn]; rfl
    · rw [hs, fetched_of_past_end hw]; rfl
  case event =>
    have hs : step s = ({ s with agenda := rest }.act (.event i)).taken := by rw [step_eq_taken, turn_of_agenda hb ha]
    refine ⟨fun hi => ?_, fun hi => ?_⟩
    · rw [hs, act_event hi]; rfl
    · rw [hs, act_word hi]; rfl
  case issue => rw [step_eq_taken, turn_of_agenda hb ha]; rfl
  case tick => rw [step_eq_taken, turn_of_agenda hb ha]; rfl
  case unpowered => rw [step_eq_taken, turn_of_no_agenda hb ha, defaultTurn_of_no_power hp]; rfl

end Sys2Proof.Machine
end

section
/-! EXIT (R13, R134): what the threads that end leave in each lane, and that what follows, a group that leaves its core and
blocks that end, changes no lane of a group that stays. -/

namespace Sys2Proof.Machine

variable {s t u : State}

/-! Blocks and launches end without changing the issuing group -/

/-- The issuing group is the same. -/
def SameGroup (s t : State) : Prop := t.g = s.g

theorem SameGroup.refl (s : State) : SameGroup s s := rfl

theorem SameGroup.trans (h1 : SameGroup s t) (h2 : SameGroup t u) : SameGroup s u := Eq.trans h2 h1

theorem LogOnly.sameGroup (h : LogOnly s t) : SameGroup s t := h.keeps.1

theorem StoreOnly.sameGroup (h : StoreOnly s t) : SameGroup s t := h.group

theorem SameGroup.foldl {α : Type} {f : State → α → State} (hf : ∀ t x, SameGroup t (f t x)) (l : List α) (s : State) :
    SameGroup s (l.foldl f s) :=
  List.foldlRecOn (motive := SameGroup s) l f (.refl s) fun t ht x _ => ht.trans (hf t x)

theorem imprecise_sameGroup (s : State) (asid code : Nat) (detail : List W64) (addr : Nat) :
    SameGroup s (s.imprecise asid code detail addr) :=
  .trans (t := s.setCtx asid (s.ctx asid).faulted) rfl (imprecise_log s asid code detail addr).sameGroup

theorem newBatch_sameGroup (s : State) (asid : Nat) (pages : List Nat) : SameGroup s (s.newBatch asid pages).2 := by
  refine .trans (t := (s.openBatch asid pages none).2) rfl ?_
  show SameGroup _ ((s.openBatch asid pages none).2.reportInvalid asid s.batchNext pages)
  unfold State.reportInvalid
  extract_lets inv pg
  split
  · exact .refl _
  · exact imprecise_sameGroup _ _ _ _ _

theorem ctxStore_sameGroup (s : State) (asid va : Nat) (bs : List Byte) : SameGroup s (s.ctxStore asid va bs).2 := by
  unfold State.ctxStore
  split
  · rename_i e lvl addr _
    split
    · exact ((seenDirty_store s asid va addr e).trans
        (.of_fabric ((wcbStore_fabric _ _ _ _ _ _ _).trans (drainWcb_fabric _ _)))).sameGroup
    · exact (vPoke_store _ _ _ _).sameGroup
  · exact imprecise_sameGroup _ _ _ _ _
  · split
    · exact .refl s
    · unfold State.wantPages
      split
      · exact .refl s
      · exact newBatch_sameGroup _ _ _

theorem complete_sameGroup (s : State) (l : Launch) : SameGroup s (s.complete l) := by
  rw [show @State.complete = _ from by delta State.complete; rfl]
  split
  rename_i ok s1 e
  have h1 : SameGroup s s1 := by
    split at e
    · cases e; exact .refl s
    · split at e
      · cases e; exact .refl s
      · rw [← show _ = s1 from congrArg Prod.snd e]
        exact .trans (StoreOnly.of_fabric (drainWcb_fabric _ _)).sameGroup (ctxStore_sameGroup _ _ _ _)
  extract_lets mine s2
  split
  · have h2 : SameGroup s s2 := h1.trans (trace_log _ _ _ _ _ _ _).sameGroup
    exact .trans (t := { s2 with launches := s2.launches.filter (fun x => !mine x) }) h2 (settleQueue_mem_g _ _).2
  · exact h1

theorem releaseTables_sameGroup (s : State) (b : Block) : SameGroup s (s.releaseTables b) :=
  .foldl (fun t x => by
    dsimp only
    split
    · exact (poke_store _ _ _).sameGroup
    · exact .refl t) _ _

theorem endBlocks_sameGroup (s : State) (asid launch : Nat) : SameGroup s (s.endBlocks asid launch) := by
  unfold State.endBlocks
  extract_lets done s0 s1
  have h1 : SameGroup s s1 := SameGroup.foldl releaseTables_sameGroup done s
  split
  · exact .refl s
  · split
    · split
      · exact h1.trans (complete_sameGroup _ _)
      · exact h1
    · exact h1

theorem telemetry_sameGroup (s : State) (core asid : Nat) (pc : W32) (parks fwd busy idle : Nat) :
    SameGroup s (s.telemetry core asid pc parks fwd busy idle) := by
  unfold State.telemetry
  extract_lets c
  split
  · exact .refl s
  · split
    · exact .refl s
    · exact (vPoke_store _ _ _ _).sameGroup

/-- A group leaves its core only without a LIVE lane; its place is then empty. -/
theorem leave_g (s : State) (pc : W32) : (s.leave pc).g = s.g ∨ s.g.empty = true ∧ (s.leave pc).g = Group.off := by
  unfold State.leave
  split
  · rename_i h
    rw [Bool.and_eq_true] at h
    exact .inr ⟨h.1, Eq.trans (endBlocks_sameGroup _ _ _) (telemetry_sameGroup _ _ _ _ _ _ _ _)⟩
  · exact .inl rfl

/-! Lanes that end their threads -/

/-- A lane stays LIVE where the lanes of a list end their threads. -/
def Group.staysLive (g : Group) (ls : List Nat) (L : Nat) : Bool := (g.lane L).isLive && !ls.contains L

/-- Lane L of a group, when the lanes `ls` of `g` have ended their threads: HELPER or as it was where its quad keeps a LIVE
lane, else ABSENT; a lane that stays LIVE has its registers. -/
structure LaneEnded (g : Group) (ls : List Nat) (L : Nat) (x : Lane) : Prop where
  status : x.status = if (quadLanes (L / 4)).any (g.staysLive ls) then (if L ∈ ls then .helper else (g.lane L).status)
    else .absent
  kept : g.staysLive ls L = true → ∀ n, x.vr n = (g.lane L).vr n

theorem mem_quadLanes_self (L : Nat) : L ∈ quadLanes (L / 4) := by
  simp only [quadLanes, List.mem_cons, List.not_mem_nil, or_false]
  omega

theorem quadLanes_lt {L M : Nat} (hL : L < 32) (h : M ∈ quadLanes (L / 4)) : M < 32 := by
  simp only [quadLanes, List.mem_cons, List.not_mem_nil, or_false] at h
  omega

theorem staysLive_quad {g : Group} {ls : List Nat} {L : Nat} (h : g.staysLive ls L = true) :
    (quadLanes (L / 4)).any (g.staysLive ls) = true :=
  List.any_eq_true.mpr ⟨L, mem_quadLanes_self L, h⟩

/-- A lane whose thread ends in a quad that keeps a LIVE lane. -/
def Lane.ended (x : Lane) : Lane := { x with status := .helper, hold := .none, mid := false, ypc := none }

theorem endThreads_lane (g : Group) {ls : List Nat} (hd : ls.Nodup) {L : Nat} (hL : L < 32) :
    (g.endThreads ls).lane L = if (quadLanes (L / 4)).any (g.staysLive ls) then
        (if L ∈ ls then (g.lane L).ended else g.lane L)
      else Lane.off := by
  unfold Group.endThreads
  extract_lets g1
  have h1 (M : Nat) : g1.lane M = if M ∈ ls then (g.lane M).ended else g.lane M := mapLanes_lane g ls _ M hd
  have hlive : (fun M => (g1.lane M).isLive) = g.staysLive ls := by
    funext M
    rw [h1]
    by_cases hM : M ∈ ls <;> simp [Group.staysLive, Lane.isLive, Lane.ended, hM]
  have hquad : L ∈ allLanes.filter (fun L => (g1.quadLive (L / 4)).isEmpty)
      ↔ ¬ (quadLanes (L / 4)).any (g.staysLive ls) = true := by
    simp [Group.quadLive, hlive, allLanes, hL]
  have hn : (allLanes.filter (fun L => (g1.quadLive (L / 4)).isEmpty)).Nodup := List.Nodup.filter _ List.nodup_range
  rw [mapLanes_lane _ _ _ _ hn, h1]
  simp only [hquad, ite_not]

/-- The threads end alike in a group whose lanes differ in their PCs. -/
theorem endThreads_ended {g h : Group} {ls : List Nat} (hd : ls.Nodup)
    (e : ∀ L, ∃ pc, h.lane L = { g.lane L with pc := pc }) {L : Nat} (hL : L < 32) :
    LaneEnded g ls L ((h.endThreads ls).lane L) := by
  obtain ⟨pc, hpc⟩ := e L
  have hs : h.staysLive ls = g.staysLive ls := by
    funext M
    obtain ⟨_, hM⟩ := e M
    simp [Group.staysLive, Lane.isLive, hM]
  rw [endThreads_lane h hd hL, hs, hpc]
  refine ⟨?_, fun hstay n => ?_⟩
  · split
    · split <;> rfl
    · rfl
  · have hn : L ∉ ls := by
      intro hm
      simp [Group.staysLive, hm] at hstay
    rw [if_pos (staysLive_quad hstay), if_neg hn]
    rfl

theorem LaneEnded.isLive {g : Group} {ls : List Nat} {L : Nat} {x : Lane} (h : LaneEnded g ls L x)
    (hs : g.staysLive ls L = true) : x.isLive = true := by
  have hl : (g.lane L).isLive = true ∧ L ∉ ls := by simpa [Group.staysLive] using hs
  have hx := h.status
  rw [if_pos (staysLive_quad hs), if_neg hl.2] at hx
  simpa [Lane.isLive, hx] using hl.1

theorem not_isLive_of_empty {g : Group} {L : Nat} (h : g.empty = true) (hL : L < 32) : (g.lane L).isLive = false := by
  simp only [Group.empty, Group.live, below, List.isEmpty_iff, List.filter_eq_nil_iff, List.mem_range] at h
  simpa using h L hL

/-- Where the group is left without a LIVE lane, an empty place shows what EXIT leaves. -/
theorem ended_off {g h : Group} {ls : List Nat} (hl : ∀ L, L < 32 → LaneEnded g ls L (h.lane L)) (he : h.empty = true)
    {L : Nat} (hL : L < 32) : LaneEnded g ls L (Group.off.lane L) := by
  have hn : ∀ M < 32, g.staysLive ls M = false := fun M hM => by
    by_contra hc
    have := (hl M hM).isLive (by simpa using hc)
    rw [not_isLive_of_empty he hM] at this
    exact absurd this (by decide)
  have hq : (quadLanes (L / 4)).any (g.staysLive ls) = false := by
    rw [List.any_eq_false]
    intro M hM
    rw [hn M (quadLanes_lt hL hM)]
    decide
  refine ⟨?_, fun hs => ?_⟩
  · rw [hq]; rfl
  · rw [hn L hL] at hs
    exact absurd hs (by decide)

/-- Where a group that keeps no LIVE lane leaves, and its blocks end, the lanes still are as EXIT leaves them. -/
theorem leave_endBlocks_ended {g : Group} {ls : List Nat} (pc : W32) (asid launch : Nat)
    (h : ∀ L, L < 32 → LaneEnded g ls L (t.g.lane L)) {L : Nat} (hL : L < 32) :
    LaneEnded g ls L (((t.leave pc).endBlocks asid launch).g.lane L) := by
  rw [show ((t.leave pc).endBlocks asid launch).g = (t.leave pc).g from endBlocks_sameGroup _ _ _]
  obtain hg | ⟨he, hg⟩ := leave_g t pc
  · rw [hg]; exact h L hL
  · rw [hg]; exact ended_off h he hL

/-! The word -/

theorem transfer_id_lane (g : Group) (r : Run) (gd : Guard) (L : Nat) :
    ∃ pc, (g.transfer r gd (fun _ x => x)).lane L = { g.lane L with pc := pc } := by
  unfold Group.transfer
  extract_lets act
  rw [mapLanes_lane _ _ _ _ (below_nodup _ _)]
  split
  · split <;> exact ⟨_, rfl⟩
  · exact ⟨_, rfl⟩

theorem exitArrivals_of_no_held {qs : List Nat} (h : s.g.held = []) : s.exitArrivals qs = s := by
  unfold State.exitArrivals
  rw [h]
  rfl

/-- The backing slots that a word fills after its effects are those of a group that is still there; they change no lane
but for the marks of its slots. -/
theorem saved_stop_lane (t : State) (gid : Nat) (l : List ((Nat × Nat) × List Piece)) (L : Nat) :
    ∃ b, ((Res.stop t).saved gid l).finish.g.lane L = { t.g.lane L with inSlot := b } := by
  show ∃ b, (if t.g.gid = gid then t.saveTo l else t).g.lane L = _
  split
  · exact (saveTo_saved t l).lane L
  · exact ⟨_, rfl⟩

/-- The group after EXIT, before it may leave its core. -/
def Group.exited (g : Group) (r : Run) (gd : Guard) : Group :=
  { g.transfer r gd (fun _ x => x) with run := none, keep := none }.endThreads (g.active gd)

theorem exited_ended (g : Group) (r : Run) (gd : Guard) {L : Nat} (hL : L < 32) :
    LaneEnded g (g.active gd) L ((g.exited r gd).lane L) :=
  endThreads_ended (active_nodup g gd) (fun M => transfer_id_lane g r gd M) hL

/-- The effects of EXIT, its operands being there. -/
def exitBody (f : FmtE) (s : State) : Res :=
  match s.g.run with
  | none => .stop s
  | some r =>
    if s.g.trap.isSome then .trap s { cause := 0x2D, detail := 0, lane := none }
    else .stop (((({ s.retire with g := s.retire.g.exited r f.guard }).exitArrivals
      (((s.g.active f.guard).map (· / 4)).eraseDups)).leave r.pc).endBlocks s.g.asid s.g.launch)

theorem exec_exit_eq (f : FmtE) (s : State) : exec (.exit f) s = s.word (.exit f) f.guard (exitBody f) := rfl

/-- EXIT outside a handler with no lane held: its threads have ended, the group may leave and its blocks may end. -/
theorem exitBody_ended {f : FmtE} {r : Run} (hrun : s.g.run = some r) (htrap : s.g.trap = none) (hheld : s.g.held = []) :
    ∃ t, exitBody f s = .stop t ∧ ∀ L, L < 32 → LaneEnded s.g (s.g.active f.guard) L (t.g.lane L) := by
  refine ⟨(({ s.retire with g := s.retire.g.exited r f.guard } : State).leave r.pc).endBlocks s.g.asid s.g.launch, ?_,
    fun L hL => leave_endBlocks_ended _ _ _ (fun M hM => exited_ended s.g r f.guard hM) hL⟩
  have hno : ({ s.retire with g := s.retire.g.exited r f.guard } : State).g.held = [] := hheld
  simp only [exitBody, hrun, htrap, Option.isSome_none, Bool.false_eq_true, if_false, exitArrivals_of_no_held hno]

/-- Settles O17: the threads end in the group as `endThreads_lane` says, and what follows changes no lane of a group that
keeps a LIVE lane. -/
theorem exitEndsThreads : Obligations.ExitEndsThreads := by
  intro s f hr htrap hheld
  obtain ⟨r, hrun⟩ := Option.isSome_iff_exists.mp hr.1.1
  obtain ⟨s1, kp, -, hw⟩ := word_ready (exitBody f) hr
  obtain ⟨t, ht, hend⟩ := exitBody_ended (s := s1.withG (s.g.setKeep kp)) (f := f) hrun htrap hheld
  rw [ht] at hw
  refine ⟨_, (exec_exit_eq f s).trans hw, fun L hL => ?_⟩
  obtain ⟨b, hb⟩ := saved_stop_lane t s.g.gid (s.slotPieces (s.g.active f.guard) (wordRegs (.exit f)).vw) L
  rw [hb]
  obtain ⟨hstatus, hkept⟩ := hend L hL
  exact ⟨hstatus, hkept⟩

end Sys2Proof.Machine
end

section
/-! The encoding (R45, R50 to R63): the codes, the parts of a word, each format, the rows of the opcode map, and that decoding
and encoding agree. -/

namespace Sys2Proof

open Enc

/-! ### Codes -/

@[simp] theorem tyOfCode_code (t : Ty) : tyOfCode t.code = some t := by cases t <;> rfl

theorem code_of_tyOfCode {c : BitVec 5} {t : Ty} (h : tyOfCode c = some t) : t.code = c := by
  decide +revert

@[simp] theorem scopeOfCode_code (sc : Scope) : scopeOfCode sc.code = sc := by cases sc <;> rfl

@[simp] theorem code_scopeOfCode : ∀ c : BitVec 3, (scopeOfCode c).code = c := by decide

@[simp] theorem ordOfCode_code (o : Ord) : ordOfCode o.code = o := by cases o <;> rfl

@[simp] theorem code_ordOfCode : ∀ c : BitVec 2, (ordOfCode c).code = c := by decide

@[simp] theorem srcOf_cls_field (x : Src) : srcOf x.cls x.field = x := by cases x <;> rfl

@[simp] theorem cls_srcOf (c : BitVec 2) (x : BitVec 8) : (srcOf c x).cls = c := by
  obtain rfl | rfl | rfl | rfl : c = 0#2 ∨ c = 1#2 ∨ c = 2#2 ∨ c = 3#2 := by decide +revert
  all_goals rfl

@[simp] theorem field_srcOf (c : BitVec 2) (x : BitVec 8) : (srcOf c x).field = x := by
  unfold srcOf
  split <;> rfl

/-! ### The head of a word (R45, R46) -/

theorem extractLsb'_extractLsb' {n : Nat} (x : BitVec n) {a m b k : Nat} (h : b + k ≤ m) :
    (x.extractLsb' a m).extractLsb' b k = x.extractLsb' (a + b) k := by
  ext i hi
  simp [show b + i < m by omega, Nat.add_assoc]

theorem extractLsb'_one_eq_ofBool {n : Nat} (x : BitVec n) (i : Nat) : x.extractLsb' i 1 = BitVec.ofBool (x.getLsbD i) := by
  ext j hj
  obtain rfl : j = 0 := by omega
  simp

/-- The guard of bits 48:44. -/
def guardOfBits (x : BitVec 5) : Option Guard :=
  if x.getLsbD 4 then some (.on (x.getLsbD 3) (x.extractLsb' 0 3))
  else if x.extractLsb' 0 4 = 0#4 then some .always else none

theorem guardOf_eq_guardOfBits (w : W64) : guardOf w = guardOfBits (w.extractLsb' 44 5) := by
  simp (disch := decide) only [guardOf, guardOfBits, extractLsb'_extractLsb', BitVec.getLsbD_extractLsb', Nat.reduceLT,
    decide_true, Bool.true_and, Nat.reduceAdd]

@[simp] theorem guardOfBits_guardBits (g : Guard) : guardOfBits (guardBits g) = some g := by
  cases g with
  | always => rfl
  | on n p => decide +revert

theorem guardBits_of_guardOfBits {x : BitVec 5} {g : Guard} (h : guardOfBits x = some g) : guardBits g = x := by
  have round : ∀ y : BitVec 5, (guardOfBits y).all (fun k => guardBits k == y) = true := by decide
  simpa [h] using round x

/-- Bits 63:44 of a word are those of its opcode, MOD, KEEP and guard. -/
theorem headBits_of_guardOf {w : W64} {g : Guard} (h : guardOf w = some g) :
    headBits (opcOf w) (modOf w) (keepOf w) g = w.extractLsb' 44 20 := by
  simp only [headBits, opcOf, modOf, keepOf, guardBits_of_guardOfBits ((guardOf_eq_guardOfBits w).symm.trans h),
    ← extractLsb'_one_eq_ofBool, BitVec.ofNat_toNat, BitVec.setWidth_eq]
  simp (disch := decide) only [BitVec.extractLsb'_append_extractLsb'_eq_extractLsb']

section
variable {w : W64} {opc : Nat} {md : BitVec 4} {keep : Bool} {g : Guard}
  (h : w.extractLsb' 44 20 = headBits opc md keep g)
include h

theorem head_part {i n : Nat} (hi : i + n ≤ 20) : w.extractLsb' (44 + i) n = (headBits opc md keep g).extractLsb' i n := by
  rw [← h, extractLsb'_extractLsb' w hi]

theorem opcOf_of_head (ho : opc < 1024) : opcOf w = opc := by
  unfold opcOf
  rw [head_part h (i := 10) (n := 10) (by decide)]
  unfold headBits
  simp (disch := decide) only [BitVec.extractLsb'_append_eq_of_le]
  rw [BitVec.extractLsb'_eq_self, BitVec.toNat_ofNat, Nat.mod_eq_of_lt ho]

theorem modOf_of_head : modOf w = md := by
  unfold modOf
  rw [head_part h (i := 6) (n := 4) (by decide)]
  unfold headBits
  simp (disch := decide) only [BitVec.extractLsb'_append_eq_of_le, BitVec.extractLsb'_append_eq_of_add_le]
  exact BitVec.extractLsb'_eq_self

theorem keepOf_of_head : keepOf w = keep := by
  refine BitVec.ofBool_eq_iff_eq.mp ((extractLsb'_one_eq_ofBool w 49).symm.trans ?_)
  rw [head_part h (i := 5) (n := 1) (by decide)]
  unfold headBits
  simp (disch := decide) only [BitVec.extractLsb'_append_eq_of_le, BitVec.extractLsb'_append_eq_of_add_le]
  exact BitVec.extractLsb'_eq_self

theorem guardOf_of_head : guardOf w = some g := by
  rw [guardOf_eq_guardOfBits, head_part h (i := 0) (n := 5) (by decide), ← guardOfBits_guardBits g]
  unfold headBits
  rw [BitVec.extractLsb'_append_eq_right]

end

/-! ### The formats (R50 to R55): a word of fields has those fields, and a word is the word of its fields -/

/-- MOD among the fields of a word. -/
def Enc.Fields.modBits : Fields → BitVec 4
  | .a f => f.mod | .w f => f.mod | .j f => f.mod | .m f => f.mod | .e f => f.mod

theorem Enc.Fields.modBits_toNat (f : Fields) : f.modBits.toNat = f.mod := by cases f <;> rfl

theorem head_packFields (opc : Nat) (f : Fields) :
    (packFields opc f).extractLsb' 44 20 = headBits opc f.modBits f.keep f.guard := by
  cases f <;> simp only [packFields, packA, packW, packJ, packM, packE, Fields.keep, Fields.guard, Fields.modBits] <;>
    simp (disch := decide) only [BitVec.extractLsb'_append_eq_of_le] <;>
    exact BitVec.extractLsb'_eq_self

section
variable {w : W64} {g : Guard} (opc : Nat)

theorem fieldsA_packA (f : FmtA) : fieldsA (packA opc f) f.guard = some f := by
  have hm : modOf (packA opc f) = f.mod := modOf_of_head (head_packFields opc (.a f))
  have hk : keepOf (packA opc f) = f.keep := keepOf_of_head (head_packFields opc (.a f))
  simp only [fieldsA, hm, hk]
  simp (disch := decide) only [packA, BitVec.extractLsb'_append_eq_of_le, BitVec.extractLsb'_append_eq_of_add_le,
    Nat.reduceSub, BitVec.extractLsb'_eq_self, tyOfCode_code, srcOf_cls_field, Option.map_some, BitVec.getLsbD_append]
  simp

theorem fieldsW_packW (f : FmtW) : fieldsW (packW opc f) f.guard = f := by
  have hm : modOf (packW opc f) = f.mod := modOf_of_head (head_packFields opc (.w f))
  have hk : keepOf (packW opc f) = f.keep := keepOf_of_head (head_packFields opc (.w f))
  simp only [fieldsW, hm, hk]
  simp (disch := decide) only [packW, BitVec.extractLsb'_append_eq_of_le, BitVec.extractLsb'_append_eq_of_add_le,
    Nat.reduceSub, BitVec.extractLsb'_eq_self]

theorem fieldsJ_packJ (f : FmtJ) : fieldsJ (packJ opc f) f.guard = f := by
  have hm : modOf (packJ opc f) = f.mod := modOf_of_head (head_packFields opc (.j f))
  have hk : keepOf (packJ opc f) = f.keep := keepOf_of_head (head_packFields opc (.j f))
  simp only [fieldsJ, hm, hk]
  simp (disch := decide) only [packJ, BitVec.extractLsb'_append_eq_of_le, BitVec.extractLsb'_append_eq_of_add_le,
    Nat.reduceSub, BitVec.extractLsb'_eq_self]

theorem fieldsM_packM (f : FmtM) : fieldsM (packM opc f) f.guard = some f := by
  have hm : modOf (packM opc f) = f.mod := modOf_of_head (head_packFields opc (.m f))
  have hk : keepOf (packM opc f) = f.keep := keepOf_of_head (head_packFields opc (.m f))
  simp only [fieldsM, hm, hk]
  simp (disch := decide) only [packM, BitVec.extractLsb'_append_eq_of_le, BitVec.extractLsb'_append_eq_of_add_le,
    Nat.reduceSub, BitVec.extractLsb'_eq_self, tyOfCode_code, srcOf_cls_field, scopeOfCode_code, ordOfCode_code,
    Option.map_some]

theorem fieldsE_packE (f : FmtE) : fieldsE (packE opc f) f.guard = f := by
  have hm : modOf (packE opc f) = f.mod := modOf_of_head (head_packFields opc (.e f))
  have hk : keepOf (packE opc f) = f.keep := keepOf_of_head (head_packFields opc (.e f))
  simp only [fieldsE, hm, hk]
  simp (disch := decide) only [packE, BitVec.extractLsb'_append_eq_of_le, BitVec.extractLsb'_append_eq_of_add_le,
    Nat.reduceSub, BitVec.extractLsb'_eq_self]

end

section
variable {w : W64} {g : Guard} (h : guardOf w = some g)
include h

theorem packA_fieldsA {f : FmtA} (hf : fieldsA w g = some f) : packA (opcOf w) f = w := by
  obtain ⟨ty, hty, rfl⟩ := Option.map_eq_some_iff.mp hf
  simp only [packA, field_srcOf, cls_srcOf, code_of_tyOfCode hty, headBits_of_guardOf h, ← extractLsb'_one_eq_ofBool]
  simp (disch := decide) only [BitVec.extractLsb'_append_extractLsb'_eq_extractLsb']
  exact BitVec.extractLsb'_eq_self

theorem packW_fieldsW : packW (opcOf w) (fieldsW w g) = w := by
  simp only [packW, fieldsW, headBits_of_guardOf h]
  simp (disch := decide) only [BitVec.extractLsb'_append_extractLsb'_eq_extractLsb']
  exact BitVec.extractLsb'_eq_self

theorem packJ_fieldsJ : packJ (opcOf w) (fieldsJ w g) = w := by
  simp only [packJ, fieldsJ, headBits_of_guardOf h]
  simp (disch := decide) only [BitVec.extractLsb'_append_extractLsb'_eq_extractLsb']
  exact BitVec.extractLsb'_eq_self

theorem packM_fieldsM {f : FmtM} (hf : fieldsM w g = some f) : packM (opcOf w) f = w := by
  obtain ⟨ty, hty, rfl⟩ := Option.map_eq_some_iff.mp hf
  simp only [packM, field_srcOf, cls_srcOf, code_scopeOfCode, code_ordOfCode, code_of_tyOfCode hty, headBits_of_guardOf h]
  simp (disch := decide) only [BitVec.extractLsb'_append_extractLsb'_eq_extractLsb']
  exact BitVec.extractLsb'_eq_self

theorem packE_fieldsE : packE (opcOf w) (fieldsE w g) = w := by
  simp only [packE, fieldsE, headBits_of_guardOf h]
  simp (disch := decide) only [BitVec.extractLsb'_append_extractLsb'_eq_extractLsb']
  exact BitVec.extractLsb'_eq_self

end

/-- A row makes its instruction of the fields that the word has under the row's format. -/
theorem fieldsFor_packFields {fmt : Fmt} {f : Fields} {i : Instr} (opc : Nat) (h : fmt.make f = some i) :
    fieldsFor (packFields opc f) f.guard fmt = some (f, i) := by
  cases fmt <;> cases f <;> cases h <;>
    simp only [fieldsFor, packFields, Fields.guard, fieldsA_packA, fieldsW_packW, fieldsJ_packJ, fieldsM_packM, fieldsE_packE,
      Option.map_some]

theorem fieldsFor_spec {w : W64} {g : Guard} {fmt : Fmt} {f : Fields} {i : Instr} (hg : guardOf w = some g)
    (h : fieldsFor w g fmt = some (f, i)) :
    packFields (opcOf w) f = w ∧ fmt.make f = some i ∧ f.mod = (modOf w).toNat := by
  cases fmt with
  | a s mk =>
    obtain ⟨f, hf, ⟨⟩⟩ := Option.map_eq_some_iff.mp h
    obtain ⟨ty, -, hm⟩ := Option.map_eq_some_iff.mp hf
    exact ⟨packA_fieldsA hg hf, rfl, hm ▸ rfl⟩
  | w mk => cases h; exact ⟨packW_fieldsW hg, rfl, rfl⟩
  | j dst z mk => cases h; exact ⟨packJ_fieldsJ hg, rfl, rfl⟩
  | m s mk =>
    obtain ⟨f, hf, ⟨⟩⟩ := Option.map_eq_some_iff.mp h
    obtain ⟨ty, -, hm⟩ := Option.map_eq_some_iff.mp hf
    exact ⟨packM_fieldsM hg hf, rfl, hm ▸ rfl⟩
  | e s mk => cases h; exact ⟨packE_fieldsE hg, rfl, rfl⟩

/-! ### The rows of the opcode map (R61) -/

/-- A row makes instructions that have its opcode, and the opcode is no hint's. -/
def Enc.Row.Makes (r : Row) : Prop :=
  r.opc < 0x3C0 ∧ match r.fmt with
    | .a _ instr => ∀ f, view (instr f) = .word r.opc (.a f)
    | .w instr => ∀ f, view (instr f) = .word r.opc (.w f)
    | .j _ _ instr => ∀ f, view (instr f) = .word r.opc (.j f)
    | .m _ instr => ∀ f, view (instr f) = .word r.opc (.m f)
    | .e _ instr => ∀ f, view (instr f) = .word r.opc (.e f)

theorem rows_make : ∀ r ∈ rows, r.Makes := by
  repeat refine List.forall_mem_cons.mpr ⟨⟨by decide, fun _ => rfl⟩, ?_⟩
  exact List.forall_mem_nil _

theorem view_of_make {r : Row} {f : Fields} {i : Instr} (hr : r ∈ rows) (h : r.fmt.make f = some i) : view i = .word r.opc f := by
  obtain ⟨-, hv⟩ := rows_make r hr
  obtain ⟨opc, md, fmt⟩ := r
  cases fmt <;> cases f <;> cases h <;> exact hv _

theorem rowFor_spec {opc md : Nat} {r : Row} (h : rowFor opc md = some r) : r ∈ rows ∧ r.opc = opc := by
  simpa [rowsOf] using List.mem_of_find?_eq_some h

theorem assigned_of_mem {r : Row} (h : r ∈ rows) : assigned r.opc = true := List.any_eq_true.mpr ⟨r, h, beq_self_eq_true _⟩

/-! ### Words and instructions -/

theorem wordWf_iff {lits : List W64} {opc : Nat} {f : Fields} {i : Instr} :
    wordWf lits opc f i = true ↔ ∃ r, rowFor opc f.mod = some r ∧ r.fmt.check lits f = none ∧ r.fmt.make f = some i := by
  unfold wordWf
  split <;> simp_all

theorem decodeWord_of_hint {lits : List W64} {w : W64} (h : 0x3C0 ≤ opcOf w) : decodeWord lits w = .ok (hintOf w) := by
  simp only [decodeWord, h, if_true]

theorem decodeWord_of_unassigned {lits : List W64} {w : W64} (h : opcOf w < 0x3C0) (ha : assigned (opcOf w) = false) :
    decodeWord lits w = .ok (.reservedOpcode w) := by
  simp [decodeWord, Nat.not_le.mpr h, ha]

theorem decodeWord_of_row {lits : List W64} {w : W64} {g : Guard} {r : Row} {f : Fields} {i : Instr} (hg : guardOf w = some g)
    (hr : rowFor (opcOf w) (modOf w).toNat = some r) (hf : fieldsFor w g r.fmt = some (f, i)) (hc : r.fmt.check lits f = none) :
    decodeWord lits w = .ok i := by
  obtain ⟨hm, ho⟩ := rowFor_spec hr
  have hlt : opcOf w < 0x3C0 := ho ▸ (rows_make r hm).1
  simp [decodeWord, Nat.not_le.mpr hlt, ho ▸ assigned_of_mem hm, hg, hr, hf, hc]

/-- The three ways in which a word decodes. -/
theorem decodeWord_ok {lits : List W64} {w : W64} {i : Instr} (h : decodeWord lits w = .ok i) :
    (0x3C0 ≤ opcOf w ∧ i = hintOf w)
      ∨ (opcOf w < 0x3C0 ∧ assigned (opcOf w) = false ∧ i = .reservedOpcode w)
      ∨ ∃ g r f, guardOf w = some g ∧ rowFor (opcOf w) (modOf w).toNat = some r ∧ fieldsFor w g r.fmt = some (f, i)
          ∧ r.fmt.check lits f = none := by
  simp only [decodeWord] at h
  split at h
  next ho => exact .inl ⟨ho, (Except.ok.inj h).symm⟩
  next ho =>
    split at h
    next ha => exact .inr (.inl ⟨Nat.lt_of_not_le ho, by simpa using ha, (Except.ok.inj h).symm⟩)
    next =>
      split at h
      next => cases h
      next g hg =>
        split at h
        next => cases h
        next r hr =>
          split at h
          next => cases h
          next f k hf =>
            split at h
            next hc => exact .inr (.inr ⟨g, r, f, hg, hr, Except.ok.inj h ▸ hf, hc⟩)
            next => cases h

/-! Hints (R63) -/

theorem view_hint {i : Instr} {n : BitVec 6} {b : BitVec 54} (h : view i = .hint n b) :
    (i = .hint0 b ∧ n = 0) ∨ (i = .hint1 b ∧ n = 1) ∨ i = .hintUnimplemented n b := by
  cases i
  case hint0 => cases h; exact .inl ⟨rfl, rfl⟩
  case hint1 => cases h; exact .inr (.inl ⟨rfl, rfl⟩)
  case hintUnimplemented => cases h; exact .inr (.inr rfl)
  all_goals cases h

theorem view_raw {i : Instr} {w : W64} (h : view i = .raw w) : i = .reservedOpcode w := by
  cases i
  case reservedOpcode => cases h; rfl
  all_goals cases h

theorem opcOf_lt (w : W64) : opcOf w < 1024 := (w.extractLsb' 54 10).isLt

theorem opcOf_append_bits (w : W64) : BitVec.ofNat 10 (opcOf w) ++ w.extractLsb' 0 54 = w := by
  unfold opcOf
  rw [BitVec.ofNat_toNat, BitVec.setWidth_eq, BitVec.extractLsb'_append_extractLsb'_eq_extractLsb' (by decide)]
  exact BitVec.extractLsb'_eq_self

theorem opcOf_append {n : Nat} (b : BitVec 54) (h : n < 1024) : opcOf (BitVec.ofNat 10 n ++ b) = n := by
  unfold opcOf
  rw [BitVec.extractLsb'_append_eq_left, BitVec.toNat_ofNat, Nat.mod_eq_of_lt h]

/-- The hint of a number (R63). -/
def hintInstr (n : Nat) (b : BitVec 54) : Instr :=
  match n with
  | 0 => .hint0 b
  | 1 => .hint1 b
  | n => .hintUnimplemented (BitVec.ofNat 6 n) b

theorem hintOf_append {n : Nat} (b : BitVec 54) (h : n < 64) : hintOf (BitVec.ofNat 10 (0x3C0 + n) ++ b) = hintInstr n b := by
  have hn : opcOf (BitVec.ofNat 10 (0x3C0 + n) ++ b) - 0x3C0 = n := by rw [opcOf_append b (by omega)]; omega
  unfold hintOf
  rw [hn, BitVec.extractLsb'_append_eq_right]
  rfl

theorem hintInstr_of_two_le {n : BitVec 6} (b : BitVec 54) (h : 2 ≤ n.toNat) : hintInstr n.toNat b = .hintUnimplemented n b := by
  unfold hintInstr
  split
  · omega
  · omega
  · rw [BitVec.ofNat_toNat, BitVec.setWidth_eq]

theorem encode_hintInstr (b : BitVec 54) : ∀ {n : Nat}, n < 64 → encode (hintInstr n b) = some (BitVec.ofNat 10 (0x3C0 + n) ++ b)
  | 0, _ => rfl
  | 1, _ => rfl
  | n + 2, h => by
    show some (BitVec.ofNat 10 (0x3C0 + (BitVec.ofNat 6 (n + 2)).toNat) ++ b) = _
    rw [BitVec.toNat_ofNat, Nat.mod_eq_of_lt h]

theorem hintInstr_wf (lits : List W64) (b : BitVec 54) : ∀ {n : Nat}, n < 64 → (hintInstr n b).wf lits = true
  | 0, _ => rfl
  | 1, _ => rfl
  | n + 2, h => by
    show decide (2 ≤ (BitVec.ofNat 6 (n + 2)).toNat) = true
    rw [BitVec.toNat_ofNat, Nat.mod_eq_of_lt h]
    exact decide_eq_true (Nat.le_add_left 2 n)

/-! Decoding and encoding agree -/

theorem wf_of_view_word {lits : List W64} {i : Instr} {opc : Nat} {f : Fields} (h : view i = .word opc f) :
    i.wf lits = wordWf lits opc f i := by
  unfold Instr.wf
  rw [h]

theorem encode_of_view_word {i : Instr} {opc : Nat} {f : Fields} (h : view i = .word opc f) :
    encode i = some (packFields opc f) := by
  unfold encode
  rw [h]

theorem decodeWord_packFields {lits : List W64} {opc : Nat} {f : Fields} {i : Instr} (h : wordWf lits opc f i = true) :
    decodeWord lits (packFields opc f) = .ok i := by
  obtain ⟨r, hr, hc, hmake⟩ := wordWf_iff.mp h
  obtain ⟨hm, ho⟩ := rowFor_spec hr
  have hhead := head_packFields opc f
  have hopc : opcOf (packFields opc f) = opc := opcOf_of_head hhead (by have := (rows_make r hm).1; omega)
  refine decodeWord_of_row (guardOf_of_head hhead) ?_ (fieldsFor_packFields opc hmake) hc
  rw [hopc, modOf_of_head hhead, f.modBits_toNat, hr]

theorem decodeWord_encode {lits : List W64} {i : Instr} {w : W64} (hw : i.wf lits = true) (he : encode i = some w) :
    decodeWord lits w = .ok i := by
  cases hv : view i with
  | word opc f =>
    obtain rfl := Option.some.inj ((encode_of_view_word hv).symm.trans he)
    exact decodeWord_packFields (wf_of_view_word hv ▸ hw)
  | hint n b =>
    have hn : n.toNat < 64 := n.isLt
    have hw' : w = BitVec.ofNat 10 (0x3C0 + n.toNat) ++ b := by
      unfold encode at he
      rw [hv] at he
      exact (Option.some.inj he).symm
    rw [hw', decodeWord_of_hint (by rw [opcOf_append b (by omega)]; omega), hintOf_append b hn]
    obtain ⟨rfl, rfl⟩ | ⟨rfl, rfl⟩ | rfl := view_hint hv
    · rfl
    · rfl
    · rw [hintInstr_of_two_le b (of_decide_eq_true hw)]
  | raw x =>
    obtain rfl := view_raw hv
    obtain rfl : x = w := Option.some.inj he
    obtain ⟨ha, ho⟩ := Bool.and_eq_true_iff.mp hw
    exact decodeWord_of_unassigned (of_decide_eq_true ho) (Bool.not_eq_true' _ ▸ ha)
  | event =>
    unfold encode at he
    rw [hv] at he
    cases he

theorem encode_of_decodeWord {lits : List W64} {i : Instr} {w : W64} (h : decodeWord lits w = .ok i) :
    encode i = some w ∧ i.wf lits = true := by
  obtain ⟨ho, hi⟩ | ⟨ho, ha, hi⟩ | ⟨g, r, f, hg, hr, hf, hc⟩ := decodeWord_ok h
  · obtain ⟨n, hn⟩ := Nat.exists_eq_add_of_le ho
    have hn' : n < 64 := by have := opcOf_lt w; omega
    have hw : BitVec.ofNat 10 (0x3C0 + n) ++ w.extractLsb' 0 54 = w := hn ▸ opcOf_append_bits w
    rw [hi, ← hw, hintOf_append _ hn']
    exact ⟨encode_hintInstr _ hn', hintInstr_wf lits _ hn'⟩
  · rw [hi]
    exact ⟨rfl, Bool.and_eq_true_iff.mpr ⟨Bool.not_eq_true' _ ▸ ha, decide_eq_true ho⟩⟩
  · obtain ⟨hw, hmake, hmod⟩ := fieldsFor_spec hg hf
    obtain ⟨hm, hopc⟩ := rowFor_spec hr
    have hv := view_of_make hm hmake
    rw [encode_of_view_word hv, wf_of_view_word hv, hopc, hw]
    exact ⟨rfl, wordWf_iff.mpr ⟨r, hmod ▸ hr, hc, hmake⟩⟩

/-- Settles O55: the fields of a word are read back from it, the word is that of its fields, and a row makes the instruction
that has its opcode. -/
theorem decodeEncode : Obligations.DecodeEncode := fun _ _ _ => ⟨decodeWord_encode, encode_of_decodeWord⟩

/-- Settles O57: a word decodes to the well-formed instruction whose word it is; one names a literal that its clause lacks. -/
theorem sampleWordsDecode : Obligations.SampleWordsDecode := by
  have missing : decodeWord [] 0x01C0005060700186#64 = .error 4 := by decide
  refine ⟨?_, ?_, ?_, missing, ?_, ?_, ?_, ?_, ?_, ?_, ?_, ?_, ?_, ?_⟩
  all_goals exact decodeWord_encode (by decide) (by decide)

end Sys2Proof
end

section
/-! The record pool (R265 to R267): the lowest free run of units, and that room for several records is room for one after
another. -/

namespace Sys2Proof.Machine

/-- A run of n units from u begins where a used run ends, lies in the pool, and meets no used run. -/
structure FreeRun (used : List (Nat × Nat)) (size n u : Nat) : Prop where
  starts : ∃ x ∈ used, u = x.1 + x.2
  inPool : u + n ≤ size
  apart : ∀ x ∈ used, u + n ≤ x.1 ∨ x.1 + x.2 ≤ u

/-- The lesser of a number and one that may be there already. -/
def optMin (m : Option Nat) (u : Nat) : Option Nat :=
  match m with
  | none => some u
  | some v => some (min u v)

theorem foldl_optMin_some (l : List Nat) (a : Nat) : l.foldl optMin (some a) = some (l.foldl min a) := by
  induction l generalizing a with
  | nil => rfl
  | cons b l ih => rw [List.foldl_cons, List.foldl_cons, optMin, ih, Nat.min_comm]

theorem foldl_optMin_none (l : List Nat) : l.foldl optMin none = l.min? := by
  cases l with
  | nil => rfl
  | cons a l => rw [List.foldl_cons, optMin, foldl_optMin_some]; rfl

/-- The pool of a context, in units. -/
def State.poolUnits (s : State) (asid : Nat) : Nat := (s.ctx asid).poolSize / 256

/-- Where the free runs of n units begin, among the ends of the used runs. -/
def State.freeRuns (s : State) (asid n : Nat) : List Nat :=
  ((s.poolUsed asid).map (fun x => x.1 + x.2)).filter (fun u => u + n ≤ s.poolUnits asid
    && (s.poolUsed asid).all (fun x => u + n ≤ x.1 || x.1 + x.2 ≤ u))

theorem poolFind_eq_min? (s : State) (asid n : Nat) : s.poolFind asid n = (s.freeRuns asid n).min? := foldl_optMin_none _

theorem mem_freeRuns {s : State} {asid n u : Nat} :
    u ∈ s.freeRuns asid n ↔ FreeRun (s.poolUsed asid) (s.poolUnits asid) n u := by
  simp only [State.freeRuns, List.mem_filter, List.mem_map, Bool.and_eq_true, decide_eq_true_eq, List.all_eq_true,
    Bool.or_eq_true]
  exact ⟨fun ⟨⟨x, hx, e⟩, hin, hap⟩ => ⟨⟨x, hx, e.symm⟩, hin, hap⟩, fun ⟨⟨x, hx, e⟩, hin, hap⟩ => ⟨⟨x, hx, e.symm⟩, hin, hap⟩⟩

theorem poolFind_eq_some {s : State} {asid n u : Nat} : s.poolFind asid n = some u
    ↔ FreeRun (s.poolUsed asid) (s.poolUnits asid) n u ∧ ∀ v, FreeRun (s.poolUsed asid) (s.poolUnits asid) n v → u ≤ v := by
  rw [poolFind_eq_min?, List.min?_eq_some_iff]
  simp only [mem_freeRuns]

theorem poolFind_isSome {s : State} {asid n : Nat} :
    (s.poolFind asid n).isSome = true ↔ ∃ u, FreeRun (s.poolUsed asid) (s.poolUnits asid) n u := by
  rw [poolFind_eq_min?, List.isSome_min?_iff]
  exact ⟨fun h => (List.exists_mem_of_ne_nil _ h).imp fun _ => mem_freeRuns.mp,
    fun ⟨_, h⟩ => List.ne_nil_of_mem (mem_freeRuns.mpr h)⟩

theorem FreeRun.shorter {used : List (Nat × Nat)} {size n m u : Nat} (h : FreeRun used size (n + m) u) : FreeRun used size n u :=
  ⟨h.starts, by have := h.inPool; omega, fun x hx => by have := h.apart x hx; omega⟩

/-- Where a run of n + m units is free and the lowest run of n is taken, a run of m is free. -/
theorem FreeRun.after_lowest {used used' : List (Nat × Nat)} {size n m u v : Nat} (h : FreeRun used size (n + m) u)
    (hv : FreeRun used size n v) (hlow : ∀ x, FreeRun used size n x → v ≤ x)
    (hused : ∀ x, x ∈ used' ↔ x ∈ used ∨ x = (v, n)) : ∃ u', FreeRun used' size m u' := by
  obtain ⟨⟨x, hx, hux⟩, hin, hap⟩ := h
  have hvu : v ≤ u := hlow u ⟨⟨x, hx, hux⟩, by omega, fun y hy => by have := hap y hy; omega⟩
  rcases Nat.eq_or_lt_of_le hvu with rfl | hlt
  · refine ⟨v + n, ⟨(v, n), (hused _).mpr (.inr rfl), rfl⟩, by omega, fun y hy => ?_⟩
    rcases (hused y).mp hy with hy | rfl
    · have := hap y hy; omega
    · exact .inr (Nat.le_refl _)
  · have hvx := hv.apart x hx
    refine ⟨u, ⟨x, (hused _).mpr (.inl hx), hux⟩, by omega, fun y hy => ?_⟩
    rcases (hused y).mp hy with hy | rfl
    · have := hap y hy; omega
    · simp only; omega

end Sys2Proof.Machine
end

section
/-! What the end of blocks and launches leaves unchanged (R20, R339, R344): the other groups, the records and the
accumulators. -/

namespace Sys2Proof.Machine

variable {s t u : State}

/-- The other groups, the records and the accumulators are the same. -/
structure SameWork (s t : State) : Prop where
  others : t.others = s.others
  records : t.records = s.records
  acc : t.acc = s.acc

theorem SameWork.refl (s : State) : SameWork s s := ⟨rfl, rfl, rfl⟩

theorem SameWork.trans (h1 : SameWork s t) (h2 : SameWork t u) : SameWork s u :=
  ⟨h2.others.trans h1.others, h2.records.trans h1.records, h2.acc.trans h1.acc⟩

theorem SameWork.foldl {α : Type} {f : State → α → State} (hf : ∀ t x, SameWork t (f t x)) (l : List α) (s : State) :
    SameWork s (l.foldl f s) :=
  List.foldlRecOn (motive := SameWork s) l f (.refl s) fun t ht x _ => ht.trans (hf t x)

theorem LogOnly.sameWork (h : LogOnly s t) : SameWork s t := by
  obtain ⟨_, _, ⟨_, _, _, _, _, _, ⟨_, _, _, _, _, _, _, _, _, rfl⟩, rfl⟩, rfl⟩ := h
  exact ⟨rfl, rfl, rfl⟩

theorem StoreOnly.sameWork (h : StoreOnly s t) : SameWork s t := (LogOnly.of_store h).sameWork

theorem imprecise_sameWork (s : State) (asid code : Nat) (detail : List W64) (addr : Nat) :
    SameWork s (s.imprecise asid code detail addr) :=
  .trans (t := s.setCtx asid (s.ctx asid).faulted) ⟨rfl, rfl, rfl⟩ (imprecise_log s asid code detail addr).sameWork

theorem wantPages_sameWork (s : State) (asid : Nat) (pages : List Nat) : SameWork s (s.wantPages asid pages) := by
  unfold State.wantPages
  split
  · exact .refl s
  · refine .trans (t := (s.openBatch asid pages none).2) ⟨rfl, rfl, rfl⟩ ?_
    show SameWork _ ((s.openBatch asid pages none).2.reportInvalid asid s.batchNext pages)
    unfold State.reportInvalid
    extract_lets inv pg
    split
    · exact .refl _
    · exact imprecise_sameWork _ _ _ _ _

theorem ctxStore_sameWork (s : State) (asid va : Nat) (bs : List Byte) : SameWork s (s.ctxStore asid va bs).2 := by
  unfold State.ctxStore
  split
  · rename_i e lvl addr _
    split
    · exact ((seenDirty_store s asid va addr e).trans
        (.of_fabric ((wcbStore_fabric _ _ _ _ _ _ _).trans (drainWcb_fabric _ _)))).sameWork
    · exact (vPoke_store _ _ _ _).sameWork
  · exact imprecise_sameWork _ _ _ _ _
  · split
    · exact .refl s
    · exact wantPages_sameWork _ _ _

theorem settleQueue_sameWork (s : State) (q : Nat) : SameWork s (s.settleQueue q) := by
  have turn : ∀ t : State, SameWork t (t.queueTurn q) := fun t => by
    unfold State.queueTurn
    extract_lets x ls next
    split
    · exact .refl t
    · exact ⟨rfl, rfl, rfl⟩
  exact ((turn _).trans (turn _)).trans (turn _)

theorem complete_sameWork (s : State) (l : Launch) : SameWork s (s.complete l) := by
  rw [show @State.complete = _ from by delta State.complete; rfl]
  split
  rename_i ok s1 e
  have h1 : SameWork s s1 := by
    split at e
    · cases e; exact .refl s
    · split at e
      · cases e; exact .refl s
      · rw [← show _ = s1 from congrArg Prod.snd e]
        exact .trans (StoreOnly.of_fabric (drainWcb_fabric _ _)).sameWork (ctxStore_sameWork _ _ _ _)
  extract_lets mine s2
  split
  · have h2 : SameWork s s2 := h1.trans (trace_log _ _ _ _ _ _ _).sameWork
    exact .trans (t := { s2 with launches := s2.launches.filter (fun x => !mine x) }) ⟨h2.others, h2.records, h2.acc⟩
      (settleQueue_sameWork _ _)
  · exact ⟨h1.others, h1.records, h1.acc⟩

theorem releaseTables_sameWork (s : State) (b : Block) : SameWork s (s.releaseTables b) :=
  .foldl (fun t x => by
    dsimp only
    split
    · exact (poke_store _ _ _).sameWork
    · exact .refl t) _ _

theorem endBlocks_sameWork (s : State) (asid launch : Nat) : SameWork s (s.endBlocks asid launch) := by
  unfold State.endBlocks
  extract_lets done s0 s1
  have h0 : SameWork s s0 := SameWork.foldl releaseTables_sameWork done s
  have h1 : SameWork s s1 := ⟨h0.others, h0.records, h0.acc⟩
  split
  · exact .refl s
  · split
    · split
      · exact h1.trans (complete_sameWork _ _)
      · exact h1
    · exact h1

theorem telemetry_store (s : State) (core asid : Nat) (pc : W32) (parks fwd busy idle : Nat) :
    StoreOnly s (s.telemetry core asid pc parks fwd busy idle) := by
  unfold State.telemetry
  extract_lets c
  split
  · exact .refl s
  · split
    · exact .refl s
    · exact vPoke_store _ _ _ _

/-- A group that leaves changes no other group and no record (R20, R344). -/
theorem leave_sameWork (s : State) (pc : W32) : SameWork s (s.leave pc) := by
  unfold State.leave
  split
  · refine .trans (.trans ?_ (telemetry_store _ _ _ _ _ _ _ _).sameWork) (endBlocks_sameWork _ _ _)
    exact ⟨rfl, rfl, rfl⟩
  · exact .refl s

/-- A group without a LIVE lane leaves its core (R20). -/
theorem leave_empty {s : State} (pc : W32) (he : s.g.empty = true) (hg : s.g.gid ≠ 0) : (s.leave pc).g = Group.off := by
  unfold State.leave
  rw [if_pos (by simp [he, hg])]
  exact Eq.trans (endBlocks_sameGroup _ _ _) (telemetry_sameGroup _ _ _ _ _ _ _ _)

end Sys2Proof.Machine
end

section
/-! Writing records (R260 to R267): what one record changes, that a list of them finds room one after another, and what the
records written are. -/

namespace Sys2Proof.Machine

variable {s t u : State}

/-- A record as it is listed: at its place, with its number, durable. -/
def Rec.placed (r : Rec) (p : RecPlace) (rid : Nat) : Rec := { r with place := p, durable := true, rid := rid }

/-- The record number a record written now takes. -/
def State.nextRid (s : State) : Nat := s.endpoint * 2 ^ 54 + s.ridNext

/-- The state after the record of a quad is written at a place and the quad has left the core. -/
def State.written (s : State) (q : Nat) (r : Rec) (p : RecPlace) : State :=
  let s1 := (s.addRec (s.atWrite q r) p).carryAsks q s.nextRid
  { s1 with g := s1.g.dropQuad q }

theorem writeRecs_cons_some {spill : Bool} {q : Nat} {r : Rec} {rs : List (Nat × Rec)} {p : RecPlace}
    (h : s.placeRec r spill = some p) : s.writeRecs spill ((q, r) :: rs) = (s.written q r p).writeRecs spill rs := by
  rw [State.writeRecs, h]; rfl

theorem writeRecs_cons_none {spill : Bool} {q : Nat} {r : Rec} {rs : List (Nat × Rec)} (h : s.placeRec r spill = none) :
    s.writeRecs spill ((q, r) :: rs) = (s, (q, r) :: rs) := by
  rw [State.writeRecs, h]

/-- Trace events of parks (kind 0) on the die of a record are off (R386). -/
def State.quietFor (s : State) (r : Rec) : Prop := (s.devRegs.get 0 (traceReg (dieOf r.core) 3)).getLsbD 0 = false

theorem trace_of_off {die core asid kind d2 d3 : Nat} (h : (s.devRegs.get 0 (traceReg die 3)).getLsbD kind = false) :
    s.trace die core asid kind d2 d3 = s := by
  unfold State.trace
  simp only [h, Bool.not_false, Bool.true_or, if_true]

/-- What writing the records `done` of quads leaves: the quads' lanes are gone from the core, and of the machine only the
records, the requests under way and what a trace event reaches have changed. -/
structure Recording (done : List (Nat × Rec)) (s t : State) : Prop where
  group : ∃ lanes, t.g = { s.g with lanes := lanes }
  lane : ∀ L, t.g.lane L = if L / 4 ∈ done.map Prod.fst then Lane.off else s.g.lane L
  others : t.others = s.others
  acc : t.acc = s.acc
  now : t.now = s.now
  ctxs : t.ctxs = s.ctxs
  blocks : t.blocks = s.blocks
  endpoint : t.endpoint = s.endpoint
  ident : t.ident = s.ident
  records : ∀ r ∈ s.records, r ∈ t.records
  quiet : (∀ x ∈ done, s.quietFor x.2) → t.mem = s.mem ∧ t.hier = s.hier ∧ t.devRegs = s.devRegs

theorem Recording.refl (s : State) : Recording [] s s where
  group := ⟨s.g.lanes, rfl⟩
  lane _ := rfl
  others := rfl
  acc := rfl
  now := rfl
  ctxs := rfl
  blocks := rfl
  endpoint := rfl
  ident := rfl
  records _ hr := hr
  quiet _ := ⟨rfl, rfl, rfl⟩

theorem Recording.trans {d1 d2 : List (Nat × Rec)} (h1 : Recording d1 s t) (h2 : Recording d2 t u) : Recording (d1 ++ d2) s u where
  group := by
    obtain ⟨l1, e1⟩ := h1.group
    obtain ⟨l2, e2⟩ := h2.group
    exact ⟨l2, by rw [e2, e1]⟩
  lane L := by
    rw [h2.lane, h1.lane, List.map_append]
    simp only [List.mem_append]
    split_ifs <;> simp_all
  others := h2.others.trans h1.others
  acc := h2.acc.trans h1.acc
  now := h2.now.trans h1.now
  ctxs := h2.ctxs.trans h1.ctxs
  blocks := h2.blocks.trans h1.blocks
  endpoint := h2.endpoint.trans h1.endpoint
  ident := h2.ident.trans h1.ident
  records r hr := h2.records r (h1.records r hr)
  quiet h := by
    obtain ⟨hm1, hh1, hd1⟩ := h1.quiet fun x hx => h x (List.mem_append_left _ hx)
    obtain ⟨hm2, hh2, hd2⟩ := h2.quiet fun x hx => by
      rw [State.quietFor, hd1]; exact h x (List.mem_append_right _ hx)
    exact ⟨hm2.trans hm1, hh2.trans hh1, hd2.trans hd1⟩

theorem mem_quadLanes {L q : Nat} : L ∈ quadLanes q ↔ L / 4 = q := by
  simp only [quadLanes, List.mem_cons, List.not_mem_nil, or_false]
  omega

theorem quadLanes_nodup (q : Nat) : (quadLanes q).Nodup := by simp [quadLanes]

theorem dropQuad_lane (g : Group) (q L : Nat) : (g.dropQuad q).lane L = if L / 4 = q then Lane.off else g.lane L := by
  unfold Group.dropQuad
  rw [mapLanes_lane _ _ _ _ (quadLanes_nodup q)]
  simp only [mem_quadLanes]

theorem LogOnly.machine (h : LogOnly s t) :
    t.now = s.now ∧ t.blocks = s.blocks ∧ t.endpoint = s.endpoint ∧ t.ident = s.ident := by
  obtain ⟨_, _, ⟨_, _, _, _, _, _, ⟨_, _, _, _, _, _, _, _, _, rfl⟩, rfl⟩, rfl⟩ := h
  exact ⟨rfl, rfl, rfl, rfl⟩

/-- A record is listed at the end. -/
def State.listed (s : State) (r : Rec) (p : RecPlace) : State :=
  { s with records := s.records ++ [r.placed p s.nextRid], ridNext := s.ridNext + 1 }

/-- Beside listing a record, its writing is a trace event. -/
theorem addRec_log (s : State) (r : Rec) (p : RecPlace) : LogOnly (s.listed r p) (s.addRec r p) :=
  trace_log _ _ _ _ _ _ _

theorem written_records (s : State) (q : Nat) (r : Rec) (p : RecPlace) :
    (s.written q r p).records = s.records ++ [(s.atWrite q r).placed p s.nextRid] :=
  (addRec_log s (s.atWrite q r) p).sameWork.records

theorem written_recording (s : State) (q : Nat) (r : Rec) (p : RecPlace) : Recording [(q, r)] s (s.written q r p) := by
  have h := addRec_log s (s.atWrite q r) p
  obtain ⟨hg, hc, -, -, -⟩ := h.keeps
  obtain ⟨hnow, hblocks, hend, hident⟩ := h.machine
  have hg' : (s.written q r p).g = s.g.dropQuad q := congrArg (Group.dropQuad · q) hg
  exact {
    group := ⟨_, hg'⟩
    lane := fun L => by rw [hg', dropQuad_lane]; simp
    others := h.sameWork.others
    acc := h.sameWork.acc
    now := hnow
    ctxs := hc
    blocks := hblocks
    endpoint := hend
    ident := hident
    records := fun x hx => by rw [written_records]; exact List.mem_append_left _ hx
    quiet := fun hq => by
      have hoff : s.quietFor r := hq (q, r) (List.mem_singleton_self _)
      have e : s.addRec (s.atWrite q r) p = s.listed (s.atWrite q r) p := trace_of_off hoff
      refine ⟨?_, ?_, ?_⟩
      · show (s.addRec (s.atWrite q r) p).mem = s.mem
        rw [e]; rfl
      · show (s.addRec (s.atWrite q r) p).hier = s.hier
        rw [e]; rfl
      · show (s.addRec (s.atWrite q r) p).devRegs = s.devRegs
        rw [e]; rfl }

/-- Where all records of a list are written, each is listed as it was when its turn came. -/
theorem writeRecs_recording {spill : Bool} {rs : List (Nat × Rec)} (h : (s.writeRecs spill rs).2 = []) :
    Recording rs s (s.writeRecs spill rs).1
      ∧ ∀ x ∈ rs, ∃ done rest v p rid, rs = done ++ x :: rest ∧ Recording done s v
          ∧ (v.atWrite x.1 x.2).placed p rid ∈ (s.writeRecs spill rs).1.records := by
  induction rs generalizing s with
  | nil => exact ⟨.refl s, fun _ hx => absurd hx List.not_mem_nil⟩
  | cons y rs ih =>
    obtain ⟨q, r⟩ := y
    cases hp : s.placeRec r spill with
    | none => rw [writeRecs_cons_none hp] at h; cases h
    | some p =>
      rw [writeRecs_cons_some hp] at h ⊢
      obtain ⟨hrec, hall⟩ := ih h
      have h1 := written_recording s q r p
      refine ⟨h1.trans hrec, fun x hx => ?_⟩
      rcases List.mem_cons.mp hx with rfl | hx
      · refine ⟨[], rs, s, p, s.nextRid, rfl, .refl s, hrec.records _ ?_⟩
        rw [written_records]
        exact List.mem_append_right _ (List.mem_singleton_self _)
      · obtain ⟨done, rest, v, p', rid, hrs, hv, hin⟩ := hall x hx
        exact ⟨(q, r) :: done, rest, v, p', rid, by rw [hrs]; rfl, h1.trans hv, hin⟩

/-! Room in the pool -/

theorem mem_poolUsed_written {asid q v : Nat} {r : Rec} (hr : r.asid = asid) (x : Nat × Nat) :
    x ∈ (s.written q r (.pool v)).poolUsed asid ↔ x ∈ s.poolUsed asid ∨ x = (v, r.units) := by
  have hb := (written_recording s q r (.pool v)).blocks
  have hplaced : ((s.atWrite q r).placed (.pool v) s.nextRid).place = .pool v := rfl
  have hasid : ((s.atWrite q r).placed (.pool v) s.nextRid).asid = asid := hr
  have hunits : ((s.atWrite q r).placed (.pool v) s.nextRid).units = r.units := rfl
  simp only [State.poolUsed, written_records, hb, List.filterMap_append, List.filterMap_cons, List.filterMap_nil, hplaced,
    hasid, hunits, if_true, List.mem_cons, List.mem_append, List.not_mem_nil, or_false]
  tauto

/-- Room for k records of n units each is room for one after another (R265). -/
theorem writeRecs_of_room {spill : Bool} {asid n : Nat} {rs : List (Nat × Rec)}
    (hrs : ∀ x ∈ rs, x.2.asid = asid ∧ x.2.units = n)
    (h : (s.poolFind asid (rs.length * n)).isSome = true) : (s.writeRecs spill rs).2 = [] := by
  induction rs generalizing s with
  | nil => rfl
  | cons y rs ih =>
    obtain ⟨q, r⟩ := y
    obtain ⟨hasid, hunits⟩ := hrs (q, r) (List.mem_cons_self ..)
    obtain ⟨u, hu⟩ := poolFind_isSome.mp h
    rw [List.length_cons, Nat.succ_mul, Nat.add_comm] at hu
    obtain ⟨v, hv⟩ := Option.isSome_iff_exists.mp (poolFind_isSome.mpr ⟨u, hu.shorter⟩)
    have hp : s.placeRec r spill = some (.pool v) := by rw [State.placeRec, hasid, hunits, hv]
    rw [writeRecs_cons_some hp]
    refine ih (fun x hx => hrs x (List.mem_cons_of_mem _ hx)) (poolFind_isSome.mpr ?_)
    obtain ⟨hfree, hlow⟩ := poolFind_eq_some.mp hv
    have hsize : (s.written q r (.pool v)).poolUnits asid = s.poolUnits asid := by
      rw [State.poolUnits, State.ctx, (written_recording s q r (.pool v)).ctxs]; rfl
    rw [hsize]
    exact hu.after_lowest hfree hlow fun x => hunits ▸ mem_poolUsed_written hasid x

end Sys2Proof.Machine
end

section
/-! The registers and lanes of a record (R17, R261, R263): what a park puts into it, and what is copied when it is written. -/

namespace Sys2Proof.Machine

variable {s t u : State}

theorem getLsbD_foldl_bits {w : Nat} (l : List Nat) (m : BitVec w) (j : Nat) :
    (l.foldl (fun m i => m ||| (1#w <<< i)) m).getLsbD j = (m.getLsbD j || (decide (j < w) && decide (j ∈ l))) := by
  induction l generalizing m with
  | nil => simp
  | cons i l ih =>
    rw [List.foldl_cons, ih]
    by_cases hw : j < w
    · have hbit : (1#w <<< i).getLsbD j = decide (j = i) := by
        rw [← BitVec.twoPow_eq, BitVec.getLsbD_twoPow]
        by_cases h : i = j
        · simp [h, hw]
        · simp [h, Ne.symm h]
      simp only [BitVec.getLsbD_or, hbit, hw, decide_true, Bool.true_and, List.mem_cons, Bool.decide_or, Bool.or_assoc]
    · simp [hw, BitVec.getLsbD_of_ge _ _ (Nat.le_of_not_lt hw)]

theorem getLsbD_maskOf {w j : Nat} (l : List Nat) (h : j < w) : (maskOf w l).getLsbD j = decide (j ∈ l) := by
  rw [maskOf, getLsbD_foldl_bits]
  simp [h]

/-- Writes at keys other than k leave the value at k. -/
theorem SMap.get_foldl_put_other {α β : Type} [DecidableEq α] (d : α) (l : List β) (key : β → Nat) (f : β → α) (m : SMap α)
    {k : Nat} (h : ∀ x ∈ l, key x ≠ k) : (l.foldl (fun m x => m.put d (key x) (f x)) m).get d k = m.get d k := by
  induction l generalizing m with
  | nil => rfl
  | cons x l ih =>
    rw [List.foldl_cons, ih _ fun y hy => h y (List.mem_cons_of_mem _ hy), SMap.get_put_other _ _ _ (h x (List.mem_cons_self ..))]

/-- The value at a key that some write names, or that is there already, where the writes at that key agree. -/
theorem SMap.get_foldl_put {α β : Type} [DecidableEq α] (d : α) (l : List β) (key : β → Nat) (f : β → α) (m : SMap α) {k : Nat} {v : α}
    (hv : ∀ x ∈ l, key x = k → f x = v) (hk : (∃ x ∈ l, key x = k) ∨ m.get d k = v) :
    (l.foldl (fun m x => m.put d (key x) (f x)) m).get d k = v := by
  induction l generalizing m with
  | nil => exact hk.resolve_left fun ⟨_, hx, _⟩ => List.not_mem_nil hx
  | cons y l ih =>
    refine ih _ (fun x hx => hv x (List.mem_cons_of_mem _ hx)) ?_
    by_cases hy : key y = k
    · right
      rw [← hy]
      exact (SMap.get_put_same _ _ _ _).trans (hv y (List.mem_cons_self ..) hy)
    · have hother := SMap.get_put_other d (f y) m hy
      rw [hother]
      refine hk.imp_left fun ⟨x, hx, e⟩ => ⟨x, (List.mem_cons.mp hx).resolve_left fun h => hy (h ▸ e), e⟩

/-- The registers of a record, as (register, position) pairs: n of each position that satisfies p. -/
def recKeys (n : Nat) (p : Nat → Bool) : List (Nat × Nat) := (List.range n).flatMap (fun m => (below 4 p).map (fun j => (m, j)))

theorem mem_recKeys {n : Nat} {p : Nat → Bool} {x : Nat × Nat} : x ∈ recKeys n p ↔ x.1 < n ∧ x.2 < 4 ∧ p x.2 = true := by
  obtain ⟨m, j⟩ := x
  simp [recKeys, mem_below]

theorem quadLanes_map_getD {α : Type} (f : Nat → α) (d : α) (q : Nat) {j : Nat} (hj : j < 4) :
    ((quadLanes q).map f).getD j d = f (4 * q + j) := by
  interval_cases j <;> rfl

/-- The part of the machine that a record's registers are copied from. -/
structure SameAddressing (asid : Nat) (s t : State) : Prop where
  mem : t.mem = s.mem
  hier : t.hier = s.hier
  ident : t.ident = s.ident
  endpoint : t.endpoint = s.endpoint
  ptRoot : (t.ctx asid).ptRoot = (s.ctx asid).ptRoot
  privBase : (t.ctx asid).privBase = (s.ctx asid).privBase
  privSize : (t.ctx asid).privSize = (s.ctx asid).privSize

theorem SameAddressing.trans {asid : Nat} (h1 : SameAddressing asid s t) (h2 : SameAddressing asid t u) : SameAddressing asid s u :=
  ⟨h2.mem.trans h1.mem, h2.hier.trans h1.hier, h2.ident.trans h1.ident, h2.endpoint.trans h1.endpoint,
    h2.ptRoot.trans h1.ptRoot, h2.privBase.trans h1.privBase, h2.privSize.trans h1.privSize⟩

theorem SameAddressing.walkFrom {asid : Nat} (h : SameAddressing asid s t) (va lvl base : Nat) :
    t.walkFrom asid va lvl base = s.walkFrom asid va lvl base := by
  have hentry : ∀ l a, t.tableEntry asid va l a = s.tableEntry asid va l a := fun l a => by
    simp only [State.tableEntry, State.ctlCount, State.stacks, State.peek, h.mem, h.hier, h.ident]
  have hbad : ∀ e l, t.pteBad e l = s.pteBad e l := fun e l => by
    unfold State.pteBad State.frameOk State.hbmFree State.hbmBytes
    rw [h.ident, h.endpoint]
  induction lvl generalizing base with
  | zero => rw [State.walkFrom, State.walkFrom]; simp only [hentry, hbad]
  | succ n ih => rw [State.walkFrom, State.walkFrom]; simp only [hentry, hbad, ih]

theorem SameAddressing.translate {asid : Nat} (h : SameAddressing asid s t) (va : Nat) : t.translate asid va = s.translate asid va := by
  simp only [State.translate, State.ctlCount, State.stacks, h.walkFrom, h.hier, h.ident, h.ptRoot]

theorem recordReg_of_lt {L n : Nat} (h : n < s.g.bound) : s.recordReg L n = (s.g.lane L).vr n := by
  simp [State.recordReg, h]

theorem SameAddressing.recordReg {L : Nat} (h : SameAddressing s.g.asid s t) (hasid : t.g.asid = s.g.asid)
    (hbound : t.g.bound = s.g.bound) (hv : (t.g.lane L).v = (s.g.lane L).v) (hslot : (t.g.lane L).inSlot = (s.g.lane L).inSlot)
    (htid : (t.g.lane L).threadId = (s.g.lane L).threadId) (n : Nat) : t.recordReg L n = s.recordReg L n := by
  simp only [State.recordReg, State.privAddr, State.cx, State.peek, Lane.vr, hasid, hbound, hv, hslot, htid, h.mem, h.privBase,
    h.privSize, h.translate]

/-- A register of a record as it is written: copied at or above B, where its position is there (R17, R263). -/
theorem atWrite_regs (s : State) (q : Nat) (r : Rec) {m j : Nat} (hj : j < 4) : (s.atWrite q r).regs.get 0 (4 * m + j)
    = if s.g.bound ≤ m ∧ m < r.nlive ∧ (r.live.getLsbD j || r.helper.getLsbD j) = true then s.recordReg (4 * q + j) m
      else r.regs.get 0 (4 * m + j) := by
  have hkeys : ∀ x : Nat × Nat, x ∈ (recKeys r.nlive (fun j => r.live.getLsbD j || r.helper.getLsbD j)).filter (fun x => s.g.bound ≤ x.1)
      ↔ x.1 < r.nlive ∧ x.2 < 4 ∧ (r.live.getLsbD x.2 || r.helper.getLsbD x.2) = true ∧ s.g.bound ≤ x.1 := fun x => by
    simp only [List.mem_filter, mem_recKeys, decide_eq_true_eq, and_assoc]
  show (((recKeys r.nlive (fun j => r.live.getLsbD j || r.helper.getLsbD j)).filter (fun x => s.g.bound ≤ x.1)).foldl
      (fun m x => m.put 0 (4 * x.1 + x.2) (s.recordReg (4 * q + x.2) x.1)) r.regs).get 0 (4 * m + j) = _
  split
  next h =>
    obtain ⟨hb, hn, hp⟩ := h
    refine SMap.get_foldl_put (0 : W32) _ (fun x : Nat × Nat => 4 * x.1 + x.2) (fun x => s.recordReg (4 * q + x.2) x.1) _
      (fun y hy e => ?_) (.inl ⟨(m, j), (hkeys _).mpr ⟨hn, hj, hp, hb⟩, rfl⟩)
    obtain ⟨-, hy4, -⟩ := (hkeys y).mp hy
    obtain ⟨rfl, rfl⟩ : y.1 = m ∧ y.2 = j := by omega
    rfl
  next h =>
    refine SMap.get_foldl_put_other (0 : W32) _ (fun x : Nat × Nat => 4 * x.1 + x.2) _ _ fun y hy e => h ?_
    obtain ⟨hyn, hy4, hyp, hyb⟩ := (hkeys y).mp hy
    obtain ⟨rfl, rfl⟩ : y.1 = m ∧ y.2 = j := by omega
    exact ⟨hyb, hyn, hyp⟩

/-! The record of a quad under a plan (R261, R262) -/

section
variable (s : State) (g : Group) (q : Nat) (p : ParkPlan) (id : W32) {j : Nat} (hj : j < 4)
include hj

theorem makeRec_live : (s.makeRec g q p id).live.getLsbD j = (g.lane (4 * q + j)).isLive := by
  show (maskOf 4 (below 4 (fun j => (g.lane (4 * q + j)).isLive))).getLsbD j = _
  rw [getLsbD_maskOf _ hj]
  simp [mem_below, hj]

theorem makeRec_of_live (hl : (g.lane (4 * q + j)).isLive = true) :
    (s.makeRec g q p id).tids.getD j 0 = (g.lane (4 * q + j)).threadId
      ∧ (p.next = none → (s.makeRec g q p id).lpcs.getD j 0 = (g.laneState (decide (3 ≤ p.kind)) (4 * q + j)).2)
      ∧ (s.makeRec g q p id).mrs.getD j 0 = (g.lane (4 * q + j)).mr
      ∧ ∀ m, m < p.nlive → (s.makeRec g q p id).regs.get 0 (4 * m + j) = (g.lane (4 * q + j)).vr m := by
  have pick {α : Type} (d : α) (f : Nat → α) : ((quadLanes q).map
      (fun L => if (g.lane L).isLive || (g.lane L).isHelper then f L else d)).getD j d = f (4 * q + j) := by
    rw [quadLanes_map_getD _ _ _ hj, hl, Bool.true_or, if_pos rfl]
  refine ⟨pick (0 : W32) (fun L => (g.lane L).threadId), fun hn => ?_, pick (0 : W32) (fun L => (g.lane L).mr), fun m hm => ?_⟩
  · obtain ⟨kind, nlive, next, wkind, wkey0, wkey1, evSerial, dv, dreg, fired, dval⟩ := p
    obtain rfl : next = none := hn
    exact (pick (0 : W32) (fun L => if (g.lane L).isLive then (g.laneState (decide (3 ≤ kind)) L).2 else _)).trans (if_pos hl)
  · have hkeys := fun x => mem_recKeys (n := p.nlive)
      (p := fun j => (g.lane (4 * q + j)).isLive || (g.lane (4 * q + j)).isHelper) (x := x)
    refine SMap.get_foldl_put (0 : W32) _ (fun x : Nat × Nat => 4 * x.1 + x.2) (fun x => (g.lane (4 * q + x.2)).vr x.1) _
      (fun y hy e => ?_) (.inl ⟨(m, j), (hkeys _).mpr ⟨hm, hj, by simp [hl]⟩, rfl⟩)
    obtain ⟨-, hy4, -⟩ := (hkeys y).mp hy
    obtain ⟨rfl, rfl⟩ : y.1 = m ∧ y.2 = j := by omega
    rfl

end

end Sys2Proof.Machine
end

section
/-! Parks (R164, R260, R266, R281): where every record finds room the group leaves its core, and its quads are records. -/

namespace Sys2Proof.Machine

variable {s t u : State}

/-- A record that may have joined a bin. -/
def Rec.binned (r : Rec) (readyAt : Option Nat) (due : Bool) : Rec := { r with readyAt := readyAt, due := due }

/-- The records of `s` stay listed in `t`, and may have joined bins; the other groups and the accumulators are the same. -/
structure Listed (s t : State) : Prop where
  others : t.others = s.others
  acc : t.acc = s.acc
  records : ∀ r ∈ s.records, ∃ readyAt due, r.binned readyAt due ∈ t.records

theorem SameWork.listed (h : SameWork s t) : Listed s t :=
  ⟨h.others, h.acc, fun r hr => ⟨r.readyAt, r.due, h.records ▸ hr⟩⟩

theorem Listed.trans (h1 : Listed s t) (h2 : Listed t u) : Listed s u where
  others := h2.others.trans h1.others
  acc := h2.acc.trans h1.acc
  records r hr := by
    obtain ⟨_, _, hr1⟩ := h1.records r hr
    obtain ⟨a, d, hr2⟩ := h2.records _ hr1
    exact ⟨a, d, hr2⟩

/-- Joining bins changes when a record became ready and whether its bin is DUE, and no more (R269). -/
theorem mem_settle {r : Rec} : r ∈ s.settle.records → ∃ x ∈ s.records, ∃ readyAt due, r = x.binned readyAt due := by
  unfold State.settle
  extract_lets recs s1
  intro h
  obtain ⟨y, hy, rfl⟩ := List.mem_map.mp h
  obtain ⟨x, hx, rfl⟩ := List.mem_map.mp hy
  refine ⟨x, hx, ?_⟩
  split <;> split <;> exact ⟨_, _, rfl⟩

theorem settle_listed (s : State) : Listed s s.settle where
  others := rfl
  acc := rfl
  records r hr := by
    have hmem : ∀ f g : Rec → Rec, (∀ x, ∃ a d, g x = x.binned a d) → (∀ x, ∃ a d, f x = x.binned a d) →
        ∃ a d, r.binned a d ∈ (s.records.map f).map g := fun f g hg hf => by
      obtain ⟨a, d, e⟩ := hf r
      obtain ⟨a', d', e'⟩ := hg (f r)
      exact ⟨a', d', List.mem_map.mpr ⟨f r, List.mem_map_of_mem hr, by rw [e', e]; rfl⟩⟩
    refine hmem _ _ (fun x => ?_) (fun x => ?_)
    · split <;> exact ⟨_, _, rfl⟩
    · split <;> exact ⟨_, _, rfl⟩

/-- The state after the records of a park are all written, before the group leaves its core. -/
def State.recorded (s : State) (rs : List (Nat × Rec)) (spill : Bool) (pc : W32) : State :=
  let t := (s.writeRecs spill rs).1
  (if 0 < rs.length then t.telemetry s.g.core s.g.asid pc rs.length 0 0 0 else t).settle

theorem telemetered_store (c : Prop) [Decidable c] (core asid : Nat) (pc : W32) (n : Nat) :
    StoreOnly s (if c then s.telemetry core asid pc n 0 0 0 else s) := by
  split
  · exact telemetry_store s core asid pc n 0 0 0
  · exact .refl s

theorem recorded_g (s : State) (rs : List (Nat × Rec)) (spill : Bool) (pc : W32) :
    (s.recorded rs spill pc).g = (s.writeRecs spill rs).1.g :=
  (telemetered_store _ _ _ _ _).group

theorem recorded_listed (s : State) (rs : List (Nat × Rec)) (spill : Bool) (pc : W32) :
    Listed (s.writeRecs spill rs).1 (s.recorded rs spill pc) :=
  (telemetered_store _ _ _ _ _).sameWork.listed.trans (settle_listed _)

/-- A group that waits for nothing any more, without the entries at which no lane is held. -/
def Group.unstalled (g : Group) : Group := { g.trimHeld with parkStall := none, stall := none }

/-- A park whose records are all written, with no older record left waiting, ends the group's stay (R260). -/
theorem park_eq_leave {rs : List (Nat × Rec)} {spill : Bool} {pc : W32} {wix : Nat} (hw : (s.writeRecs spill rs).2 = [])
    (hold : ∀ p, s.g.parkStall = some p → ∀ x ∈ p.recs, ∃ y ∈ rs, y.1 = x.1) :
    s.park rs spill pc wix
      = ((s.recorded rs spill pc).withG (s.recorded rs spill pc).g.unstalled).leave pc := by
  obtain ⟨lanes, hg⟩ := (writeRecs_recording hw).1.group
  have hwr : s.writeRecs spill rs = ((s.writeRecs spill rs).1, []) := Prod.ext rfl hw
  have hstall : (s.recorded rs spill pc).g.parkStall = s.g.parkStall := by rw [recorded_g, hg]
  have hold' : ((s.recorded rs spill pc).g.parkStall.map
      fun p => p.recs.filter (fun x => !(rs.any (fun y => y.1 == x.1)))).getD [] = [] := by
    rw [hstall]
    cases hp : s.g.parkStall with
    | none => rfl
    | some p =>
      show p.recs.filter _ = []
      simpa [List.filter_eq_nil_iff] using hold p hp
  unfold State.park
  rw [hwr]
  simp only [List.isEmpty_nil, Bool.not_true, Bool.and_false, Bool.false_eq_true, if_false, List.length_nil, Nat.sub_zero]
  rw [show (if 0 < rs.length then (s.writeRecs spill rs).1.telemetry s.g.core s.g.asid pc rs.length 0 0 0
      else (s.writeRecs spill rs).1).settle = s.recorded rs spill pc from rfl, hold']
  rfl

theorem park_of_written {rs : List (Nat × Rec)} {spill : Bool} {pc : W32} {wix : Nat} (hw : (s.writeRecs spill rs).2 = [])
    (hold : ∀ p, s.g.parkStall = some p → ∀ x ∈ p.recs, ∃ y ∈ rs, y.1 = x.1) :
    Listed (s.writeRecs spill rs).1 (s.park rs spill pc wix) ∧ (s.park rs spill pc wix).g.parkStall = none
      ∧ ((s.writeRecs spill rs).1.g.empty = true → s.g.gid ≠ 0 → (s.park rs spill pc wix).g = Group.off) := by
  obtain ⟨lanes, hg⟩ := (writeRecs_recording hw).1.group
  have hrec := recorded_listed s rs spill pc
  rw [park_eq_leave hw hold]
  have hset (t : State) (g : Group) : SameWork t (t.withG g) := ⟨rfl, rfl, rfl⟩
  refine ⟨hrec.trans ((hset _ _).trans (leave_sameWork _ pc)).listed, ?_, fun he hgid => leave_empty pc ?_ ?_⟩
  · obtain h | ⟨-, h⟩ := leave_g ((s.recorded rs spill pc).withG (s.recorded rs spill pc).g.unstalled) pc
    · rw [h]; rfl
    · rw [h]; rfl
  · show (s.recorded rs spill pc).g.empty = true
    rw [recorded_g]; exact he
  · show (s.recorded rs spill pc).g.gid ≠ 0
    rw [recorded_g, hg]; exact hgid

end Sys2Proof.Machine
end

section
/-! The park of every quad of a group (R164, R260, R281). -/

namespace Sys2Proof.Machine

variable {s t u v : State} {p : ParkPlan} {spill : Bool}

/-- The group as it stops to park: the lanes that run are inside the clause. -/
def Group.stopped (g : Group) : Group :=
  { g.mapLanes (below 32 g.runs) (fun _ x => { x with mid := true }) with run := none, keep := none, resumeWix := g.parkWix }

/-- The issuing group's context counts the park. -/
def State.counted (s : State) : State := s.setCtx s.g.asid { s.cx with parkNum := s.cx.parkNum + 1 }

/-- The state in which the records of a park of the whole group are written. -/
def State.parking (s : State) : State := s.counted.withG s.g.stopped

/-- The record of a quad in a park of the whole group. -/
def State.planRec (s : State) (p : ParkPlan) (q : Nat) : Rec := s.counted.makeRec s.g q p (w32 (s.cx.parkNum + 1))

/-- The records of a park of the whole group, by quad. -/
def State.planRecs (s : State) (p : ParkPlan) : List (Nat × Rec) := s.g.liveQuads.map (fun q => (q, s.planRec p q))

theorem parkAll_eq_park (s : State) (p : ParkPlan) (spill : Bool) :
    ∃ pc, s.parkAll p spill = s.parking.park (s.planRecs p) spill pc s.g.parkWix := ⟨_, rfl⟩

theorem stopped_lane (g : Group) (L : Nat) : ∃ mid, g.stopped.lane L = { g.lane L with mid := mid } := by
  have h : g.stopped.lane L = if L ∈ below 32 g.runs then { g.lane L with mid := true } else g.lane L :=
    mapLanes_lane g (below 32 g.runs) (fun _ x => { x with mid := true }) L (below_nodup _ _)
  rw [h]
  split <;> exact ⟨_, rfl⟩

theorem mem_planRecs {x : Nat × Rec} : x ∈ s.planRecs p ↔ x.1 ∈ s.g.liveQuads ∧ x.2 = s.planRec p x.1 := by
  simp only [State.planRecs, List.mem_map, Prod.ext_iff]
  constructor
  · rintro ⟨q, hq, rfl, hr⟩; exact ⟨hq, hr.symm⟩
  · rintro ⟨hq, hr⟩; exact ⟨x.1, hq, rfl, hr.symm⟩

theorem planRecs_quads (s : State) (p : ParkPlan) : (s.planRecs p).map Prod.fst = s.g.liveQuads := by
  simp [State.planRecs, Function.comp_def]

theorem mem_liveQuads {g : Group} {q : Nat} : q ∈ g.liveQuads ↔ q < 8 ∧ g.quadLive q ≠ [] := by
  simp [Group.liveQuads, mem_below]

theorem planRecs_written (h : s.ParkRoom p.nlive) : (s.parking.writeRecs spill (s.planRecs p)).2 = [] := by
  refine writeRecs_of_room (asid := s.g.asid) (n := recUnits p.nlive) (fun x hx => ?_) ?_
  · rw [(mem_planRecs.mp hx).2]; exact ⟨rfl, rfl⟩
  · have hsize : s.parking.poolUnits s.g.asid = s.poolUnits s.g.asid := by
      show (s.counted.ctx s.g.asid).poolSize / 256 = _
      rw [State.counted, State.ctx_setCtx_same]; rfl
    rw [poolFind_isSome, hsize, ← List.length_map (f := Prod.fst), planRecs_quads]
    exact poolFind_isSome.mp h

theorem parking_addressing (s : State) : SameAddressing s.g.asid s s.parking := by
  have hc : s.parking.ctx s.g.asid = { s.cx with parkNum := s.cx.parkNum + 1 } := State.ctx_setCtx_same s _ _
  exact ⟨rfl, rfl, rfl, rfl, by rw [hc]; rfl, by rw [hc]; rfl, by rw [hc]; rfl⟩

/-- Where the trace of parks is off, a quad whose turn has not come finds its registers as they were. -/
theorem recordReg_parking {done : List (Nat × Rec)} {L : Nat} (h : Recording done s.parking v)
    (hcore : ∀ x ∈ done, x.2.core = s.g.core) (hoff : (s.devRegs.get 0 (traceReg (dieOf s.g.core) 3)).getLsbD 0 = false)
    (hL : L / 4 ∉ done.map Prod.fst) (n : Nat) : v.recordReg L n = s.recordReg L n := by
  obtain ⟨hmem, hhier, -⟩ := h.quiet fun x hx => by rw [State.quietFor, hcore x hx]; exact hoff
  have hctx (a : Nat) : v.ctx a = s.parking.ctx a := by rw [State.ctx, h.ctxs]; rfl
  obtain ⟨lanes, hg⟩ := h.group
  obtain ⟨mid, hmid⟩ := stopped_lane s.g L
  have hlane : v.g.lane L = { s.g.lane L with mid := mid } := by rw [h.lane, if_neg hL]; exact hmid
  have haddr : SameAddressing s.g.asid s v := (parking_addressing s).trans
    ⟨hmem, hhier, h.ident, h.endpoint, by rw [hctx], by rw [hctx], by rw [hctx]⟩
  exact haddr.recordReg (by rw [hg]; rfl) (by rw [hg]; rfl) (by rw [hlane]) (by rw [hlane]) (by rw [hlane]) n

/-- Once the records are written no lane of the group is LIVE. -/
theorem planRecs_empty (h : Recording (s.planRecs p) s.parking v) : v.g.empty = true := by
  simp only [Group.empty, Group.live, List.isEmpty_iff, List.eq_nil_iff_forall_not_mem, mem_below, not_and, Bool.not_eq_true]
  intro L hL
  rw [h.lane, planRecs_quads]
  split
  next => rfl
  next hq =>
    obtain ⟨mid, hmid⟩ := stopped_lane s.g L
    have hlane : s.parking.g.lane L = { s.g.lane L with mid := mid } := hmid
    rw [hlane]
    by_contra hlive
    refine hq (mem_liveQuads.mpr ⟨by omega, List.ne_nil_of_mem (a := L) (List.mem_filter.mpr ⟨mem_quadLanes_self L, ?_⟩)⟩)
    simpa [Lane.isLive] using hlive

theorem planRec_live {q j : Nat} (hj : j < 4) : (s.planRec p q).live.getLsbD j = (s.g.lane (4 * q + j)).isLive :=
  makeRec_live s.counted s.g q p (w32 (s.cx.parkNum + 1)) hj

/-- What a record of the park holds of its quad, once it is written. -/
theorem atWrite_planRec {q j m : Nat} (hj : j < 4) (hl : (s.g.lane (4 * q + j)).isLive = true) (hm : m < p.nlive)
    (hbound : v.g.bound = s.g.bound) (hreg : m < s.g.bound ∨ v.recordReg (4 * q + j) m = s.recordReg (4 * q + j) m) :
    (v.atWrite q (s.planRec p q)).regs.get 0 (4 * m + j) = s.recordReg (4 * q + j) m := by
  obtain ⟨-, -, -, hregs⟩ := makeRec_of_live s.counted s.g q p (w32 (s.cx.parkNum + 1)) hj hl
  have hlive : ((s.planRec p q).live.getLsbD j || (s.planRec p q).helper.getLsbD j) = true := by
    rw [show (s.planRec p q).live.getLsbD j = true from (planRec_live hj).trans hl, Bool.true_or]
  rw [atWrite_regs _ _ _ hj, hbound]
  by_cases hb : m < s.g.bound
  · rw [if_neg (by omega), recordReg_of_lt hb]
    exact hregs m hm
  · rw [if_pos ⟨by omega, hm, hlive⟩]
    exact hreg.resolve_left hb

/-- A park of the whole group under a plan without a resume point of its own, where the pool has room. -/
theorem parkAll_parks (hnext : p.next = none) (hgid : s.g.gid ≠ 0) (hroom : s.ParkRoom p.nlive)
    (hown : ∀ w, s.g.parkStall = some w → ∀ x ∈ w.recs, x.1 ∈ s.g.liveQuads) :
    Parks False s s (s.parkAll p spill) p.nlive (fun L => (s.g.laneState (decide (3 ≤ p.kind)) L).2) (fun r => r.kind = p.kind) := by
  obtain ⟨pc, hpark⟩ := parkAll_eq_park s p spill
  have hw := planRecs_written (spill := spill) hroom
  obtain ⟨hrec, hall⟩ := writeRecs_recording hw
  obtain ⟨hlisted, -, hoff⟩ := park_of_written (pc := pc) (wix := s.g.parkWix) hw fun w hw x hx =>
    ⟨(x.1, s.planRec p x.1), mem_planRecs.mpr ⟨hown w hw x hx, rfl⟩, rfl⟩
  rw [hpark]
  have hothers : (s.parking.park (s.planRecs p) spill pc s.g.parkWix).others = s.others := hlisted.others.trans hrec.others
  refine ⟨hoff (planRecs_empty hrec) hgid, fun _ => hothers, hlisted.acc.trans hrec.acc, by rw [hothers], fun q hq hql => ?_⟩
  have hmem : (q, s.planRec p q) ∈ s.planRecs p := mem_planRecs.mpr ⟨mem_liveQuads.mpr ⟨hq, hql⟩, rfl⟩
  obtain ⟨done, rest, v, pl, rid, hsplit, hv, hin⟩ := hall _ hmem
  obtain ⟨a, d, hr⟩ := hlisted.records _ hin
  obtain ⟨lanes, hg⟩ := hv.group
  refine ⟨_, hr, rfl, rfl, rfl, rfl, rfl, hv.now, fun j hj => ⟨planRec_live (s := s) (p := p) hj, fun hl => ?_⟩⟩
  obtain ⟨htid, hlpc, hmr, -⟩ := makeRec_of_live s.counted s.g q p (w32 (s.cx.parkNum + 1)) hj hl
  refine ⟨htid, hlpc hnext, hmr, fun m hm hreg => atWrite_planRec hj hl hm (by rw [hg]; rfl) (hreg.imp_right fun hquiet => ?_)⟩
  have hnodup : (done.map Prod.fst ++ q :: rest.map Prod.fst).Nodup := by
    rw [show done.map Prod.fst ++ q :: rest.map Prod.fst = s.g.liveQuads by rw [← planRecs_quads s p, hsplit, List.map_append]; rfl]
    exact below_nodup _ _
  refine recordReg_parking hv (fun x hx => ?_) hquiet ?_ m
  · rw [(mem_planRecs.mp (hsplit ▸ List.mem_append_left _ hx)).2]; rfl
  · rw [show (4 * q + j) / 4 = q by omega]
    exact fun hq => List.disjoint_of_nodup_append hnodup hq (List.mem_cons_self ..)

end Sys2Proof.Machine
end

section
/-! Implicit parks, full spills and the records that wait for room (R164, R266, R267, R281). -/

namespace Sys2Proof.Machine

variable {s t u : State}

/-- Outside a handler a lane that parks without a yield resumes where it is (R262). -/
theorem laneState_pc {g : Group} (h : g.trap = none) (L : Nat) : (g.laneState false L).2 = (g.lane L).pc := by
  unfold Group.laneState
  rw [h]
  simp only [Bool.false_eq_true, if_false]
  cases (g.lane L).hold with
  | none => exact (apply_ite Prod.snd _ _ _).trans (ite_self _)
  | meeting => rfl
  | segEnd => rfl

theorem trap_of_parkDue (h : s.parkDue = true) : s.g.trap = none := by
  unfold State.parkDue at h
  split at h
  · simp only [Bool.and_eq_true, Option.isNone_iff_eq_none] at h
    exact h.1.1.1.2
  · exact absurd h Bool.false_ne_true

/-- IMPLICIT_PARK, as O47 states it. -/
theorem implicitPark_parks (hdue : s.parkDue = true) (hgid : s.g.gid ≠ 0) (hstall : s.g.parkStall = none) (hroom : s.ParkRoom 256) :
    Completes .implicitPark s (fun t => Parks False s s t 256 (fun L => (s.g.lane L).pc) (fun r => r.kind = 1)) := by
  have hexec : exec .implicitPark s = .next (if s.parkDue then s.parkAll (ParkPlan.now 1 256 none) false else s) := rfl
  refine ⟨_, hexec, ?_⟩
  rw [if_pos hdue, ← funext (laneState_pc (trap_of_parkDue hdue))]
  exact parkAll_parks (p := ParkPlan.now 1 256 none) rfl hgid hroom fun w hw => by rw [hstall] at hw; cases hw

/-- FULL_SPILL, as O47 states it. -/
theorem fullSpill_parks (hgid : s.g.gid ≠ 0) (hdue : s.spillDue = true) (hroom : s.ParkRoom 256)
    (hown : ∀ p, s.g.parkStall = some p → ∀ x ∈ p.recs, x.1 < 8 ∧ s.g.quadLive x.1 ≠ []) :
    Completes .fullSpill s (fun t => Parks False s s t 256 (fun L => (s.g.laneState true L).2) (fun r => r.kind = 4)) := by
  have hexec : exec .fullSpill s = .next (if s.g.gid != 0 && s.spillDue then s.spill else s) := rfl
  refine ⟨_, hexec, ?_⟩
  rw [if_pos (by simp [hgid, hdue])]
  exact parkAll_parks (p := ParkPlan.now 4 256 none) rfl hgid hroom fun w hw x hx => mem_liveQuads.mpr (hown w hw x hx)

/-- PARKING_STALL_RETRY where every record finds room, as O47 states it. -/
theorem parkingStallRetry_writes {p : ParkStall} (hp : s.g.parkStall = some p)
    (hw : (s.writeRecs (p.recs.any (fun x => x.2.kind == 4)) p.recs).2 = []) :
    Completes .parkingStallRetry s (fun t => t.g.parkStall = none
      ∧ ∀ x ∈ p.recs, ∃ r ∈ t.records, r.durable = true ∧ r.kind = x.2.kind ∧ r.tids = x.2.tids ∧ r.tstamp = s.now
          ∧ ∀ m j, m < s.g.bound → j < 4 → r.regs.get 0 (4 * m + j) = x.2.regs.get 0 (4 * m + j)) := by
  have hexec : exec .parkingStallRetry s = .next (match s.g.parkStall with
    | none => s
    | some p => s.park p.recs (p.recs.any (fun x => x.2.kind == 4)) p.pc p.wix) := rfl
  rw [hp] at hexec
  obtain ⟨-, hall⟩ := writeRecs_recording hw
  obtain ⟨hlisted, hnone, -⟩ := park_of_written (pc := p.pc) (wix := p.wix) hw fun w hw x hx => by
    rw [hp, Option.some.injEq] at hw
    exact ⟨x, hw ▸ hx, rfl⟩
  refine ⟨_, hexec, hnone, fun x hx => ?_⟩
  obtain ⟨done, rest, v, pl, rid, -, hv, hin⟩ := hall x hx
  obtain ⟨a, d, hr⟩ := hlisted.records _ hin
  obtain ⟨lanes, hg⟩ := hv.group
  refine ⟨_, hr, rfl, rfl, rfl, hv.now, fun m j hm hj => (atWrite_regs v x.1 x.2 hj).trans (if_neg ?_)⟩
  rw [hg]
  exact fun h => absurd h.1 (Nat.not_le_of_lt hm)

/-! The trap of a pool that stays full -/

/-- A trap enters the user-level handler (R374). -/
theorem enterHandler_entered (s : State) (x : Trap) (pc : W32) (wix : Nat) : HandlerEntered s (s.enterHandler x pc wix) x pc wix := by
  refine ⟨rfl, rfl, fun L => ?_, rfl, rfl, rfl, rfl, rfl, rfl, rfl, fun _ => rfl⟩
  have h := mapLanes_lane s.g (below 32 (s.g.handlerLane x.cause pc)) (fun _ x =>
    { x with saved := some { pc := x.pc, mr := x.mr, hold := x.hold }, pc := s.cx.trapPc, mr := noMeeting, hold := .none
             mid := false }) L (below_nodup _ _)
  simp only [mem_below] at h
  exact h

/-- What follows in the logs leaves the handler entered. -/
theorem HandlerEntered.logged {x : Trap} {pc : W32} {wix : Nat} (he : HandlerEntered s t x pc wix) (h : LogOnly t u)
    (hquiet : (s.devRegs.get 0 (traceReg (dieOf s.g.core) 3)).getLsbD 5 = false → u.mem = t.mem) : HandlerEntered s u x pc wix := by
  obtain ⟨htrap, hrun, hlane, hw, hk, hhandles, hpend, hothers, hacc, hctxs, hmem⟩ := he
  obtain ⟨hg, hc, -, -, -⟩ := h.keeps
  obtain ⟨ho, -, ha⟩ := h.sameWork
  refine ⟨?_, ?_, fun L => ?_, ?_, ?_, ?_, ?_, ho.trans hothers, ha.trans hacc, hc.trans hctxs,
    fun hq => (hquiet hq).trans (hmem hq)⟩ <;> rw [hg]
  · exact htrap
  · exact hrun
  · exact hlane L
  · exact hw
  · exact hk
  · exact hhandles
  · exact hpend

/-- A trap that does not go to the supervisor (R371, R374). -/
theorem takeTrapAt_entered {x : Trap} (pc : W32) (wix : Nat) (h : s.toSupervisor x.cause = false) :
    HandlerEntered s (s.takeTrapAt x pc wix) x pc wix := by
  have htake : s.takeTrapAt x pc wix
      = (s.enterHandler x pc wix).trace (dieOf s.g.core) s.g.core s.g.asid 5 s.cx.fqSeq x.cause := by
    unfold State.takeTrapAt
    rw [h]
    rfl
  rw [htake]
  exact (enterHandler_entered s x pc wix).logged (trace_log _ _ _ _ _ _ _) fun hq =>
    congrArg State.mem (trace_of_off hq)

/-- RECORD_POOL_EXHAUSTED, as O47 states it. -/
theorem recordPoolExhausted_traps {p : ParkStall} (hp : s.g.parkStall = some p)
    (hkind : p.recs.any (fun x => x.2.kind == 4) = false) (hdue : p.since + s.cx.poolTmo ≤ s.now)
    (hsup : s.toSupervisor 0x2A = false) : Completes .recordPoolExhausted s (fun t =>
      HandlerEntered s t { cause := 0x2A, detail := 0, lane := none } p.pc p.wix) := by
  have hexec : exec .recordPoolExhausted s = .next (match s.g.parkStall with
    | none => s
    | some p =>
      if p.recs.any (fun x => x.2.kind == 4) || decide (s.now < p.since + s.cx.poolTmo) then s
      else s.takeTrapAt { cause := 0x2A, detail := 0, lane := none } p.pc p.wix) := rfl
  rw [hp] at hexec
  dsimp only at hexec
  rw [hkind, Bool.false_or, if_neg (by simpa using hdue)] at hexec
  exact ⟨_, hexec, takeTrapAt_entered _ _ hsup⟩

end Sys2Proof.Machine
end

section
/-! Yield requests and timers (R264, R277). -/

namespace Sys2Proof.Machine

variable {s t u : State}

/-- A group asked to yield has the request, or it has reached the group. -/
theorem askYield_asked (g : Group) (now : Nat) : (g.askYield now).yieldReq = true ∨ (g.askYield now).yieldAt ≠ none := by
  unfold Group.askYield
  split
  next h =>
    split
    · exact .inr (Option.some_ne_none _)
    · exact .inr (Option.isSome_iff_ne_none.mp h)
  next =>
    split
    · split
      · exact .inl rfl
      · exact .inr (Option.some_ne_none _)
    · exact .inl rfl

/-- A request to yield changes the group's request, its limit and what a parking-stalled group is to answer. -/
theorem askYield_fields (g : Group) (now : Nat) :
    ∃ req lim park, g.askYield now = { g with yieldReq := req, yieldAt := lim, parkStall := park } := by
  unfold Group.askYield
  split
  · split
    · exact ⟨_, _, _, rfl⟩
    · exact ⟨_, _, _, rfl⟩
  · split
    · split
      · exact ⟨_, _, _, rfl⟩
      · exact ⟨_, _, _, rfl⟩
    · exact ⟨_, _, _, rfl⟩

theorem askYield_kept (g : Group) (now : Nat) : (g.askYield now).lanes = g.lanes ∧ (g.askYield now).w = g.w := by
  obtain ⟨_, _, _, h⟩ := askYield_fields g now
  rw [h]
  exact ⟨rfl, rfl⟩

/-- What a yield request leaves of a group: one that it names is asked. -/
def Group.requested (now asid : Nat) (gid : Option Nat) (g : Group) : Group :=
  if g.gid ≠ 0 ∧ g.asid = asid ∧ (gid.all (· == g.gid)) then g.askYield now else g

theorem requested_kept (now asid : Nat) (gid : Option Nat) (g : Group) :
    (g.requested now asid gid).lanes = g.lanes ∧ (g.requested now asid gid).w = g.w := by
  unfold Group.requested
  split
  · exact askYield_kept g now
  · exact ⟨rfl, rfl⟩

theorem requested_asked {now asid : Nat} {gid : Option Nat} {g : Group} (h0 : (g.requested now asid gid).gid ≠ 0)
    (ha : (g.requested now asid gid).asid = asid) (hg : gid = none ∨ gid = some (g.requested now asid gid).gid) :
    (g.requested now asid gid).yieldReq = true ∨ (g.requested now asid gid).yieldAt ≠ none := by
  by_cases h : g.gid ≠ 0 ∧ g.asid = asid ∧ (gid.all (· == g.gid)) = true
  · rw [Group.requested, if_pos h]
    exact askYield_asked g now
  · have hsame : g.requested now asid gid = g := if_neg h
    rw [hsame] at h0 ha hg
    refine absurd ⟨h0, ha, ?_⟩ h
    rcases hg with rfl | rfl <;> simp

/-- YIELD_REQUEST, as O47 states it. -/
theorem yieldRequest_asks (s : State) (asid : Nat) (gid : Option Nat) : Completes (.yieldRequest asid gid) s (fun t =>
    t.mem = s.mem ∧ t.g.lanes = s.g.lanes ∧ t.g.w = s.g.w ∧ t.others.length = s.others.length
      ∧ ∀ g ∈ t.groups, g.gid ≠ 0 → g.asid = asid → (gid = none ∨ gid = some g.gid) → g.yieldReq = true ∨ g.yieldAt ≠ none) := by
  have hexec : exec (.yieldRequest asid gid) s = .next (s.mapGroups (Group.requested s.now asid gid)) := rfl
  obtain ⟨hlanes, hw⟩ := requested_kept s.now asid gid s.g
  refine ⟨_, hexec, rfl, hlanes, hw, List.length_map .., fun g hg h0 ha hgid => ?_⟩
  have hmap : g ∈ s.groups.map (Group.requested s.now asid gid) := hg
  obtain ⟨x, -, rfl⟩ := List.mem_map.mp hmap
  exact requested_asked h0 ha hgid

/-- Records that another device has accepted are told there; the group, the records here and memory stay. -/
theorem tell_kept (s : State) (p : Rec → Bool) (val : W32) :
    (s.tell p val).g = s.g ∧ (s.tell p val).mem = s.mem ∧ (s.tell p val).records = s.records :=
  List.foldlRecOn (motive := fun t : State => t.g = s.g ∧ t.mem = s.mem ∧ t.records = s.records) _ _ ⟨rfl, rfl, rfl⟩
    fun _ ht _ _ => ht

/-- A record whose event has come is fired. -/
def Rec.woken (p : Rec → Bool) (val : W32) (r : Rec) : Rec := if !r.fired && p r then { r with fired := true, dval := val } else r

/-- Of the records that waking an event leaves, each is a woken one that may have joined a bin. -/
theorem mem_wake {p : Rec → Bool} {val : W32} {r : Rec} (h : r ∈ (s.wake p val).records) :
    ∃ x ∈ s.records, ∃ readyAt due, r = (x.woken p val).binned readyAt due := by
  obtain ⟨y, hy, a, d, rfl⟩ := mem_settle h
  rw [(tell_kept _ _ _).2.2] at hy
  obtain ⟨x, hx, rfl⟩ := List.mem_map.mp (show y ∈ s.records.map (Rec.woken p val) from hy)
  exact ⟨x, hx, a, d, rfl⟩

theorem wake_length (s : State) (p : Rec → Bool) (val : W32) : (s.wake p val).records.length = s.records.length := by
  have hsettle (t : State) : t.settle.records.length = t.records.length := (List.length_map ..).trans (List.length_map ..)
  rw [State.wake, hsettle, (tell_kept _ _ _).2.2]
  exact List.length_map ..

theorem wake_mem (s : State) (p : Rec → Bool) (val : W32) : (s.wake p val).mem = s.mem := (tell_kept _ _ _).2.1

theorem wake_lanes (s : State) (p : Rec → Bool) (val : W32) : (s.wake p val).g.lanes = s.g.lanes := by
  rw [show (s.wake p val).g = (s.mapRecs (Rec.woken p val)).g from (tell_kept _ _ _).1]
  show (match s.g.parkStall with
    | some p => _
    | none => s.g : Group).lanes = _
  cases s.g.parkStall <;> rfl

/-- TIMER_WAKE, as O47 states it. -/
theorem timerWake_fires (s : State) : Completes .timerWake s (fun t => t.records.length = s.records.length ∧ t.mem = s.mem
    ∧ t.g.lanes = s.g.lanes ∧ ∀ r ∈ t.records, r.wkind = 6 → r.wkey0.toNat ≤ s.now → r.fired = true) := by
  have hexec : exec .timerWake s = .next (s.wake (fun r => r.wkind == 6 && decide (r.wkey0.toNat ≤ s.now)) 0) := rfl
  refine ⟨_, hexec, wake_length _ _ _, wake_mem _ _ _, wake_lanes _ _ _, fun r hr hkind htime => ?_⟩
  obtain ⟨x, -, a, d, rfl⟩ := mem_wake hr
  show (x.woken _ _).fired = true
  by_cases hx : (!x.fired && (x.wkind == 6 && decide (x.wkey0.toNat ≤ s.now))) = true
  · rw [Rec.woken, if_pos hx]
  · have hsame : x.woken (fun r => r.wkind == 6 && decide (r.wkey0.toNat ≤ s.now)) 0 = x := if_neg hx
    rw [hsame] at hkind htime ⊢
    simpa [show x.wkind = 6 from hkind, show x.wkey0.toNat ≤ s.now from htime] using hx

end Sys2Proof.Machine
end

section
/-! The start of a clause (R40 to R42, R129): the lowest PC, the fetch, and the run it leaves. -/

namespace Sys2Proof.Machine

variable {s t u : State} {pc : W32}

/-- The lower of a PC and the PC of a lane. -/
def Group.lower (g : Group) (m : W32) (L : Nat) : W32 := if (g.lane L).pc.toNat < m.toNat then (g.lane L).pc else m

theorem lower_eq (g : Group) (m : W32) (L : Nat) : g.lower m L = m ∨ g.lower m L = (g.lane L).pc := by
  unfold Group.lower
  split
  · exact .inr rfl
  · exact .inl rfl

theorem lower_le (g : Group) (m : W32) (L : Nat) :
    (g.lower m L).toNat ≤ m.toNat ∧ (g.lower m L).toNat ≤ (g.lane L).pc.toNat := by
  unfold Group.lower
  split <;> omega

theorem foldl_lower (g : Group) (ls : List Nat) (m : W32) :
    (ls.foldl g.lower m = m ∨ ∃ L ∈ ls, (g.lane L).pc = ls.foldl g.lower m)
      ∧ (ls.foldl g.lower m).toNat ≤ m.toNat ∧ ∀ L ∈ ls, (ls.foldl g.lower m).toNat ≤ (g.lane L).pc.toNat := by
  induction ls generalizing m with
  | nil => exact ⟨.inl rfl, Nat.le_refl _, fun _ h => absurd h List.not_mem_nil⟩
  | cons M ls ih =>
    obtain ⟨hin, hle, hall⟩ := ih (g.lower m M)
    obtain ⟨hm, hpc⟩ := lower_le g m M
    rw [List.foldl_cons]
    refine ⟨?_, hle.trans hm, fun L hL => ?_⟩
    · rcases hin with h | ⟨L, hL, h⟩
      · exact (lower_eq g m M).imp h.trans fun h' => ⟨M, List.mem_cons_self .., (h.trans h').symm⟩
      · exact .inr ⟨L, List.mem_cons_of_mem _ hL, h⟩
    · rcases List.mem_cons.mp hL with rfl | hL
      · exact hle.trans hpc
      · exact hall L hL

/-- The lowest PC of some lanes is the PC of one of them. -/
theorem minPc_attained (g : Group) {ls : List Nat} (h : ls ≠ []) : ∃ L ∈ ls, (g.lane L).pc = g.minPc ls := by
  have hmin : g.minPc ls = ls.foldl g.lower noMeeting := rfl
  obtain ⟨hin, -, hall⟩ := foldl_lower g ls noMeeting
  rcases hin with htop | hin
  · obtain ⟨L, hL⟩ := List.exists_mem_of_ne_nil ls h
    have hle := hall L hL
    have hmax : noMeeting.toNat = 2 ^ 32 - 1 := rfl
    rw [htop, hmax] at hle
    exact ⟨L, hL, by rw [hmin, htop]; exact BitVec.eq_of_toNat_eq (by rw [hmax]; omega)⟩
  · exact hin

theorem codeKeep_sameGroup (s : State) (p : Piece) : SameGroup s (s.codeKeep p) := by
  unfold State.codeKeep
  split
  · exact .refl s
  · rfl

theorem seenPiece_sameGroup (s : State) (asid : Nat) (p : Piece) : SameGroup s (s.seenPiece asid p) := by
  obtain ⟨m, h, hs⟩ := seenPiece_eq s asid p
  rw [hs]; rfl

/-- A fetch that reads its bytes leaves the group as it is. -/
theorem codeRead_sameGroup {wix off n x : Nat} (h : s.codeRead pc wix off n = .ok (t, x)) : SameGroup s t := by
  unfold State.codeRead at h
  split at h
  · cases h
  · split at h
    · cases h
    · split at h
      · cases h
      · cases h
      · cases h
        exact (SameGroup.foldl (fun t p => seenPiece_sameGroup t _ p) _ s).trans (.foldl codeKeep_sameGroup _ _)

/-- No check of R41 fails: the clause has an instruction word. -/
theorem headerWords_pos {h : Nat} {opcs : List Nat} (hc : clauseCheck h opcs = none) : 0 < headerWords h := by
  unfold clauseCheck at hc
  extract_lets last at hc
  unfold headerWords
  split_ifs at hc
  omega

/-- The doublewords that follow a clause header, as a number holds them. -/
def clauseWords (h x : Nat) : List W64 := (List.range (headerCount h)).map (fun i => w64 (x / 2 ^ (64 * i) % 2 ^ 64))

theorem clauseWords_eq (h x : Nat) : clauseWords h x = (List.range (headerCount h)).map (fun i => w64 (bitsOf x (64 * i) 64)) :=
  List.map_congr_left fun i _ => by rw [bitsOf, Nat.shiftRight_eq_div_pow]

/-- The run of a clause from its first word, as its header and words give it. -/
def clauseRun (pc : W32) (h x : Nat) (ls : List Nat) : Run :=
  { pc := pc, wix := 0, words := (clauseWords h x).take (headerWords h), lits := (clauseWords h x).drop (headerWords h)
    next := pc + BitVec.ofNat 32 (8 * (headerCount h + 1)), mask := maskOf 32 ls }

/-- Lanes of a group start a run. -/
def Group.starts (g : Group) (ls : List Nat) (r : Run) (now : Nat) : Group :=
  { g.mapLanes ls (fun _ y => { y with mid := false, hold := .none }) with
    run := some r, keep := none, stall := none, resumeWix := 0, lastClauseStart := now }

/-- The state in which lanes of the issuing group start a run; the answers to its remote fetches are used up. -/
def State.starts (s : State) (ls : List Nat) (r : Run) : State :=
  { s with remotes := s.remotes.filter (fun y => y.gid != s.g.gid || y.req.op != .read), g := s.g.starts ls r s.now }

theorem starts_vr (g : Group) {ls : List Nat} (hd : ls.Nodup) (r : Run) (now L n : Nat) :
    ((g.starts ls r now).lane L).vr n = (g.lane L).vr n := by
  have h : (g.starts ls r now).lane L = if L ∈ ls then { g.lane L with mid := false, hold := .none } else g.lane L :=
    mapLanes_lane g ls (fun _ y => { y with mid := false, hold := .none }) L hd
  rw [h]
  split <;> rfl

theorem clauseRun_has_word {h : Nat} (x : Nat) {opcs : List Nat} (hc : clauseCheck h opcs = none) :
    0 < ((clauseWords h x).take (headerWords h)).length := by
  have hpos := headerWords_pos hc
  have hcount : headerWords h ≤ headerCount h := Nat.sub_le _ _
  rw [List.length_take, clauseWords, List.length_map, List.length_range]
  omega

/-- Lanes that start a clause without a meeting hold run it from its first word (R41 to R43). -/
theorem enterClause_eq_starts {ls : List Nat} {h x : Nat} (hne : ls ≠ []) (h1 : s.codeRead pc 0 0 8 = .ok (t, h))
    (h2 : t.codeRead pc 0 8 (8 * headerCount h) = .ok (u, x))
    (hc : clauseCheck h (((clauseWords h x).take (headerWords h)).map opcOf) = none) (hmeet : headerMeet h = false) :
    s.enterClause ls pc (some 0) true = u.starts ls (clauseRun pc h x ls) := by
  unfold State.enterClause
  simp only [Option.getD_some, h1, h2, ← clauseWords_eq, hc, hmeet, Bool.and_false, Bool.false_and, Bool.false_eq_true, if_false,
    Bool.not_false, List.filter_true, List.isEmpty_iff, hne, clauseRun_has_word x hc, if_true]
  rfl

theorem releaseMeetings_of_none {g : Group} (h : ∀ L ∈ g.live, (g.lane L).hold ≠ .meeting) : g.releaseMeetings = g := by
  have hnil : g.live.filter (fun L => decide ((g.lane L).hold = .meeting)
      && g.live.all (fun M => (g.lane M).mr != (g.lane L).mr || decide ((g.lane M).hold = .meeting))) = [] := by
    rw [List.filter_eq_nil_iff]
    intro L hL
    simp [h L hL]
  unfold Group.releaseMeetings
  extract_lets due
  rw [hnil]
  rfl

theorem issuers_of_no_trap {g : Group} (h : g.trap = none) : g.issuers = g.live := by
  unfold Group.issuers
  simp [h]

theorem unheld_of_none_held {g : Group} (htrap : g.trap = none) (h : ∀ L ∈ g.live, (g.lane L).hold = .none) : g.unheld = g.live := by
  unfold Group.unheld
  rw [issuers_of_no_trap htrap, List.filter_eq_self]
  simpa using h

theorem undecided_of_none_held {g : Group} {parkY : W32 → Bool} (htrap : g.trap = none)
    (h : ∀ L ∈ g.live, (g.lane L).hold = .none) : g.undecided parkY = [] := by
  unfold Group.undecided
  rw [issuers_of_no_trap htrap, List.filter_eq_nil_iff]
  intro L hL
  simp [h L hL]

/-- A boundary at which no lane is held or inside a clause, and no yield is asked, starts the clause at the lowest PC. -/
theorem boundary_enters (hslot : s.g.slotDue = []) (hlive : s.g.live ≠ []) (htrap : s.g.trap = none) (hreq : s.g.yieldReq = false)
    (hat : s.g.yieldAt = none) (hfree : ∀ L ∈ s.g.live, (s.g.lane L).hold = .none ∧ (s.g.lane L).mid = false) :
    s.boundary = s.enterClause (s.g.live.filter (fun L => (s.g.lane L).pc == s.g.minPc s.g.live)) (s.g.minPc s.g.live)
      (some 0) true := by
  have hnone : ∀ L ∈ s.g.live, (s.g.lane L).hold = .none := fun L hL => (hfree L hL).1
  have hmeet : s.g.releaseMeetings = s.g := releaseMeetings_of_none fun L hL => by rw [hnone L hL]; decide
  have hunheld := unheld_of_none_held htrap hnone
  have hmids : s.g.live.filter (fun L => (s.g.lane L).mid) = [] := by
    rw [List.filter_eq_nil_iff]
    intro L hL
    simp [(hfree L hL).2]
  have hempty : s.g.live.isEmpty = false := by simpa using hlive
  have hof : s.boundaryOf = s.chooseClause := by
    unfold State.boundaryOf
    simp only [hmeet, hunheld, hmids, hreq, hat, Option.isSome_none, Bool.or_false, Bool.false_eq_true, if_false]
  rw [State.boundary, hslot, List.isEmpty_nil, if_pos rfl, hof, State.chooseClause]
  simp only [undecided_of_none_held htrap hnone, hunheld, List.isEmpty_nil, hempty, if_true, Bool.false_eq_true, if_false]

/-- CLAUSE_START, as O47 states it. -/
theorem clauseStart_runs {h x : Nat} (hb : s.atBoundary = true) (hslot : s.g.slotDue = []) (hlive : s.g.live ≠ [])
    (htrap : s.g.trap = none) (hreq : s.g.yieldReq = false) (hat : s.g.yieldAt = none)
    (hfree : ∀ L ∈ s.g.live, (s.g.lane L).hold = .none ∧ (s.g.lane L).mid = false)
    (h1 : s.codeRead (s.g.minPc s.g.live) 0 0 8 = .ok (t, h))
    (h2 : t.codeRead (s.g.minPc s.g.live) 0 8 (8 * headerCount h) = .ok (u, x))
    (hc : clauseCheck h (((clauseWords h x).take (headerWords h)).map opcOf) = none) (hmeet : headerMeet h = false) :
    Completes .clauseStart s (fun v =>
      v.g.run = some (clauseRun (s.g.minPc s.g.live) h x (s.g.live.filter (fun L => (s.g.lane L).pc == s.g.minPc s.g.live)))
        ∧ v.mem = u.mem ∧ v.g.w = s.g.w ∧ ∀ L n, (v.g.lane L).vr n = (s.g.lane L).vr n) := by
  have hexec : exec .clauseStart s = .next (if s.atBoundary then s.boundary else s) := rfl
  obtain ⟨L, hL, hpc⟩ := minPc_attained s.g hlive
  have hne : s.g.live.filter (fun L => (s.g.lane L).pc == s.g.minPc s.g.live) ≠ [] :=
    List.ne_nil_of_mem (List.mem_filter.mpr ⟨hL, by simpa using hpc⟩)
  have hg : u.g = s.g := SameGroup.trans (codeRead_sameGroup h1) (codeRead_sameGroup h2)
  rw [if_pos hb, boundary_enters hslot hlive htrap hreq hat hfree, enterClause_eq_starts hne h1 h2 hc hmeet] at hexec
  refine ⟨_, hexec, rfl, rfl, ?_, fun L n => ?_⟩
  · show u.g.w = s.g.w
    rw [hg]
  · exact (starts_vr u.g ((below_nodup _ _).filter _) _ u.now L n).trans (by rw [hg])

end Sys2Proof.Machine
end

section
/-! Events of a group: the obligation. -/

namespace Sys2Proof

open Machine

/-- Settles O47: each event by its own lemma; a park of the whole group where the pool has room for its records writes them
one after another, and each keeps what it had when its turn came. -/
theorem groupEvents : Obligations.GroupEvents := by
  intro s own
  refine ⟨fun s1 s2 h x => ?_, implicitPark_parks, fun hgid hdue hown hroom => fullSpill_parks hgid hdue hroom hown,
    fun p => parkingStallRetry_writes, fun p => recordPoolExhausted_traps, yieldRequest_asks s, timerWake_fires s⟩
  intro hb hslot hlive htrap hreq hat hfree pc n words h1 h2 hc hmeet
  exact clauseStart_runs hb hslot hlive htrap hreq hat hfree h1 h2 hc hmeet

end Sys2Proof
end

section
/-! Integer, logic and bit-field words (R106 to R111): the functions of the model are the exact results of the rules. -/

namespace Sys2Proof.Machine

variable {s : State} {i : Instr} {f : FmtA}

/-- A two-operand integer word writes the exact result fitted to its type. -/
theorem laneWord_int2 {op : Int → Int → Int} {val : Nat → Int} (hexec : exec i s = s.int2 i f op)
    (hval : ∀ L, op (s.g.srcVal f.ty f.a L) (s.g.srcVal f.ty f.b L) = val L) :
    LaneWord s i f.guard f.dst.toNat (tyRegs f.ty) (fun L => tyFit f.ty f.sat (tyBits f.ty) (val L)) :=
  laneWord_alu _ hexec fun kp => by simp only [setKeep_srcVal, hval]

theorem laneWord_int1 {op : Int → Int} (hexec : exec i s = s.int1 i f op) :
    LaneWord s i f.guard f.dst.toNat (tyRegs f.ty)
      (fun L => tyFit f.ty f.sat (tyBits f.ty) (op (s.g.srcVal f.ty f.a L))) :=
  laneWord_alu _ hexec fun kp => by simp only [setKeep_srcVal]

/-- The product's high half, its divisor written as an integer. -/
theorem mul_div_cast (a b : Int) : a * b / (2 ^ 32 : Nat) = a * b / 2 ^ 32 := by rw [Nat.cast_pow, Nat.cast_ofNat]

theorem ite_lt_eq_min (a b : Int) : (if b < a then b else a) = min a b := by omega

theorem ite_lt_eq_max (a b : Int) : (if a < b then b else a) = max a b := by omega

/-- Byte j of a number under DOT4's signedness (R108). -/
def dotByte (signed : Bool) (x j : Nat) : Int := if signed then sextN (x / 2 ^ (8 * j)) 8 else zextN (x / 2 ^ (8 * j)) 8

/-- The fields of a number are those of its quotient. -/
theorem bitsOf_eq (x lo n : Nat) : bitsOf x lo n = x / 2 ^ lo % 2 ^ n := by
  rw [bitsOf, Nat.shiftRight_eq_div_pow]

@[simp] theorem sextN_mod (x n : Nat) : sextN (x % 2 ^ n) n = sextN x n := by
  simp only [sextN, Nat.mod_mod]

@[simp] theorem zextN_mod (x n : Nat) : zextN (x % 2 ^ n) n = zextN x n := by
  simp only [zextN, Nat.mod_mod]

theorem dotByte_mul (signed : Bool) (x y j : Nat) :
    (if signed then sextN (bitsOf x (8 * j) 8) 8 * sextN (bitsOf y (8 * j) 8) 8
      else ((bitsOf x (8 * j) 8 * bitsOf y (8 * j) 8 : Nat) : Int)) = dotByte signed x j * dotByte signed y j := by
  cases signed
  · simp only [dotByte, bitsOf_eq, zextN, Nat.cast_mul, Bool.false_eq_true, if_false]
  · simp only [dotByte, bitsOf_eq, sextN_mod, if_true]

theorem dot4Sum_eq (signed : Bool) (x y : Nat) :
    dot4Sum signed x y = dotByte signed x 0 * dotByte signed y 0 + dotByte signed x 1 * dotByte signed y 1
      + dotByte signed x 2 * dotByte signed y 2 + dotByte signed x 3 * dotByte signed y 3 := by
  simp only [dot4Sum, dotByte_mul]
  simp [List.range_succ]

end Sys2Proof.Machine

namespace Sys2Proof

open Machine

/-- Settles O1: each word is one of the shared two- or one-operand words, or computes its own sum of products. -/
theorem integerArithmetic : Obligations.IntegerArithmetic := by
  intro s f a b r d k acc
  have hdot : exec (.dot4 f) s = s.alu (.dot4 f) f.guard f.dst.toNat 1 (fun g L => tyFit acc f.sat 32
      (tyVal acc (g.src32 f.ty f.c L) + dot4Sum f.ty.isSigned (g.src32 f.ty f.a L) (g.src32 f.ty f.b L))) := rfl
  refine ⟨laneWord_int2 (show exec (.iadd f) s = execIadd f s from rfl) fun _ => rfl,
    laneWord_int2 (show exec (.isub f) s = execIsub f s from rfl) fun _ => rfl,
    laneWord_int2 (show exec (.imul f) s = execImul f s from rfl) fun _ => rfl,
    laneWord_int2 (show exec (.imulh f) s = execImulh f s from rfl) fun _ => mul_div_cast _ _,
    laneWord_alu _ (show exec (.imad f) s = execImad f s from rfl) fun kp => ?_,
    laneWord_int2 (show exec (.imin f) s = execImin f s from rfl) fun _ => ite_lt_eq_min _ _,
    laneWord_int2 (show exec (.imax f) s = execImax f s from rfl) fun _ => ite_lt_eq_max _ _,
    laneWord_int1 (show exec (.iabs f) s = execIabs f s from rfl),
    laneWord_int1 (show exec (.ineg f) s = execIneg f s from rfl),
    laneWord_alu _ (show exec (.imad64 f) s = execImad64 f s from rfl) fun kp => ?_,
    laneWord_alu _ hdot fun kp => ?_⟩
  · simp only [setKeep_srcVal, a, b]
  · simp only [setKeep_srcVal, setKeep_srcInt, a, b]
  · simp only [setKeep_src32, dot4Sum_eq, dotByte, acc]

end Sys2Proof
end

section
/-! Rows of the opcode map (R61): where the rows of an opcode stand, and what the checks of R58 ask of a word of format A. -/

namespace Sys2Proof

open Enc

/-- The rows of an opcode stand in one part of the opcode map where the other parts do not have it. -/
theorem rowsOf_of_part {pre part post : List Row} {opc : Nat} (hrows : rows = pre ++ (part ++ post))
    (hpre : ∀ r ∈ pre, r.opc ≠ opc) (hpost : ∀ r ∈ post, r.opc ≠ opc) : rowsOf opc = part.filter (fun r => r.opc == opc) := by
  have hnil : ∀ l : List Row, (∀ r ∈ l, r.opc ≠ opc) → l.filter (fun r => r.opc == opc) = [] := fun l hl =>
    List.filter_eq_nil_iff.mpr fun r hr => by simpa using hl r hr
  rw [rowsOf, hrows, List.filter_append, List.filter_append, hnil pre hpre, hnil post hpost, List.nil_append, List.append_nil]

/-- The rows after those of moves, but for the compare and predicate rows among them. -/
def addrToPackedRows : List Row := addrRows ++ floatRows ++ packedRows

def laneToSystemRows : List Row := laneRows ++ controlRows ++ memRows ++ syncRows ++ matrixRows ++ engineRows ++ hashRows
  ++ systemRows

theorem rows_eq : rows = intRows ++ (logicRows ++ (moveRows ++ (addrToPackedRows ++ (predRows ++ laneToSystemRows)))) := by
  simp only [rows, addrToPackedRows, laneToSystemRows, List.append_assoc]

theorem intRows_opc : ∀ r ∈ intRows, r.opc < 0x10 := by decide
theorem logicRows_opc : ∀ r ∈ logicRows, 0x10 ≤ r.opc ∧ r.opc < 0x20 := by decide
theorem moveRows_opc : ∀ r ∈ moveRows, 0x20 ≤ r.opc ∧ r.opc < 0x40 := by decide
theorem addrToPackedRows_opc : ∀ r ∈ addrToPackedRows, 0x40 ≤ r.opc ∧ r.opc < 0x80 := by decide
theorem predRows_opc : ∀ r ∈ predRows, 0x80 ≤ r.opc ∧ r.opc < 0x90 := by decide
theorem laneToSystemRows_opc : ∀ r ∈ laneToSystemRows, 0x90 ≤ r.opc := by decide

theorem rowsOf_int {opc : Nat} (h : opc < 0x10) : rowsOf opc = intRows.filter (fun r => r.opc == opc) := by
  refine rowsOf_of_part (pre := []) rows_eq (fun _ hr => absurd hr List.not_mem_nil) fun r hr => ?_
  simp only [List.mem_append] at hr
  rcases hr with hr | hr | hr | hr | hr
  · have := logicRows_opc r hr; omega
  · have := moveRows_opc r hr; omega
  · have := addrToPackedRows_opc r hr; omega
  · have := predRows_opc r hr; omega
  · have := laneToSystemRows_opc r hr; omega

theorem rowsOf_logic {opc : Nat} (h : 0x10 ≤ opc ∧ opc < 0x20) : rowsOf opc = logicRows.filter (fun r => r.opc == opc) := by
  refine rowsOf_of_part rows_eq (fun r hr => by have := intRows_opc r hr; omega) fun r hr => ?_
  simp only [List.mem_append] at hr
  rcases hr with hr | hr | hr | hr
  · have := moveRows_opc r hr; omega
  · have := addrToPackedRows_opc r hr; omega
  · have := predRows_opc r hr; omega
  · have := laneToSystemRows_opc r hr; omega

theorem rowsOf_pred {opc : Nat} (h : 0x80 ≤ opc ∧ opc < 0x90) : rowsOf opc = predRows.filter (fun r => r.opc == opc) := by
  refine rowsOf_of_part (pre := intRows ++ (logicRows ++ (moveRows ++ addrToPackedRows))) (post := laneToSystemRows)
    (by simp only [rows_eq, List.append_assoc]) (fun r hr => ?_) fun r hr => by have := laneToSystemRows_opc r hr; omega
  simp only [List.mem_append] at hr
  rcases hr with hr | hr | hr | hr
  · have := intRows_opc r hr; omega
  · have := logicRows_opc r hr; omega
  · have := moveRows_opc r hr; omega
  · have := addrToPackedRows_opc r hr; omega

theorem opcOf_of_encode {i : Instr} {opc : Nat} {f : Fields} {w : W64} (hv : view i = .word opc f) (ho : opc < 1024)
    (h : encode i = some w) : opcOf w = opc := by
  obtain rfl := Option.some.inj ((encode_of_view_word hv).symm.trans h)
  exact opcOf_of_head (head_packFields opc f) ho

theorem firstFail_eq_none_iff {l : List (Nat × Bool)} : firstFail l = none ↔ ∀ x ∈ l, x.2 = true := by
  induction l with
  | nil => simp [firstFail]
  | cons x l ih =>
    obtain ⟨n, ok⟩ := x
    cases ok <;> simp [firstFail, ih]

section
variable {lits : List W64} {p : SpecA} {f : FmtA} (h : p.check lits f = none)
include h

theorem SpecA.check3_of_check :
    (p.ok f.mod.toNat f.ty f.sat && p.a.check3 f.a && p.b.check3 f.b && p.c.check3 f.c) = true :=
  firstFail_eq_none_iff.mp h _ List.mem_cons_self

theorem SpecA.check5_of_check :
    (p.dst.check5 f.dst && p.a.check5 f.a && p.b.check5 f.b && p.c.check5 f.c) = true :=
  firstFail_eq_none_iff.mp h _ (List.mem_cons_of_mem _ (List.mem_cons_of_mem _ List.mem_cons_self))

end

section
variable {i : Instr} {f : FmtA} {opc : Nat} {tys : List Ty} {sat : Bool} {dst : FieldKind} {a b c : SrcKind} {mk : FmtA → Instr}
  (hv : view i = .word opc (.a f))
include hv

/-- A word whose opcode has the one row of fixed MOD 0. -/
theorem wf_rA_iff (hr : rowsOf opc = [rA opc tys sat dst a b c mk]) (hmk : mk f = i) {lits : List W64} :
    i.wf lits = true ↔ f.mod = 0
      ∧ SpecA.check lits ⟨fun _ t s => tys.contains t && (sat || !s), dst, a, b, c⟩ f = none := by
  have hmod : f.mod = 0 ↔ f.mod.toNat = 0 := (BitVec.toNat_inj (y := 0)).symm
  rw [wf_of_view_word hv, wordWf_iff]
  simp only [rowFor, hr, rA, sel1, Fields.mod, List.find?_singleton, hmod]
  by_cases h0 : f.mod.toNat = 0
  · simp [h0, Fmt.check, Fmt.make, hmk]
  · simp [h0]

/-- Opcode, MOD, SAT and type of a word that R61 gives one row. -/
theorem rA_word (ho : opc < 1024) (hr : rowsOf opc = [rA opc tys false dst a b c mk]) (hmk : mk f = i) :
    (∀ w, encode i = some w → opcOf w = opc)
      ∧ ∀ lits, i.wf lits = true → f.mod = 0 ∧ f.sat = false ∧ f.ty ∈ tys := by
  refine ⟨fun w => opcOf_of_encode hv ho, fun lits h => ?_⟩
  obtain ⟨hmod, hcheck⟩ := (wf_rA_iff hv hr hmk).mp h
  have h3 := SpecA.check3_of_check hcheck
  simp only [Bool.false_or, Bool.and_eq_true, Bool.not_eq_true', List.contains_iff_mem] at h3
  exact ⟨hmod, h3.1.1.1.2, h3.1.1.1.1⟩

end

end Sys2Proof
end

section
/-! Words that change their executing lanes in several ways at once, and the carry chain (R109). -/

namespace Sys2Proof.Machine

variable {s : State} {i : Instr} {gd : Guard}

/-- A word that changes its executing lanes, whatever becomes of the keep latch: each of them is as the change leaves it,
and what the change leaves alone in every lane is in the word's frame. -/
theorem word_lanes {body : State → Res} {h : Option Keep → Group} {f : Nat → Lane → Lane} {vs ps : Nat → Nat → Prop}
    {rs : Nat → Prop} (hexec : exec i s = s.word i gd body) (hr : s.Ready i gd)
    (hbody : ∀ s1 kp, Touched s s1 → body (s1.withG (s.g.setKeep kp)) = .done (s1.withG (h kp)))
    (hh : ∀ kp, ∃ kq, h kp = (s.g.mapLanes (s.g.executing gd) f).setKeep kq)
    (hv : ∀ L ∈ s.g.executing gd, ∀ n, ¬ vs L n → (f L (s.g.lane L)).vr n = (s.g.lane L).vr n)
    (hp : ∀ L ∈ s.g.executing gd, ∀ n, n < 8 → ¬ ps L n → (f L (s.g.lane L)).pred n = (s.g.lane L).pred n)
    (hrng : ∀ L ∈ s.g.executing gd, ¬ rs L → (f L (s.g.lane L)).rng = (s.g.lane L).rng)
    (hk : ∀ L ∈ s.g.executing gd, LaneKept (s.g.lane L) (f L (s.g.lane L))) :
    Completes i s (fun t =>
      (∀ L ∈ s.g.executing gd, ∃ pc b, t.g.lane L = { f L (s.g.lane L) with pc := pc, inSlot := b })
        ∧ WordFrame s t i gd vs ps none1 rs []) := by
  obtain ⟨t, ht, ⟨kp, hl, -⟩, hf⟩ := word_group hexec hr hbody fun kp => by
    obtain ⟨kq, e⟩ := hh kp
    rw [e]
    exact mapLanes_frame s.g _ f (executing_nodup _ _) kq hv hp hrng hk
  refine ⟨t, ht, fun L hL => ?_, hf⟩
  obtain ⟨pc, b, e⟩ := hl L
  obtain ⟨kq, hkq⟩ := hh kp
  rw [hkq, setKeep_lane, mapLanes_lane _ _ _ _ (executing_nodup _ _), if_pos hL] at e
  exact ⟨pc, b, e⟩

theorem wrapTo_lt (w : Nat) (x : Int) : wrapTo w x < 2 ^ w := by
  have h : (0 : Int) < (2 ^ w : Nat) := by exact_mod_cast Nat.two_pow_pos w
  have := Int.emod_lt_of_pos x h
  have := Int.emod_nonneg x h.ne'
  unfold wrapTo
  omega

@[simp] theorem w32_toNat (n : Nat) : (w32 n).toNat = n % 2 ^ 32 := BitVec.toNat_ofNat _ _

theorem w32_wrapTo_toNat (x : Int) : (w32 (wrapTo 32 x)).toNat = wrapTo 32 x := by
  rw [w32_toNat, Nat.mod_eq_of_lt (wrapTo_lt 32 x)]

/-- A lane with a register and a predicate written. -/
def Lane.vwp (x : Lane) (n : Nat) (y : W32) (q : Nat) (b : Bool) : Lane := (x.vw n y).setPred q b

@[simp] theorem vwp_vr (x : Lane) (n : Nat) (y : W32) (q : Nat) (b : Bool) (j : Nat) :
    (x.vwp n y q b).vr j = if n = j then y else x.vr j := vw_vr x n y j

theorem vwp_pred (x : Lane) (n : Nat) (y : W32) (q : Nat) (b : Bool) {j : Nat} (hj : j < 8) :
    (x.vwp n y q b).pred j = if q = j then b else x.pred j := setPred_pred (x.vw n y) q b j hj

/-- The operation and its carry in each executing lane, from operands and carry predicate as they stand. -/
theorem carryOp_completes {f : FmtA} {op : Int → Int → Int → Int} {cy : Int → Bool} {x : Nat → Int}
    (hexec : exec i s = s.carryOp i f op cy) (hr : s.Ready i f.guard)
    (hx : ∀ L, op (s.g.srcVal .n32 f.a L) (s.g.srcVal .n32 f.b L)
      (if (s.g.lane L).pred (f.c.field.toNat % 8) then 1 else 0) = x L) :
    Completes i s (fun t =>
      (∀ L ∈ s.g.executing f.guard, ((t.g.lane L).vr f.dst.toNat).toNat = wrapTo 32 (x L)
          ∧ (t.g.lane L).pred (f.c.field.toNat % 8) = cy (x L))
        ∧ WordFrame s t i f.guard (regsOf (s.g.executing f.guard) f.dst.toNat 1)
            (regsOf (s.g.executing f.guard) (f.c.field.toNat % 8) 1) none1 none1 []) := by
  have h8 : f.c.field.toNat % 8 < 8 := Nat.mod_lt _ (by decide)
  let change (L : Nat) (y : Lane) : Lane := y.vwp f.dst.toNat (w32 (wrapTo 32 (x L))) (f.c.field.toNat % 8) (cy (x L))
  have hv : ∀ L ∈ s.g.executing f.guard, ∀ n, ¬ regsOf (s.g.executing f.guard) f.dst.toNat 1 L n →
      (change L (s.g.lane L)).vr n = (s.g.lane L).vr n := fun L hL n hn => by
    rw [vwp_vr, if_neg]
    rintro rfl
    exact hn ⟨hL, le_refl _, Nat.lt_succ_self _⟩
  have hp : ∀ L ∈ s.g.executing f.guard, ∀ n, n < 8 → ¬ regsOf (s.g.executing f.guard) (f.c.field.toNat % 8) 1 L n →
      (change L (s.g.lane L)).pred n = (s.g.lane L).pred n := fun L hL n h hn => by
    rw [vwp_pred _ _ _ _ _ h, if_neg]
    rintro rfl
    exact hn ⟨hL, le_refl _, Nat.lt_succ_self _⟩
  obtain ⟨t, ht, hl, hf⟩ := word_lanes (rs := none1)
    (h := fun kp => ((s.g.setKeep kp).mapLanes (s.g.executing f.guard) change).touchKeep f.dst.toNat 1) hexec hr
    (fun s1 kp _ => by
      have hval : ∀ L, op (State.carryOp.g_val (s1.withG (s.g.setKeep kp)) f.a L)
          (State.carryOp.g_val (s1.withG (s.g.setKeep kp)) f.b L)
          (if (s.g.lane L).pred (f.c.field.toNat % 8) then 1 else 0) = x L := fun L => by
        rw [← hx L, ← setKeep_srcVal s.g kp, ← setKeep_srcVal s.g kp]
        rfl
      show Res.done _ = _
      simp only [change, ← hval]
      rfl)
    (fun kp => touchKeep_eq _ _ _) hv hp (fun _ _ _ => rfl) (fun _ _ => ⟨rfl, rfl, rfl, rfl, rfl⟩)
  refine ⟨t, ht, fun L hL => ?_, hf⟩
  obtain ⟨pc, b, e⟩ := hl L hL
  have hvr : (t.g.lane L).vr f.dst.toNat = (change L (s.g.lane L)).vr f.dst.toNat := by rw [e]; rfl
  have hpred : (t.g.lane L).pred (f.c.field.toNat % 8) = (change L (s.g.lane L)).pred (f.c.field.toNat % 8) := by
    rw [e]; rfl
  rw [hvr, hpred, vwp_vr, if_pos rfl, w32_wrapTo_toNat, vwp_pred _ _ _ _ _ h8, if_pos rfl]
  exact ⟨rfl, rfl⟩

end Sys2Proof.Machine

namespace Sys2Proof

open Machine Enc

/-- A predicate field has class code 0. -/
theorem cls_of_check3_pred {neg : Bool} {x : Src} (h : (SrcKind.pred neg).check3 x = true) : x.cls = 0 := by
  cases x with
  | v n => rfl
  | w n => exact absurd h Bool.false_ne_true
  | imm n => exact absurd h Bool.false_ne_true
  | lit n => exact absurd h Bool.false_ne_true

/-- What R109 asks of a word of the carry chain. -/
theorem carryRow_wf {lits : List W64} {i : Instr} {f : FmtA} {opc : Nat} {mk : FmtA → Instr} (hv : view i = .word opc (.a f))
    (hr : rowsOf opc = [rA opc [.n32] false (.v .one) (any .one) (any .one) (.pred false) mk]) (hmk : mk f = i)
    (h : i.wf lits = true) : f.ty = .n32 ∧ f.sat = false ∧ f.mod = 0 ∧ f.c.cls = 0 ∧ f.c.field.toNat < 8 := by
  obtain ⟨hmod, hcheck⟩ := (wf_rA_iff hv hr hmk).mp h
  have h3 := SpecA.check3_of_check hcheck
  have h5 := SpecA.check5_of_check hcheck
  simp only [Bool.false_or, Bool.and_eq_true, Bool.not_eq_true', List.contains_iff_mem, List.mem_singleton] at h3
  simp only [SrcKind.check5, Bool.false_or, Bool.and_eq_true, decide_eq_true_eq] at h5
  obtain ⟨⟨⟨⟨hty, hsat⟩, -⟩, -⟩, hc⟩ := h3
  exact ⟨hty, hsat, hmod, cls_of_check3_pred hc, h5.2.2⟩

/-- Settles O2: both words are the carry operation; their rows have type .n32 alone and a plain predicate in field C. -/
theorem carryChain : Obligations.CarryChain := by
  intro s f q a b c ok
  have hadd : rowsOf 0x003 = [rA 0x003 [.n32] false (.v .one) (any .one) (any .one) (.pred false) .iaddc] :=
    (rowsOf_int (by decide)).trans rfl
  have hsub : rowsOf 0x004 = [rA 0x004 [.n32] false (.v .one) (any .one) (any .one) (.pred false) .isubb] :=
    (rowsOf_int (by decide)).trans rfl
  refine ⟨fun hr => ?_, fun hr => ?_, fun w => ⟨opcOf_of_encode rfl (by decide), opcOf_of_encode rfl (by decide)⟩,
    fun lits h => h.elim (carryRow_wf rfl hadd rfl) (carryRow_wf rfl hsub rfl)⟩
  · obtain ⟨t, ht, hl, hf⟩ := carryOp_completes (show exec (.iaddc f) s = execIaddc f s from rfl) hr fun _ => rfl
    exact ⟨t, ht, fun L hL => ⟨(hl L hL).1, by rw [(hl L hL).2, decide_eq_true_iff]; rfl⟩, hf⟩
  · obtain ⟨t, ht, hl, hf⟩ := carryOp_completes (show exec (.isubb f) s = execIsubb f s from rfl) hr fun _ => rfl
    exact ⟨t, ht, fun L hL => ⟨(hl L hL).1, by rw [(hl L hL).2, decide_eq_true_iff]⟩, hf⟩

end Sys2Proof
end

section
/-! Logic, shifts, bit fields and moves (R110 to R112): each function on bit patterns as the number that the rule gives. -/

namespace Sys2Proof.Machine

variable {s : State} {i : Instr} {f : FmtA}

theorem laneWord_bits1 {op : W32 → W32} {val : Nat → Nat} (hexec : exec i s = s.bits1 i f op)
    (hval : ∀ L, (op (w32 (s.g.src32 f.ty f.a L))).toNat = val L) : LaneWord s i f.guard f.dst.toNat 1 val :=
  laneWord_alu val hexec fun kp => by simp only [setKeep_src32, hval]

theorem laneWord_bits2 {op : W32 → W32 → W32} {val : Nat → Nat} (hexec : exec i s = s.bits2 i f op)
    (hval : ∀ L, (op (w32 (s.g.src32 f.ty f.a L)) (w32 (s.g.src32 f.ty f.b L))).toNat = val L) :
    LaneWord s i f.guard f.dst.toNat 1 val :=
  laneWord_alu val hexec fun kp => by simp only [setKeep_src32, hval]

theorem laneWord_bits3 {op : W32 → W32 → W32 → W32} {val : Nat → Nat} (hexec : exec i s = s.bits3 i f op)
    (hval : ∀ L, (op (w32 (s.g.src32 f.ty f.a L)) (w32 (s.g.src32 f.ty f.b L)) (w32 (s.g.src32 f.ty f.c L))).toNat = val L) :
    LaneWord s i f.guard f.dst.toNat 1 val :=
  laneWord_alu val hexec fun kp => by simp only [setKeep_src32, hval]

/-! ### Shifts -/

theorem shl_toNat (a : W32) (n : Nat) :
    (if n < 32 then a <<< n else 0).toNat = if n < 32 then a.toNat * 2 ^ n % 2 ^ 32 else 0 := by
  split
  · rw [BitVec.toNat_shiftLeft, Nat.shiftLeft_eq]
  · rfl

theorem shr_toNat (a : W32) (n : Nat) : (if n < 32 then a >>> n else 0).toNat = if n < 32 then a.toNat / 2 ^ n else 0 := by
  split
  · rw [BitVec.toNat_ushiftRight, Nat.shiftRight_eq_div_pow]
  · rfl

theorem sar_toNat (a : W32) (n : Nat) : (a.sshiftRight n).toNat = wrapTo 32 (a.toInt / 2 ^ n) := by
  have h : (a.sshiftRight n).toInt = a.toInt / 2 ^ n := by
    rw [BitVec.toInt_sshiftRight, Int.shiftRight_eq_div_pow]; norm_cast
  rw [← h, wrapTo, ← BitVec.toNat_ofInt, BitVec.ofInt_toInt]

/-! ### Counts -/

theorem zerosBefore_le (l : List Bool) : zerosBefore l ≤ l.length := by
  induction l with
  | nil => exact le_refl _
  | cons b l ih =>
    cases b
    · simp only [zerosBefore, Bool.false_eq_true, if_false, List.length_cons]; omega
    · exact Nat.zero_le _

theorem zerosBefore_map_lt (p : Nat → Bool) : zerosBefore ((List.range 32).map p) < 2 ^ 32 := by
  have := zerosBefore_le ((List.range 32).map p)
  rw [List.length_map, List.length_range] at this
  omega

/-- Where the first set bit of a list stands, or its length where no bit is set. -/
theorem zerosBefore_eq {l : List Bool} {n : Nat} (hn : n ≤ l.length) (hz : ∀ j, j < n → l[j]? = some false)
    (ho : n < l.length → l[n]? = some true) : zerosBefore l = n := by
  induction l generalizing n with
  | nil => exact (Nat.le_zero.mp hn).symm
  | cons b l ih =>
    cases n with
    | zero =>
      have hb : b = true := by simpa using ho (by simp)
      simp [zerosBefore, hb]
    | succ n =>
      have hb : b = false := by simpa using hz 0 (by omega)
      have := ih (n := n) (by simpa using hn) (fun j hj => by simpa using hz (j + 1) (by omega))
        (fun h => by simpa using ho (by simpa using h))
      simp only [zerosBefore, hb, Bool.false_eq_true, if_false, this]
      omega

/-- The zeros above the highest set bit (R110). -/
theorem clz_eq (a : W32) : zerosBefore ((List.range 32).map (fun j => a.getLsbD (31 - j)))
    = 32 - (if a = 0 then 0 else Nat.log2 a.toNat + 1) := by
  have hget : ∀ j, j < 32 → ((List.range 32).map (fun j => a.getLsbD (31 - j)))[j]? = some (a.getLsbD (31 - j)) := fun j hj => by
    simp [hj]
  have hlen : ((List.range 32).map (fun j => a.getLsbD (31 - j))).length = 32 := by simp
  split
  next h0 =>
    subst h0
    exact zerosBefore_eq (by omega) (fun j hj => by rw [hget j hj]; simp) (fun h => absurd h (by omega))
  next h0 =>
    have hne : a.toNat ≠ 0 := fun h => h0 (BitVec.eq_of_toNat_eq h)
    have hlog : Nat.log2 a.toNat < 32 := (Nat.log2_lt hne).mpr a.isLt
    refine zerosBefore_eq (by omega) (fun j hj => ?_) (fun _ => ?_)
    · rw [hget j (by omega), Option.some.injEq]
      refine Nat.testBit_lt_two_pow ((Nat.log2_lt hne).mp ?_)
      omega
    · rw [hget _ (by omega), Option.some.injEq]
      rw [show 31 - (32 - (Nat.log2 a.toNat + 1)) = Nat.log2 a.toNat by omega]
      exact Nat.testBit_log2 hne

/-! ### Masks of bits -/

theorem brev_eq (a : W32) : maskOf 32 (below 32 (fun j => a.getLsbD (31 - j))) = a.reverse := by
  refine BitVec.eq_of_getLsbD_eq fun j hj => ?_
  rw [getLsbD_maskOf _ hj, BitVec.getLsbD_reverse, BitVec.getMsbD]
  simp [mem_below, hj]

/-- The number of set bits is the length of their list. -/
theorem popCount_lt (a : W32) : popCount a < 2 ^ 32 := by
  have : popCount a ≤ (List.range 32).length := List.length_filter_le _ _
  rw [List.length_range] at this
  omega

end Sys2Proof.Machine

namespace Sys2Proof

open Machine Enc

/-- Settles O3: each word is one of the shared words over bit patterns, with the row of its opcode. -/
theorem logicAndShifts : Obligations.LogicAndShifts := by
  intro s f a b n ok row
  have hrow : ∀ {i : Instr} {opc : Nat} {ty : Ty} {dst : FieldKind} {x y z : SrcKind} {mk : FmtA → Instr},
      view i = .word opc (.a f) → opc < 1024 → rowsOf opc = [rA opc [ty] false dst x y z mk] → mk f = i → row i opc ty := by
    intro i opc ty dst x y z mk hv ho hr hmk
    obtain ⟨h1, h2⟩ := rA_word hv ho hr hmk
    exact ⟨h1, fun lits h => by obtain ⟨hm, hs, ht⟩ := h2 lits h; exact ⟨hm, hs, List.mem_singleton.mp ht⟩⟩
  refine ⟨laneWord_bits2 (show exec (.and f) s = execAnd f s from rfl) fun _ => rfl,
    laneWord_bits2 (show exec (.or f) s = execOr f s from rfl) fun _ => rfl,
    laneWord_bits2 (show exec (.xor f) s = execXor f s from rfl) fun _ => rfl,
    laneWord_bits2 (show exec (.andn f) s = execAndn f s from rfl) fun _ => rfl,
    laneWord_bits1 (show exec (.not f) s = execNot f s from rfl) fun _ => BitVec.toNat_not,
    laneWord_bits2 (show exec (.shl f) s = execShl f s from rfl) fun _ => shl_toNat _ _,
    laneWord_bits2 (show exec (.shr f) s = execShr f s from rfl) fun _ => shr_toNat _ _,
    laneWord_bits2 (show exec (.sar f) s = execSar f s from rfl) fun _ => sar_toNat _ _,
    laneWord_bits2 (show exec (.rotl f) s = execRotl f s from rfl) fun _ => rfl,
    laneWord_bits1 (show exec (.popc f) s = execPopc f s from rfl) fun _ => ?_,
    laneWord_bits1 (show exec (.clz f) s = execClz f s from rfl) fun _ => ?_,
    laneWord_bits1 (show exec (.ctz f) s = execCtz f s from rfl) fun _ => ?_,
    laneWord_bits1 (show exec (.brev f) s = execBrev f s from rfl) fun _ => congrArg BitVec.toNat (brev_eq _),
    ?_⟩
  · rw [w32_toNat, Nat.mod_eq_of_lt (popCount_lt _)]
  · rw [clz_eq, w32_toNat, Nat.mod_eq_of_lt (by omega)]
  · exact (w32_toNat _).trans (Nat.mod_eq_of_lt (zerosBefore_map_lt _))
  · refine ⟨?_, ?_, ?_, ?_, ?_, ?_, ?_, ?_, ?_, ?_, ?_, ?_, ?_⟩
    all_goals exact hrow rfl (by decide) ((rowsOf_logic (by decide)).trans rfl) rfl

end Sys2Proof
end

section
/-! Bit fields (R111) and moves (R112). -/

namespace Sys2Proof.Machine

variable {s : State} {i : Instr} {f : FmtA}

theorem src32_lt (g : Group) (t : Ty) (x : Src) (L : Nat) : g.src32 t x L < 2 ^ 32 := Nat.mod_lt _ (by decide)

@[simp] theorem w32_src32_toNat (g : Group) (t : Ty) (x : Src) (L : Nat) : (w32 (g.src32 t x L)).toNat = g.src32 t x L := by
  rw [w32_toNat, Nat.mod_eq_of_lt (src32_lt _ _ _ _)]

/-- The field that BFX and BFI name is empty where its position or its length is. -/
theorem field_empty_iff (pos len : Nat) : (32 ≤ pos ∨ len = 0) ↔ (32 ≤ pos ∨ min len (32 - pos) = 0) := by omega

theorem bfxVal_toNat (signed : Bool) (a b : W32) :
    (bfxVal signed a b).toNat =
      if 32 ≤ b.toNat % 256 ∨ min (b.toNat / 256 % 256) (32 - b.toNat % 256) = 0 then 0
      else wrapTo 32 (if signed then sextN (a.toNat / 2 ^ (b.toNat % 256)) (min (b.toNat / 256 % 256) (32 - b.toNat % 256))
        else zextN (a.toNat / 2 ^ (b.toNat % 256)) (min (b.toNat / 256 % 256) (32 - b.toNat % 256))) := by
  have hiff := field_empty_iff (b.toNat % 256) (b.toNat / 256 % 256)
  by_cases h : 32 ≤ b.toNat % 256 ∨ b.toNat / 256 % 256 = 0
  · simp only [bfxVal, if_pos h, if_pos (hiff.mp h)]
    rfl
  · simp only [bfxVal, if_neg h, if_neg (mt hiff.mpr h)]
    rw [w32_wrapTo_toNat, bitsOf_eq, sextN_mod, zextN_mod]

theorem bfiVal_eq (a b c : W32) :
    bfiVal a b c =
      if 32 ≤ b.toNat % 256 ∨ min (b.toNat / 256 % 256) (32 - b.toNat % 256) = 0 then a
      else (a &&& ~~~(BitVec.ofNat 32 ((2 ^ min (b.toNat / 256 % 256) (32 - b.toNat % 256) - 1) * 2 ^ (b.toNat % 256))))
        ||| ((c <<< (b.toNat % 256))
          &&& BitVec.ofNat 32 ((2 ^ min (b.toNat / 256 % 256) (32 - b.toNat % 256) - 1) * 2 ^ (b.toNat % 256))) := by
  have hiff := field_empty_iff (b.toNat % 256) (b.toNat / 256 % 256)
  by_cases h : 32 ≤ b.toNat % 256 ∨ b.toNat / 256 % 256 = 0
  · simp only [bfiVal, if_pos h, if_pos (hiff.mp h)]
  · simp only [bfiVal, if_neg h, if_neg (mt hiff.mpr h)]

/-- Digits of a number to the base 2^k. -/
theorem bitsOf_digit (x k j : Nat) : bitsOf x (k * j) k = x / (2 ^ k) ^ j % 2 ^ k := by rw [bitsOf_eq, Nat.pow_mul]

/-- The byte that selector `sel` of PRMT takes from eight bytes: one of them, or its sign (R111). -/
def prmtByte (x sel : Nat) : Nat :=
  if sel < 8 then x / 256 ^ (sel % 8) % 256 else if x / 256 ^ (sel % 8) % 256 < 128 then 0 else 255

theorem prmtByte_lt (x sel : Nat) : prmtByte x sel < 256 := by
  unfold prmtByte
  split
  · omega
  · split <;> omega

theorem prmtByte_eq (x sel : Nat) :
    (if 8 ≤ sel then (if 128 ≤ bitsOf x (8 * (sel % 8)) 8 then 255 else 0) else bitsOf x (8 * (sel % 8)) 8) = prmtByte x sel := by
  have h : bitsOf x (8 * (sel % 8)) 8 = x / 256 ^ (sel % 8) % 256 := bitsOf_digit _ _ _
  rw [h, prmtByte]
  split_ifs <;> omega

theorem prmtVal_toNat (a b c : W32) :
    (prmtVal a b c).toNat = prmtByte (a.toNat + b.toNat * 2 ^ 32) (c.toNat / 16 ^ 0 % 16)
      + 256 * (prmtByte (a.toNat + b.toNat * 2 ^ 32) (c.toNat / 16 ^ 1 % 16)
      + 256 * (prmtByte (a.toNat + b.toNat * 2 ^ 32) (c.toNat / 16 ^ 2 % 16)
      + 256 * prmtByte (a.toNat + b.toNat * 2 ^ 32) (c.toNat / 16 ^ 3 % 16))) := by
  have hsel : ∀ j, bitsOf c.toNat (4 * j) 4 = c.toNat / 16 ^ j % 16 := fun j => bitsOf_digit _ _ _
  have hlt := fun j => prmtByte_lt (a.toNat + b.toNat * 2 ^ 32) (c.toNat / 16 ^ j % 16)
  simp only [prmtVal, prmtByte_eq, hsel, w32_toNat]
  have h0 := hlt 0
  have h1 := hlt 1
  have h2 := hlt 2
  have h3 := hlt 3
  omega

/-- The value of MOVI lies below 2^32. -/
theorem moviVal_toNat (md : BitVec 4) (x : BitVec 28) :
    (moviVal md.toNat x).toNat = if md = 0 then x.toNat else if md = 1 then wrapTo 32 x.toInt else x.toNat * 16 := by
  have hx := x.isLt
  have h0 : md = 0 ↔ md.toNat = 0 := (BitVec.toNat_inj (y := 0)).symm
  have h1 : md = 1 ↔ md.toNat = 1 := (BitVec.toNat_inj (y := 1)).symm
  simp only [h0, h1]
  unfold moviVal
  split
  next h => rw [if_pos h, BitVec.toNat_setWidth, Nat.mod_eq_of_lt (by omega)]
  next h => 
    rw [if_neg (by omega), if_pos h, BitVec.signExtend, BitVec.toNat_ofInt]
    rfl
  next g0 g1 =>
    rw [if_neg g0, if_neg g1, BitVec.toNat_shiftLeft, BitVec.toNat_setWidth, Nat.shiftLeft_eq]
    omega

end Sys2Proof.Machine

namespace Sys2Proof

open Machine Enc

/-- Settles O4: the functions on bit patterns, with the row of each opcode. -/
theorem bitFields : Obligations.BitFields := by
  intro s f a b c pos len inField row
  refine ⟨laneWord_bits2 (show exec (.bfx f) s = execBfx f s from rfl) fun L => ?_,
    laneWord_bits3 (show exec (.bfi f) s = execBfi f s from rfl) fun L => ?_,
    laneWord_bits3 (show exec (.prmt f) s = execPrmt f s from rfl) fun L => ?_,
    rA_word rfl (by decide) ((rowsOf_logic (by decide)).trans rfl) rfl,
    rA_word rfl (by decide) ((rowsOf_logic (by decide)).trans rfl) rfl,
    rA_word rfl (by decide) ((rowsOf_logic (by decide)).trans rfl) rfl⟩
  · rw [bfxVal_toNat, w32_src32_toNat, w32_src32_toNat]
  · rw [bfiVal_eq, w32_src32_toNat]
    exact apply_ite BitVec.toNat _ _ _
  · rw [prmtVal_toNat, w32_src32_toNat, w32_src32_toNat, w32_src32_toNat]
    rfl

/-- Settles O5: every move writes what its operand holds; MOVW reads the register that its sum names, which holds no pending
token. -/
theorem moves : Obligations.Moves := by
  intro s f g d k idx
  refine ⟨laneWord_alu _ (show exec (.sel f) s = execSel f s from rfl) fun kp => ?_,
    laneWord_alu _ (show exec (.mov f) s = execMov f s from rfl) fun kp => ?_,
    laneWord_alu _ (show exec (.movi g) s = execMovi g s from rfl) fun kp => ?_,
    fun hpend => ?_, ?_⟩
  · funext L
    rw [setKeep_srcInt, setKeep_lane, apply_ite (fun x => s.g.srcInt f.ty (tyRegs f.ty) x L)]
  · simp only [setKeep_srcInt, k]
  · rw [moviVal_toNat]
  · have hany : (s.g.executing f.guard).any (fun L => s.g.pend.get 0 (idx L) != 0) = false :=
      List.any_eq_false.mpr fun L hL => by simp [hpend L hL]
    refine laneWord_write (fun _ L => if idx L ≤ 63 then (s.g.wr (idx L)).toNat else 0) _
      (show exec (.movw f) s = execMovw f s from rfl) (fun s1 kp _ => ?_) fun _ _ _ => rfl
    have hidx : ∀ L, f.a.field.toNat + (s.g.setKeep kp).src32 f.ty f.b L % 64 = idx L := fun L => by rw [setKeep_src32]
    simp only [withG_g, hidx, setKeep_executing, setKeep_pend, setKeep_wr, hany]
    rfl
  · refine uniformWord_write (show exec (.wmov f) s = execWmov f s from rfl) fun s1 kp _ => ?_
    simp only [withG_g, setKeep_srcInt, setKeep_lowest]
    rfl

end Sys2Proof
end

section
/-! Words with a check in each active lane (R113 to R115, R373): they complete where every lane passes, and trap in the
lowest that fails. -/

namespace Sys2Proof.Machine

variable {s : State} {i : Instr} {gd : Guard}

theorem active_sorted (g : Group) (gd : Guard) : (g.active gd).Pairwise (· < ·) := List.pairwise_lt_range.filter _

theorem firstTrap_eq_none {act : List Nat} {chk : Nat → Option (Nat × Nat)} (h : ∀ L ∈ act, chk L = none) :
    firstTrap act chk = none := by
  have hnil : act.filterMap (fun L => (chk L).map (fun c => ({ cause := c.1, detail := c.2, lane := some L } : Trap))) = [] :=
    List.filterMap_eq_nil_iff.mpr fun L hL => by rw [h L hL]; rfl
  rw [firstTrap, hnil]
  rfl

/-- Among lanes in ascending order the first that fails is the lowest that fails. -/
theorem firstTrap_lowest {act : List Nat} {chk : Nat → Option (Nat × Nat)} {L : Nat} {c : Nat × Nat}
    (hs : act.Pairwise (· < ·)) (hL : L ∈ act) (hc : chk L = some c) (hlow : ∀ M ∈ act, M < L → chk M = none) :
    firstTrap act chk = some { cause := c.1, detail := c.2, lane := some L } := by
  unfold firstTrap
  induction act with
  | nil => exact absurd hL List.not_mem_nil
  | cons M ms ih =>
    obtain ⟨hM, hms⟩ := List.pairwise_cons.mp hs
    rcases List.mem_cons.mp hL with rfl | hin
    · rw [List.filterMap_cons, hc]
      rfl
    · rw [List.filterMap_cons, hlow M List.mem_cons_self (hM L hin)]
      exact ih hms hin fun N hN => hlow N (List.mem_cons_of_mem _ hN)

/-- The lowest active lane that fails a check raises its trap. -/
theorem trapsLowest_of_body {body : State → Res} {bad : Nat → Option (Nat × Nat)} (hexec : exec i s = s.word i gd body)
    (hbody : ∀ s1 kp t, Touched s s1 → firstTrap (s.g.active gd) bad = some t →
      body (s1.withG (s.g.setKeep kp)) = .trap (s1.withG (s.g.setKeep kp)) t) : TrapsLowest i s gd bad := by
  intro L c hr hL hc hlow
  exact word_trap hexec hr fun s1 kp ht =>
    hbody s1 kp _ ht (firstTrap_lowest (active_sorted _ _) hL hc hlow)

theorem checkedAlu_trap {dst k : Nat} {chk : State → Nat → Option (Nat × Nat)} {f : State → Nat → Nat}
    {bad : Nat → Option (Nat × Nat)} (hexec : exec i s = s.checkedAlu i gd dst k chk f)
    (hchk : ∀ (s1 : State) kp, chk (s1.withG (s.g.setKeep kp)) = bad) : TrapsLowest i s gd bad :=
  trapsLowest_of_body hexec fun s1 kp t _ h => by simp only [withG_g, setKeep_active, hchk, h]

theorem laneWord_checkedAlu {dst k : Nat} {chk : State → Nat → Option (Nat × Nat)} {f : State → Nat → Nat}
    {bad : Nat → Option (Nat × Nat)} {val : Nat → Nat} (hexec : exec i s = s.checkedAlu i gd dst k chk f)
    (hchk : ∀ (s1 : State) kp, chk (s1.withG (s.g.setKeep kp)) = bad) (hval : ∀ (s1 : State) kp, f (s1.withG (s.g.setKeep kp)) = val)
    (hok : ∀ L ∈ s.g.active gd, bad L = none) : LaneWord s i gd dst k val :=
  laneWord_write (fun _ => val) val hexec
    (fun s1 kp _ => by simp only [withG_g, setKeep_active, hchk, firstTrap_eq_none hok, hval]; rfl) fun _ _ _ => rfl

/-- A word with a check in each active lane, from the group as it stands. -/
theorem checkedWord_alu {dst k : Nat} {chk : State → Nat → Option (Nat × Nat)} {f : State → Nat → Nat}
    {bad : Nat → Option (Nat × Nat)} {val : Nat → Nat} (hexec : exec i s = s.checkedAlu i gd dst k chk f)
    (hchk : ∀ (s1 : State) kp, chk (s1.withG (s.g.setKeep kp)) = bad) (hval : ∀ (s1 : State) kp, f (s1.withG (s.g.setKeep kp)) = val) :
    CheckedWord s i gd dst k bad val :=
  ⟨laneWord_checkedAlu hexec hchk hval, checkedAlu_trap hexec hchk⟩

/-- Which parts of the machine a word's effects beside its group may not reach. -/
structure GroupOnly (s t : State) : Prop where
  mem : t.mem = s.mem
  others : t.others = s.others
  acc : t.acc = s.acc
  accPoison : t.accPoison = s.accPoison
  ctxs : t.ctxs = s.ctxs

/-- A word whose effects reach the group and what no other part of the machine sees, such as the count of free values. -/
theorem word_groupOnly {body : State → Res} {P : Group → Prop} {vs ps : Nat → Nat → Prop} {ws rs : Nat → Prop}
    (hexec : exec i s = s.word i gd body) (hr : s.Ready i gd)
    (hbody : ∀ s1 kp, Touched s s1 → ∃ t, body (s1.withG (s.g.setKeep kp)) = .done t ∧ GroupOnly s1 t
      ∧ GroupFrame s.g t.g vs ps ws rs ∧ P t.g) :
    Completes i s (fun t => (∃ g, P g ∧ (∀ L, ∃ pc b, t.g.lane L = { g.lane L with pc := pc, inSlot := b }) ∧ t.g.w = g.w)
      ∧ WordFrame s t i gd vs ps ws rs []) := by
  obtain ⟨s1, kp, hcb, hw⟩ := word_ready body hr
  have ht : Touched s s1 := (checkBacking_spec s s1 _ hcb).1
  obtain ⟨t, hb, hgo, hframe, hp⟩ := hbody s1 kp ht
  rw [hb] at hw
  obtain ⟨_, _, e⟩ := ht
  obtain ⟨hl, hww, hf⟩ := finish_frame hcb hgo.mem (by rw [hgo.others, e]) (by rw [hgo.acc, e]) (by rw [hgo.accPoison, e])
    (by rw [hgo.ctxs, e]) hframe
  exact ⟨_, hexec.trans hw, ⟨t.g, hp, hl, hww⟩, hf⟩

/-! ### Addresses -/

/-- The address-format checks of a sum, in the terms of R113. -/
def sumFails (a : Nat) (y : Int) : Prop :=
  let win (x : Nat) := x / 2 ^ 72 % 256
  let carries (n x : Nat) (y : Int) : Prop := (x % 2 ^ n : Nat) + y < 0 ∨ 2 ^ n ≤ (x % 2 ^ n : Nat) + y
  2 ^ 80 ≤ a ∨ win (wrapTo 80 (a + y)) ≠ win a
    ∨ ((win a = 0xFE ∨ win a = 0xFD) ∧ carries 24 a y) ∨ (win a = 0xFC ∧ carries 32 a y)

theorem winOf_eq (a : Nat) : winOf a = a / 2 ^ 72 % 256 := bitsOf_eq a 72 8

theorem tripleBad_iff (a : Nat) : tripleBad a = true ↔ 2 ^ 80 ≤ a := decide_eq_true_iff

theorem sumBad_iff {a : Nat} {y : Int} :
    (tripleBad a || sumBad a ((a % 2 ^ 80 : Nat) + y)) = true ↔ sumFails a y := by
  by_cases ha : 2 ^ 80 ≤ a
  · exact iff_of_true (Bool.or_eq_true_iff.mpr (.inl ((tripleBad_iff a).mpr ha))) (.inl ha)
  · have hmod : a % 2 ^ 80 = a := Nat.mod_eq_of_lt (by omega)
    have hy : (a : Int) + y - a = y := by omega
    have h24 : ((2 ^ 24 : Nat) : Int) = 2 ^ 24 := by norm_cast
    have h32 : ((2 ^ 32 : Nat) : Int) = 2 ^ 32 := by norm_cast
    simp only [sumFails, sumBad, hmod, hy, winOf_eq, tripleBad_iff, Bool.or_eq_true, Bool.and_eq_true, bne_iff_ne, ne_eq,
      beq_iff_eq, decide_eq_true_eq, h24, h32, or_assoc]


/-- The checks of ADIFF: both triples are addresses, of one window. -/
theorem adiffBad_iff (a b : Nat) : (tripleBad a || tripleBad b || winOf (a % 2 ^ 80) != winOf (b % 2 ^ 80)) = true
    ↔ 2 ^ 80 ≤ a ∨ 2 ^ 80 ≤ b ∨ a / 2 ^ 72 % 256 ≠ b / 2 ^ 72 % 256 := by
  have hwin : ∀ x : Nat, x % 2 ^ 80 / 2 ^ 72 % 256 = x / 2 ^ 72 % 256 := fun x => by omega
  simp only [Bool.or_eq_true, tripleBad_iff, bne_iff_ne, winOf_eq, hwin, or_assoc]

/-- AADD and ASUB: the checks of R113 on the exact sum, which is what the lanes write. -/
theorem addrSum_word {f : FmtA} {sg : Int} {y : Nat → Int} (hexec : exec i s = s.addrSum i f sg)
    (hy : ∀ L, sg * s.g.srcVal f.ty f.b L = y L) :
    ((∀ L ∈ s.g.active f.guard, ¬ sumFails (s.g.srcTriple f.a L) (y L)) →
        LaneWord s i f.guard f.dst.toNat 3 (fun L => wrapTo 80 ((s.g.srcTriple f.a L % 2 ^ 80 : Nat) + y L)))
      ∧ ∀ L, s.Ready i f.guard → L ∈ s.g.active f.guard → sumFails (s.g.srcTriple f.a L) (y L) →
          (∀ M ∈ s.g.active f.guard, M < L → ¬ sumFails (s.g.srcTriple f.a M) (y M)) →
          Traps i s { cause := 0x06, detail := 0, lane := some L } := by
  classical
  let bad (L : Nat) : Option (Nat × Nat) := if sumFails (s.g.srcTriple f.a L) (y L) then some (0x06, 0) else none
  have hpass : ∀ L, bad L = none ↔ ¬ sumFails (s.g.srcTriple f.a L) (y L) := fun L => by simp [bad]
  obtain ⟨hdone, htrap⟩ := checkedWord_alu (bad := bad)
    (val := fun L => wrapTo 80 ((s.g.srcTriple f.a L % 2 ^ 80 : Nat) + y L)) hexec
    (fun s1 kp => by
      funext L
      simp only [withG_g, setKeep_srcTriple, setKeep_srcVal, hy, sumBad_iff, bad])
    (fun s1 kp => by simp only [withG_g, setKeep_srcTriple, setKeep_srcVal, hy])
  exact ⟨fun h => hdone fun L hL => (hpass L).mpr (h L hL), fun L hr hL hb hlow =>
    htrap L (0x06, 0) hr hL (if_pos hb) fun M hM hlt => (hpass M).mpr (hlow M hM hlt)⟩

/-- The trap of SPCAST on a triple (R115). -/
def spCastBad (here md a : Nat) : Option (Nat × Nat) :=
  match spCast here md a with
  | .error e => some e
  | .ok _ => none

/-- The pointer that SPCAST writes, or what it writes in place of one. -/
def spCastVal (here md a free : Nat) : Nat :=
  match spCast here md a with
  | .ok x => x
  | .error _ => free

theorem spCastBad_of_ok {here md a x : Nat} (h : spCast here md a = .ok x) : spCastBad here md a = none := by
  rw [spCastBad, h]

theorem spCastVal_of_ok {here md a x : Nat} (free : Nat) (h : spCast here md a = .ok x) : spCastVal here md a free = x := by
  rw [spCastVal, h]

/-- The effects of SPCAST, its operands being there. -/
def spcastBody (f : FmtA) (s : State) : Res :=
  match firstTrap (s.g.active f.guard) (fun L => spCastBad s.g.core f.mod.toNat (s.g.srcTriple f.a L)) with
  | some t => .trap s t
  | none => .done (s.free.2.withG (s.g.writeV (s.g.executing f.guard) f.dst.toNat 3
      (fun L => spCastVal s.g.core f.mod.toNat (s.g.srcTriple f.a L) s.free.1.toNat)))

theorem exec_spcast_eq (f : FmtA) (s : State) : exec (.spcast f) s = s.word (.spcast f) f.guard (spcastBody f) := rfl

/-- SPCAST traps in the lowest active lane without a pointer. -/
theorem spcast_trapsLowest (f : FmtA) (s : State) :
    TrapsLowest (.spcast f) s f.guard (fun L => spCastBad s.g.core f.mod.toNat (s.g.srcTriple f.a L)) :=
  trapsLowest_of_body (exec_spcast_eq f s) fun s1 kp t _ h => by
    simp only [spcastBody, withG_g, setKeep_active, setKeep_core, setKeep_srcTriple, h]

/-- SPCAST completes where every active lane makes its pointer; what a HELPER lane without one writes is a free value. -/
theorem spcast_completes {f : FmtA} (hr : s.Ready (.spcast f) f.guard)
    (hok : ∀ L ∈ s.g.active f.guard, ∃ x, spCast s.g.core f.mod.toNat (s.g.srcTriple f.a L) = .ok x) :
    Completes (.spcast f) s (fun t =>
      (∀ L ∈ s.g.executing f.guard, ∀ x, spCast s.g.core f.mod.toNat (s.g.srcTriple f.a L) = .ok x →
          (t.g.lane L).vrN f.dst.toNat 3 = x % 2 ^ 96)
        ∧ WordFrame s t (.spcast f) f.guard (regsOf (s.g.executing f.guard) f.dst.toNat 3) noRegs none1 none1 []) := by
  have hnone : firstTrap (s.g.active f.guard) (fun L => spCastBad s.g.core f.mod.toNat (s.g.srcTriple f.a L)) = none :=
    firstTrap_eq_none fun L hL => (hok L hL).elim fun _ hx => spCastBad_of_ok hx
  obtain ⟨t, ht, ⟨g, hp, hl, -⟩, hf⟩ := word_groupOnly
    (P := fun g => ∀ L ∈ s.g.executing f.guard, ∀ x, spCast s.g.core f.mod.toNat (s.g.srcTriple f.a L) = .ok x →
      (g.lane L).vrN f.dst.toNat 3 = x % 2 ^ 96)
    (exec_spcast_eq f s) hr fun s1 kp _ => by
      refine ⟨(s1.withG (s.g.setKeep kp)).free.2.withG ((s.g.setKeep kp).writeV (s.g.executing f.guard) f.dst.toNat 3
          (fun L => spCastVal s.g.core f.mod.toNat (s.g.srcTriple f.a L) (s1.withG (s.g.setKeep kp)).free.1.toNat)),
        by simp only [spcastBody, withG_g, setKeep_active, setKeep_executing, setKeep_core, setKeep_srcTriple, hnone],
        ⟨rfl, rfl, rfl, rfl, rfl⟩, (writeV_frame (s.g.setKeep kp) _ _ _ _ (executing_nodup _ _)).of_keep, fun L hL x hx => ?_⟩
      rw [withG_g, writeV_lane _ _ _ _ _ _ (executing_nodup _ _), if_pos hL, vwN_vrN, spCastVal_of_ok _ hx]
  refine ⟨t, ht, fun L hL x hx => ?_, hf⟩
  obtain ⟨pc, b, e⟩ := hl L
  rw [e, pc_vrN]
  exact hp L hL x hx

end Sys2Proof.Machine

namespace Sys2Proof

open Machine

/-- Settles O6: the words with checks in their active lanes; the sum's checks are those of R113. -/
theorem addressArithmetic : Obligations.AddressArithmetic := by
  intro s f a b win carries bad sum
  refine ⟨addrSum_word (show exec (.aadd f) s = execAadd f s from rfl) fun L => one_mul _,
    addrSum_word (show exec (.asub f) s = execAsub f s from rfl) fun L => neg_one_mul _,
    checkedWord_alu (show exec (.adiff f) s = execAdiff f s from rfl) (fun s1 kp => ?_) (fun s1 kp => ?_),
    checkedWord_alu (show exec (.amovi f) s = execAmovi f s from rfl) (fun s1 kp => ?_) (fun s1 kp => ?_),
    spcast_trapsLowest f s, spcast_completes⟩
  · funext L
    simp only [withG_g, setKeep_srcTriple, adiffBad_iff, badPair]
    rfl
  · simp only [withG_g, setKeep_srcTriple, a, b]
  · simp only [withG_g, setKeep_srcTriple, tripleBad_iff, a]
  · simp only [withG_g, setKeep_srcTriple, a]

end Sys2Proof
end

section
/-! Words that write a predicate from a comparison or a test (R113, R114, R123). -/

namespace Sys2Proof.Machine

variable {s : State} {i : Instr} {gd : Guard}

/-- A word whose effect is a predicate of its executing lanes. -/
theorem predWord_write {p : Nat} {body : State → Res} (val : Nat → Bool) (hexec : exec i s = s.word i gd body) (hp : p < 8)
    (hbody : ∀ s1 kp, Touched s s1 → body (s1.withG (s.g.setKeep kp))
      = .done (s1.withG ((s.g.setKeep kp).writeP (s.g.executing gd) p val))) : PredWord s i gd p val := by
  intro hr
  obtain ⟨t, ht, hl, hf⟩ := word_lanes (f := fun L x => x.setPred p (val L)) (vs := noRegs)
    (ps := regsOf (s.g.executing gd) p 1) (rs := none1) hexec hr hbody (fun kp => ⟨kp, rfl⟩) (fun _ _ _ _ => rfl)
    (fun L hL n hn hq => by
      rw [setPred_pred _ _ _ _ hn, if_neg]
      rintro rfl
      exact hq ⟨hL, le_refl _, Nat.lt_succ_self _⟩)
    (fun _ _ _ => rfl) (fun _ _ => ⟨rfl, rfl, rfl, rfl, rfl⟩)
  refine ⟨t, ht, fun L hL => ?_, hf⟩
  obtain ⟨pc, b, e⟩ := hl L hL
  rw [e]
  exact (setPred_pred (s.g.lane L) p (val L) p hp).trans (if_pos rfl)

/-- The six conditions on ordered values (R113, R123). -/
theorem condOrd_compare {α : Type} [LinearOrder α] [BEq α] [LawfulBEq α] (md : Nat) (a b : α) :
    condOrd md (compare a b) = match md with
      | 0 => a == b
      | 1 => a != b
      | 2 => decide (a < b)
      | 3 => decide (a ≤ b)
      | 4 => decide (b < a)
      | _ => decide (b ≤ a) := by
  have heq : (compare a b == .eq) = (a == b) := by rw [Bool.eq_iff_iff]; simp [compare_eq_iff_eq]
  have hlt : (compare a b == .lt) = decide (a < b) := by rw [Bool.eq_iff_iff]; simp [compare_lt_iff_lt]
  have hgt : (compare a b == .gt) = decide (b < a) := by rw [Bool.eq_iff_iff]; simp [compare_gt_iff_gt]
  rcases md with _ | _ | _ | _ | _ | md
  · exact heq
  · exact congrArg not heq
  · exact hlt
  · exact (congrArg not hgt).trans (by simp only [← decide_not, not_lt])
  · exact hgt
  · exact (congrArg not hlt).trans (by simp only [← decide_not, not_lt])

/-- ACMP completes where every triple is an address. -/
theorem acmp_predWord {f : FmtA} (hp : f.dst.toNat < 8)
    (hok : ∀ L ∈ s.g.active f.guard, s.g.srcTriple f.a L < 2 ^ 80 ∧ s.g.srcTriple f.b L < 2 ^ 80) :
    PredWord s (.acmp f) f.guard f.dst.toNat (fun L =>
      condOrd f.mod.toNat (compare (s.g.srcTriple f.a L % 2 ^ 80) (s.g.srcTriple f.b L % 2 ^ 80))) := by
  have hnone : firstTrap (s.g.active f.guard)
      (fun L => if badPair s f L then some (0x06, 0) else none) = none := firstTrap_eq_none fun L hL => by
    obtain ⟨ha, hb⟩ := hok L hL
    have hpair : badPair s f L = false := by
      rw [badPair, tripleBad, tripleBad, decide_eq_false (Nat.not_le.mpr ha), decide_eq_false (Nat.not_le.mpr hb), Bool.or_false]
    rw [hpair]
    rfl
  refine predWord_write _ (show exec (.acmp f) s = execAcmp f s from rfl) hp fun s1 kp _ => ?_
  have hbad : ∀ L, badPair (s1.withG (s.g.setKeep kp)) f L = badPair s f L := fun L => by
    simp only [badPair, withG_g, setKeep_srcTriple]
  simp only [withG_g, setKeep_active, setKeep_executing, setKeep_srcTriple, hbad, hnone]
  rfl

/-- A test reads the machine's blocks and the core it runs on. -/
theorem spTest_touched {s1 : State} (kp : Option Keep) (h : Touched s s1) (md a : Nat) :
    (s1.withG (s.g.setKeep kp)).spTest md a = s.spTest md a := by
  obtain ⟨m, z, rfl⟩ := h
  rfl

/-- The windows that .global accepts. -/
theorem window_global {w : Nat} (h : w < 256) :
    (decide (w < 0xFC) || w == 0xFF) = (w != 0xFE && w != 0xFD && w != 0xFC) := by
  rw [Bool.eq_iff_iff]
  simp only [Bool.or_eq_true, Bool.and_eq_true, decide_eq_true_eq, beq_iff_eq, bne_iff_ne]
  omega

/-- The tests of SPTEST by its MOD (R114). -/
theorem spTest_eq (s : State) (md a : Nat) : s.spTest md a = (decide (a < 2 ^ 80) && match md with
    | 0 => a / 2 ^ 72 % 256 == 0xFE
    | 1 => a / 2 ^ 72 % 256 == 0xFD
    | 2 => a / 2 ^ 72 % 256 == 0xFC
    | 3 => a / 2 ^ 72 % 256 != 0xFE && a / 2 ^ 72 % 256 != 0xFD && a / 2 ^ 72 % 256 != 0xFC
    | _ => s.spTest 4 a) := by
  by_cases ha : a < 2 ^ 80
  · have hbad : tripleBad a = false := by simpa [tripleBad] using ha
    rw [decide_eq_true ha, Bool.true_and]
    rcases md with _ | _ | _ | _ | md
    · simp only [State.spTest, hbad, winOf_eq, Bool.false_eq_true, if_false]
    · simp only [State.spTest, hbad, winOf_eq, Bool.false_eq_true, if_false]
    · simp only [State.spTest, hbad, winOf_eq, Bool.false_eq_true, if_false]
    · simp only [State.spTest, hbad, winOf_eq, Bool.false_eq_true, if_false]
      exact window_global (Nat.mod_lt _ (by decide))
    · rfl
  · have hbad : tripleBad a = true := decide_eq_true (Nat.le_of_not_lt ha)
    rw [decide_eq_false ha, Bool.false_and]
    unfold State.spTest
    exact if_pos hbad

/-- Field C of a compare: the way to combine in its bits 4:3 (R123). -/
theorem combine_eq (x : Lane) (c : Src) (cmp : Bool) : x.combine c cmp =
    match c.field.toNat / 8 % 4 with
    | 0 => cmp
    | 1 => cmp && xor (x.pred (c.field.toNat % 8)) (c.field.getLsbD 5)
    | 2 => cmp || xor (x.pred (c.field.toNat % 8)) (c.field.getLsbD 5)
    | _ => xor cmp (xor (x.pred (c.field.toNat % 8)) (c.field.getLsbD 5)) := by
  have h : (c.field.extractLsb' 3 2).toNat = c.field.toNat / 8 % 4 := by
    rw [BitVec.extractLsb'_toNat, Nat.shiftRight_eq_div_pow]
  rw [← h]
  rfl

/-- A NaN operand makes every condition of FCMP but ne and unord false (R123). -/
theorem condFloat_eq (md : Nat) (x y : FNum) : condFloat md x y =
    match md with
    | 0 => !(x.isNan || y.isNan) && x.cmp y == .eq
    | 1 => (x.isNan || y.isNan) || x.cmp y != .eq
    | 2 => !(x.isNan || y.isNan) && x.cmp y == .lt
    | 3 => !(x.isNan || y.isNan) && x.cmp y != .gt
    | 4 => !(x.isNan || y.isNan) && x.cmp y == .gt
    | 5 => !(x.isNan || y.isNan) && x.cmp y != .lt
    | 6 => !(x.isNan || y.isNan)
    | 7 => (x.isNan || y.isNan)
    | n => condFloat n x y := by
  rcases md with _ | _ | _ | _ | _ | _ | _ | _ | md
  case succ => rfl
  all_goals cases h : (x.isNan || y.isNan) <;> simp [condFloat, condOrd, h]

end Sys2Proof.Machine

namespace Sys2Proof

open Machine

/-- Settles O7: ACMP compares where both triples are addresses, and SPTEST looks at one triple. -/
theorem addressTests : Obligations.AddressTests := by
  intro s f a b win hp
  refine ⟨fun hok => ?_, ?_, ?_⟩
  · intro hr
    obtain ⟨t, ht, hl, hf⟩ := acmp_predWord hp hok hr
    exact ⟨t, ht, fun L hL => (hl L hL).trans (condOrd_compare _ _ _), hf⟩
  · refine trapsLowest_of_body (show exec (.acmp f) s = execAcmp f s from rfl) fun s1 kp t _ h => ?_
    have hbad : ∀ L, (badPair (s1.withG (s.g.setKeep kp)) f L = true) = (2 ^ 80 ≤ a L ∨ 2 ^ 80 ≤ b L) := fun L => by
      simp only [badPair, withG_g, setKeep_srcTriple, Bool.or_eq_true, tripleBad_iff, a, b]
    simp only [withG_g, setKeep_active, hbad, h]
  · refine predWord_write _ (show exec (.sptest f) s = execSptest f s from rfl) hp fun s1 kp ht => ?_
    simp only [withG_g, setKeep_srcTriple, setKeep_executing, spTest_touched kp ht, spTest_eq s f.mod.toNat]
    rfl

/-- Settles O11: the conditions on ordered values and on floats, combined as field C says. -/
theorem compares : Obligations.Compares := by
  intro s f q comb a b x y un hp
  refine ⟨predWord_alu _ (show exec (.icmp f) s = execIcmp f s from rfl) (fun kp => funext fun L => ?_) hp,
    predWord_alu _ (show exec (.fcmp f) s = execFcmp f s from rfl) (fun kp => funext fun L => ?_) hp⟩
  · rw [setKeep_srcVal, setKeep_srcVal, setKeep_lane, combine_eq, condOrd_compare] <;> rfl
  · rw [setKeep_srcNum, setKeep_srcNum, setKeep_lane, combine_eq, condFloat_eq] <;> rfl

end Sys2Proof
end

section
/-! Floating-point, conversion and packed words (R116 to R122): each is one rounding of the exact result, or one for each
element. -/

namespace Sys2Proof.Machine

variable {s : State} {i : Instr} {f : FmtA}

theorem roundWord_float1 {x : Group → Rm → Nat → FNum} {val : Nat → FNum} (hexec : exec i s = s.float1 i f x)
    (hval : ∀ kp L, x (s.g.setKeep kp) (s.g.rm (f.mod.toNat % 8)) L = val L) :
    RoundWord s i f.guard (f.mod.toNat % 8) 1 f.dst.toNat 1
      (fun us L => roundF (fmtOf f.ty) (s.g.rm (f.mod.toNat % 8)) (us.headD 0) f.sat (val L)) :=
  roundWord_rounding _ hexec fun kp us L => by rw [hval]

theorem laneWord_minmax {mx : Bool} (hexec : exec i s = s.minmax i f mx) :
    LaneWord s i f.guard f.dst.toNat 1 (fun L =>
      fminmax (fmtOf f.ty) mx (f.mod.getLsbD 3) (s.g.srcEnc f.ty f.a L) (s.g.srcEnc f.ty f.b L)) :=
  laneWord_alu _ hexec fun kp => by simp only [setKeep_srcEnc]

theorem laneWord_func {fn : FNum → FNum} (hexec : exec i s = s.func i f fn) :
    LaneWord s i f.guard f.dst.toNat 1 (fun L =>
      let y := roundF (fmtOf .f32) .rne 0 false (fn (s.g.srcNum f.ty f.a L))
      if f.ty = .f32 then y else roundF (fmtOf f.ty) .rne 0 false (decodeF (fmtOf .f32) y)) :=
  laneWord_alu _ hexec fun kp => by simp only [setKeep_srcNum]

theorem roundWord_packed {x : Group → Rm → Nat → Nat → FNum} (val : Nat → Nat → FNum)
    (hexec : exec i s = s.packed i f x)
    (hval : ∀ kp e L, x (s.g.setKeep kp) (s.g.rm f.mod.toNat) e L = val e L) :
    RoundWord s i f.guard f.mod.toNat 2 f.dst.toNat 1 (fun us L =>
      roundF (fmtOf f.ty) (s.g.rm f.mod.toNat) (us.getD 0 0) f.sat (val 0 L)
        + 2 ^ 16 * roundF (fmtOf f.ty) (s.g.rm f.mod.toNat) (us.getD 1 0) f.sat (val 1 L)) :=
  roundWord_rounding _ hexec fun kp us L => by rw [hval, hval]; rfl

end Sys2Proof.Machine

namespace Sys2Proof

open Machine

/-- Settles O8: the arithmetic words round once; FMIN and FMAX choose an operand. -/
theorem floatArithmetic : Obligations.FloatArithmetic := by
  intro s f a b c code m d one
  refine ⟨roundWord_float1 (show exec (.fadd f) s = execFadd f s from rfl) fun kp L => ?_,
    roundWord_float1 (show exec (.fsub f) s = execFsub f s from rfl) fun kp L => ?_,
    roundWord_float1 (show exec (.fmul f) s = execFmul f s from rfl) fun kp L => ?_,
    roundWord_float1 (show exec (.ffma f) s = execFfma f s from rfl) fun kp L => ?_,
    roundWord_float1 (show exec (.fscale f) s = execFscale f s from rfl) fun kp L => ?_,
    roundWord_rounding _ (show exec (.frnd f) s = execFrnd f s from rfl) fun kp us L => ?_,
    laneWord_minmax (show exec (.fmin f) s = execFmin f s from rfl),
    laneWord_minmax (show exec (.fmax f) s = execFmax f s from rfl)⟩
  case refine_5 => rw [setKeep_srcNum, setKeep_srcVal]
  all_goals simp only [setKeep_srcNum, a, b, c, m, code]

/-- Settles O9: FRCP and FSQRT round once under RM; the other functions are those of R118. -/
theorem floatFunctions : Obligations.FloatFunctions := by
  intro s f a code d fn
  refine ⟨roundWord_float1 (show exec (.frcp f) s = execFrcp f s from rfl) fun kp L => ?_,
    roundWord_float1 (show exec (.fsqrt f) s = execFsqrt f s from rfl) fun kp L => ?_,
    laneWord_func (show exec (.frsq f) s = execFrsq f s from rfl), laneWord_func (show exec (.fex2 f) s = execFex2 f s from rfl),
    laneWord_func (show exec (.flg2 f) s = execFlg2 f s from rfl), laneWord_func (show exec (.fsin f) s = execFsin f s from rfl),
    laneWord_func (show exec (.fcos f) s = execFcos f s from rfl),
    laneWord_func (show exec (.ftanh f) s = execFtanh f s from rfl),
    laneWord_alu _ (show exec (.fclass f) s = execFclass f s from rfl) fun kp => ?_⟩
  · rw [setKeep_srcNum]
  · rw [setKeep_srcNum]
  · simp only [setKeep_srcEnc]

/-- Settles O10: a conversion rounds once to the type it writes, a packed word once for each element. -/
theorem conversionsAndPacked : Obligations.ConversionsAndPacked := by
  intro s f m d src ival pk
  refine ⟨roundWord_rounding _ (show exec (.fcvt f) s = execFcvt f s from rfl) fun kp us L => ?_,
    fun hty => roundWord_rounding _ ((show exec (.icvt f) s = execIcvt f s from rfl).trans (if_pos hty)) fun kp us L => ?_,
    fun hty => laneWord_alu _ ((show exec (.icvt f) s = execIcvt f s from rfl).trans (if_neg (by simp [hty]))) fun kp => ?_,
    roundWord_rounding _ (show exec (.ficvt f) s = execFicvt f s from rfl) fun kp us L => ?_,
    roundWord_packed (fun e L => FNum.add m (s.g.srcPacked f.ty f.a e L) (s.g.srcPacked f.ty f.b e L))
      (show exec (.pkadd f) s = execPkadd f s from rfl) fun kp e L => ?_,
    roundWord_packed (fun e L => (s.g.srcPacked f.ty f.a e L).mul (s.g.srcPacked f.ty f.b e L))
      (show exec (.pkmul f) s = execPkmul f s from rfl) fun kp e L => ?_,
    roundWord_packed
      (fun e L => FNum.add m ((s.g.srcPacked f.ty f.a e L).mul (s.g.srcPacked f.ty f.b e L)) (s.g.srcPacked f.ty f.c e L))
      (show exec (.pkfma f) s = execPkfma f s from rfl) fun kp e L => ?_,
    roundWord_rounding _ (show exec (.pkcvt f) s = execPkcvt f s from rfl) fun kp us L => ?_⟩
  · rw [setKeep_srcNum]; rfl
  · simp only [setKeep_srcInt]; rfl
  · simp only [setKeep_srcInt]; rfl
  · rw [setKeep_srcNum]
  · simp only [setKeep_srcPacked, m]
  · simp only [setKeep_srcPacked]
  · simp only [setKeep_srcPacked, m]
  · simp only [setKeep_srcNum, setKeep_lane, cvtFF]
    rfl

end Sys2Proof
end

section
/-! Predicate words (R124): the predicates that PUNPK writes, and the rows of their opcodes. -/

namespace Sys2Proof.Machine

variable {s : State} {i : Instr} {f : FmtA}

/-- The effects of PUNPK in a lane: the predicates of a mask take the bits of a number. -/
def Lane.unpack (x : Lane) (m a : Nat) : Lane :=
  { x with p := (x.p &&& ~~~(BitVec.ofNat 8 m)) ||| (BitVec.ofNat 8 a &&& BitVec.ofNat 8 m) }

theorem unpack_pred (x : Lane) (m a : Nat) {n : Nat} (hn : n < 8) :
    (x.unpack m a).pred n = if m.testBit n then a.testBit n else x.pred n := by
  simp only [Lane.unpack, Lane.pred, BitVec.getLsbD_or, BitVec.getLsbD_and, BitVec.getLsbD_not, BitVec.getLsbD_ofNat, hn,
    decide_true, Bool.true_and]
  cases m.testBit n <;> simp

/-- Every predicate that its mask names is written in each executing lane, and no other. -/
theorem unpack_completes {mask : Group → Nat → BitVec 8} (m : Nat → Nat) (hexec : exec i s = s.unpack i f mask)
    (hm : ∀ kp L, mask (s.g.setKeep kp) L = BitVec.ofNat 8 (m L)) (hr : s.Ready i f.guard) :
    Completes i s (fun t =>
      (∀ L ∈ s.g.executing f.guard, ∀ n, n < 8 → (t.g.lane L).pred n
          = if (m L).testBit n then (s.g.src32 f.ty f.a L).testBit n else (s.g.lane L).pred n)
        ∧ WordFrame s t i f.guard noRegs (regsOf (s.g.executing f.guard) 0 8) none1 none1 []) := by
  let change (L : Nat) (x : Lane) : Lane := x.unpack (m L) (s.g.src32 f.ty f.a L)
  obtain ⟨t, ht, hl, hf⟩ := word_lanes (f := change) (rs := none1) (vs := noRegs)
    (ps := regsOf (s.g.executing f.guard) 0 8) (h := fun kp => (s.g.setKeep kp).mapLanes (s.g.executing f.guard) change)
    hexec hr (fun s1 kp _ => by simp only [withG_g, setKeep_src32, setKeep_executing, hm]; rfl) (fun kp => ⟨kp, rfl⟩)
    (fun _ _ _ _ => rfl) (fun L hL n hn hq => absurd ⟨hL, Nat.zero_le n, by omega⟩ hq) (fun _ _ _ => rfl)
    (fun _ _ => ⟨rfl, rfl, rfl, rfl, rfl⟩)
  refine ⟨t, ht, fun L hL n hn => ?_, hf⟩
  obtain ⟨pc, b, e⟩ := hl L hL
  rw [e]
  exact unpack_pred (s.g.lane L) _ _ hn

end Sys2Proof.Machine

namespace Sys2Proof

open Machine Enc

/-- The rows of PUNPK and of PUNPK.mask (R124). -/
def punpkRow : Row := rA 0x089 [.b32] false .none (any .one) .unused .unused .punpk

def punpkMaskRow : Row :=
  ⟨0x089, sel1 1, .a ⟨fun _ t s => t = .b32 && !s, .none, any .one, any .one, .unused⟩ .punpkMask⟩

theorem rowFor_punpk (m : Nat) :
    rowFor 0x089 m = if m = 0 then some punpkRow else if m = 1 then some punpkMaskRow else none := by
  have hrows : rowsOf 0x089 = [punpkRow, punpkMaskRow] := (rowsOf_pred (by decide)).trans rfl
  have h0 : punpkRow.mod m = (m == 0) := rfl
  have h1 : punpkMaskRow.mod m = (m == 1) := rfl
  rw [rowFor, hrows, List.find?_cons, List.find?_cons, h0, h1, List.find?_nil]
  by_cases hm : m = 0
  · subst hm; rfl
  · rw [beq_false_of_ne hm, if_neg hm]
    by_cases hn : m = 1
    · subst hn; rfl
    · rw [beq_false_of_ne hn, if_neg hn]

theorem wf_punpk_iff {lits : List W64} {f : FmtA} :
    (Instr.punpk f).wf lits = true ↔ f.mod.toNat = 0 ∧ punpkRow.fmt.check lits (.a f) = none := by
  rw [wf_of_view_word (i := .punpk f) rfl, wordWf_iff]
  constructor
  · rintro ⟨r, hr, hcheck, hmake⟩
    rw [Fields.mod, rowFor_punpk] at hr
    split at hr
    next h0 => cases hr; exact ⟨h0, hcheck⟩
    next =>
      split at hr
      · cases hr; cases hmake
      · cases hr
  · rintro ⟨h0, hcheck⟩
    exact ⟨punpkRow, (rowFor_punpk _).trans (if_pos h0), hcheck, rfl⟩

theorem wf_punpkMask_iff {lits : List W64} {f : FmtA} :
    (Instr.punpkMask f).wf lits = true ↔ f.mod.toNat = 1 ∧ punpkMaskRow.fmt.check lits (.a f) = none := by
  rw [wf_of_view_word (i := .punpkMask f) rfl, wordWf_iff]
  constructor
  · rintro ⟨r, hr, hcheck, hmake⟩
    rw [Fields.mod, rowFor_punpk] at hr
    split at hr
    next => cases hr; cases hmake
    next =>
      split at hr
      next h1 => cases hr; exact ⟨h1, hcheck⟩
      next => cases hr
  · rintro ⟨h1, hcheck⟩
    refine ⟨punpkMaskRow, (rowFor_punpk _).trans ?_, hcheck, rfl⟩
    rw [Fields.mod, if_neg (by omega), if_pos h1]

/-- An operand of one register that exists passes the checks of R58. -/
def Src.Exists (lits : List W64) (x : Src) : Prop :=
  match x with
  | .v _ => True
  | .imm _ => True
  | .w n => n.toNat < 64
  | .lit n => n.toNat < 8 ∧ n.toNat < lits.length

theorem check3_any (x : Src) : (any .one).check3 x = true := by cases x <;> rfl

theorem check4_any {lits : List W64} {cty : Ty} {x : Src} (h : x.Exists lits) :
    (any .one).check4 lits .b32 cty x = true := by
  cases x with
  | v n => rfl
  | imm n => rfl
  | w n =>
    have hn : n.toNat < 64 := h
    simpa [any, SrcKind.check4, Width.regs, wOk] using hn
  | lit n =>
    have hn : n.toNat < 8 ∧ n.toNat < lits.length := h
    simpa [any, SrcKind.check4, Width.regs, litOk] using hn

/-- A word of type .b32 whose sources are operands that exist, or are not used, passes the checks of its row. -/
theorem check_b32 {lits : List W64} {f : FmtA} {dst : FieldKind} {b : SrcKind} {ok : Nat → Ty → Bool → Bool}
    (hty : f.ty = .b32) (hok : ok f.mod.toNat .b32 f.sat = true) (ha : f.a.Exists lits) (hc : f.c = .v 0)
    (hb : b.check3 f.b = true ∧ b.check4 lits .b32 (cTyOf f.c) f.b = true ∧ b.check5 f.b = true)
    (hd : dst.check4 .b32 f.dst = true ∧ dst.check5 f.dst = true) :
    SpecA.check lits ⟨ok, dst, any .one, b, .unused⟩ f = none := by
  obtain ⟨hb3, hb4, hb5⟩ := hb
  obtain ⟨hd4, hd5⟩ := hd
  have h3 : (ok f.mod.toNat f.ty f.sat && (any .one).check3 f.a && b.check3 f.b && SrcKind.unused.check3 f.c) = true := by
    rw [hty, hok, check3_any, hb3, hc]; rfl
  have h4 : (dst.check4 f.ty f.dst && (any .one).check4 lits f.ty (cTyOf f.c) f.a && b.check4 lits f.ty (cTyOf f.c) f.b
      && SrcKind.unused.check4 lits f.ty (cTyOf f.c) f.c) = true := by
    rw [hty, hd4, check4_any ha, hb4]; rfl
  have h5 : (dst.check5 f.dst && (any .one).check5 f.a && b.check5 f.b && SrcKind.unused.check5 f.c) = true := by
    rw [hd5, hb5, hc]; rfl
  exact firstFail_eq_none_iff.mpr (List.forall_mem_cons.mpr ⟨h3, List.forall_mem_cons.mpr ⟨h4, List.forall_mem_cons.mpr
    ⟨h5, List.forall_mem_nil _⟩⟩⟩)

/-- Settles O12: the words by their shared operation, and their rows; PUNPK and PUNPK.mask are told apart by MOD. -/
theorem predicateWords : Obligations.PredicateWords := by
  intro s f pa pb pw unpack row operand
  have hrow : ∀ {i : Instr} {opc : Nat} {dst : FieldKind} {x y z : SrcKind} {mk : FmtA → Instr},
      view i = .word opc (.a f) → opc < 1024 → rowsOf opc = [rA opc [.b32] false dst x y z mk] → mk f = i → row i opc 0 := by
    intro i opc dst x y z mk hv ho hr hmk
    obtain ⟨h1, h2⟩ := rA_word hv ho hr hmk
    refine ⟨h1, fun lits h => ?_⟩
    obtain ⟨hm, hs, ht⟩ := h2 lits h
    rw [hm, List.mem_singleton.mp ht]
    exact ⟨rfl, hs, rfl⟩
  have hset : rowsOf 0x082 = [rA 0x082 [.b32] false .pred (any .one) .unused .unused .pset] :=
    (rowsOf_pred (by decide)).trans rfl
  refine ⟨fun hp => predWord_alu _ (show exec (.pset f) s = execPset f s from rfl) (fun kp => ?_) hp,
    fun hp => predWord_alu _ (show exec (.pand f) s = execPand f s from rfl) (fun kp => rfl) hp,
    fun hp => predWord_alu _ (show exec (.por f) s = execPor f s from rfl) (fun kp => rfl) hp,
    fun hp => predWord_alu _ (show exec (.pxor f) s = execPxor f s from rfl) (fun kp => ?_) hp,
    fun hp => predWord_alu _ (show exec (.pnot f) s = execPnot f s from rfl) (fun kp => rfl) hp,
    fun hp => predWord_alu _ (show exec (.pmov f) s = execPmov f s from rfl) (fun kp => rfl) hp,
    laneWord_alu _ (show exec (.ppack f) s = execPpack f s from rfl) fun kp => rfl,
    unpack_completes _ (show exec (.punpk f) s = execPunpk f s from rfl) fun _ _ => rfl,
    unpack_completes _ (show exec (.punpkMask f) s = execPunpkMask f s from rfl) fun _ _ => by rw [setKeep_src32],
    hrow rfl (by decide) hset rfl,
    hrow rfl (by decide) ((rowsOf_pred (by decide)).trans rfl) rfl,
    hrow rfl (by decide) ((rowsOf_pred (by decide)).trans rfl) rfl,
    hrow rfl (by decide) ((rowsOf_pred (by decide)).trans rfl) rfl,
    hrow rfl (by decide) ((rowsOf_pred (by decide)).trans rfl) rfl,
    hrow rfl (by decide) ((rowsOf_pred (by decide)).trans rfl) rfl,
    hrow rfl (by decide) ((rowsOf_pred (by decide)).trans rfl) rfl, ?_, ?_, ?_⟩
  · funext L
    simp only [setKeep_src32]
    rw [Bool.eq_iff_iff]; simp
  · rfl
  · refine ⟨fun w => opcOf_of_encode rfl (by decide), fun lits h => ?_⟩
    obtain ⟨hm, hcheck⟩ := wf_punpk_iff.mp h
    have h3 := SpecA.check3_of_check hcheck
    simp only [Bool.false_or, Bool.and_eq_true, Bool.not_eq_true', List.contains_iff_mem, List.mem_singleton] at h3
    obtain ⟨⟨⟨⟨ht, hs⟩, -⟩, -⟩, -⟩ := h3
    exact ⟨hm, hs, by rw [ht]; rfl⟩
  · refine ⟨fun w => opcOf_of_encode rfl (by decide), fun lits h => ?_⟩
    obtain ⟨hm, hcheck⟩ := wf_punpkMask_iff.mp h
    have h3 := SpecA.check3_of_check hcheck
    simp only [Bool.and_eq_true, Bool.not_eq_true', decide_eq_true_eq] at h3
    obtain ⟨⟨⟨⟨ht, hs⟩, -⟩, -⟩, -⟩ := h3
    exact ⟨hm, hs, by rw [ht]; rfl⟩
  · intro lits hty hsat hc ha
    have hok : ∀ x, x = .v 0 → SrcKind.unused.check3 x = true ∧ SrcKind.unused.check4 lits .b32 (cTyOf f.c) x = true
        ∧ SrcKind.unused.check5 x = true := fun x hx => by rw [hx]; exact ⟨rfl, rfl, rfl⟩
    refine ⟨fun hm hb hd => ?_, fun hm hb hd => ?_, fun hm hb hd => ?_⟩
    · exact (wf_rA_iff rfl hset rfl).mpr
        ⟨hm, check_b32 hty (by rw [hsat]; rfl) ha hc (hok _ hb) ⟨decide_eq_true hd, rfl⟩⟩
    · exact wf_punpk_iff.mpr ⟨by rw [hm]; rfl, check_b32 hty (by rw [hsat]; rfl) ha hc (hok _ hb) ⟨rfl, by rw [hd]; rfl⟩⟩
    · exact wf_punpkMask_iff.mpr ⟨by rw [hm]; rfl,
        check_b32 hty (by rw [hsat]; rfl) ha hc ⟨check3_any _, check4_any hb, rfl⟩ ⟨rfl, by rw [hd]; rfl⟩⟩

end Sys2Proof
end

section
/-! Quad words (R125) and group words (R126 to R128): what an executing lane reads of the other lanes. -/

namespace Sys2Proof.Machine

variable {s : State} {i : Instr} {f : FmtA}

/-- The votes of a group (R126): all, any, or unanimous. -/
theorem vote_eq (md : Nat) (votes act : List Nat) :
    (match md with
      | 0 => votes.length == act.length
      | 1 => votes.length != 0
      | _ => votes.length == act.length || votes.length == 0)
    = match md with
      | 0 => decide (votes.length = act.length)
      | 1 => decide (votes ≠ [])
      | _ => decide (votes.length = act.length ∨ votes = []) := by
  have hall : (votes.length == act.length) = decide (votes.length = act.length) := rfl
  have hnil : (votes.length == 0) = decide (votes = []) := by rw [Bool.eq_iff_iff]; simp
  rcases md with _ | _ | md
  · exact hall
  · exact (congrArg not hnil).trans (decide_not).symm
  · show (_ || _) = decide (_ ∨ _)
    rw [hall, hnil, Bool.decide_or]

end Sys2Proof.Machine

namespace Sys2Proof

open Machine

/-- Settles O13: the quad words read the lanes of their own quad. -/
theorem quadWords : Obligations.QuadWords := by
  intro s f at' act m bit
  refine ⟨laneWord_alu _ (show exec (.qswz f) s = execQswz f s from rfl) fun kp => funext fun L => ?_,
    laneWord_alu _ (show exec (.qxch f) s = execQxch f s from rfl) fun kp => funext fun L => ?_,
    laneWord_alu _ (show exec (.qred f) s = execQred f s from rfl) fun kp => funext fun L => ?_,
    roundWord_rounding _ (show exec (.qdiff f) s = execQdiff f s from rfl) fun kp us L => ?_,
    predWord_alu _ (show exec (.qhelp f) s = execQhelp f s from rfl) fun kp => rfl⟩
  · rw [setKeep_src32, bitsOf_digit]
    rfl
  · rw [setKeep_src32]
    rfl
  · rw [setKeep_srcRed_fn, setKeep_active]
  · simp only [setKeep_srcNum]
    rfl

/-- Settles O14: each word reads the active lanes; the result of a HELPER lane is that of its quad's lowest active lane. -/
theorem groupWords : Obligations.GroupWords := by
  intro s f act votes low me d k aOf
  refine ⟨predWord_alu _ (show exec (.gvote f) s = execGvote f s from rfl) fun kp => funext fun L => ?_,
    laneWord_alu _ (show exec (.gballot f) s = execGballot f s from rfl) fun kp => rfl,
    laneWord_alu _ (show exec (.gcount f) s = execGcount f s from rfl) fun kp => rfl,
    laneWord_alu _ (show exec (.gshfl f) s = execGshfl f s from rfl) fun kp => funext fun L => ?_,
    laneWord_alu _ (show exec (.gbcst f) s = execGbcst f s from rfl) fun kp => funext fun L => ?_,
    laneWord_alu _ (show exec (.gred f) s = execGred f s from rfl) fun kp => funext fun L => ?_,
    laneWord_alu _ (show exec (.gscan f) s = execGscan f s from rfl) fun kp => funext fun L => ?_,
    laneWord_alu _ (show exec (.gmatch f) s = execGmatch f s from rfl) fun kp => funext fun L => ?_,
    laneWord_alu _ (show exec (.gtopk f) s = execGtopk f s from rfl) fun kp => funext fun L => ?_⟩
  · exact vote_eq f.mod.toNat votes act
  · simp only [setKeep_resultLane, setKeep_active, setKeep_src32, setKeep_srcInt, List.contains_iff_mem]
    rfl
  · simp only [setKeep_lowest, setKeep_active, setKeep_src32, setKeep_srcInt, List.contains_iff_mem]
    rfl
  · rw [setKeep_srcRed_fn, setKeep_active]
  · simp only [setKeep_resultLane, setKeep_active, setKeep_srcRed_fn]
    rfl
  · simp only [setKeep_resultLane, setKeep_active, setKeep_srcInt]
    rfl
  · simp only [setKeep_lowest, setKeep_active, setKeep_src32, setKeep_srcRed]
    rfl

end Sys2Proof
end

section
/-! Control transfers (R129, R131, R132): where the lanes of the clause go, and that its end changes nothing else. -/

namespace Sys2Proof.Machine

variable {s : State} {i : Instr} {gd : Guard} {r : Run}

/-- A lane of a group whose clause ends in a transfer, as `f` changes the active ones. -/
def Group.transferred (g : Group) (r : Run) (gd : Guard) (f : Lane → Lane) (L : Nat) : Lane :=
  if L ∈ g.active gd then f (g.lane L) else if g.runs L then { g.lane L with pc := r.next } else g.lane L

theorem runs_lt {g : Group} {L : Nat} (h : g.runs L = true) : L < 32 := by
  unfold Group.runs at h
  split at h
  · simp only [Bool.and_eq_true] at h
    exact BitVec.lt_of_getLsbD h.1.1
  · exact absurd h Bool.false_ne_true

theorem transfer_lane (g : Group) (r : Run) (gd : Guard) (f : Lane → Lane) (L : Nat) :
    (g.transfer r gd (fun _ => f)).lane L = g.transferred r gd f L := by
  unfold Group.transfer Group.transferred
  rw [mapLanes_lane _ _ _ _ (below_nodup _ _)]
  simp only [List.contains_iff_mem]
  by_cases ha : L ∈ g.active gd
  · obtain ⟨hlt, hruns⟩ := mem_below.mp ha
    rw [if_pos (mem_below.mpr ⟨hlt, (Bool.and_eq_true_iff.mp hruns).1⟩), if_pos ha, if_pos ha]
  · rw [if_neg ha, if_neg ha]
    by_cases hruns : g.runs L = true
    · rw [if_pos (mem_below.mpr ⟨runs_lt hruns, hruns⟩), if_pos hruns]
    · rw [if_neg fun h => hruns (mem_below.mp h).2, if_neg hruns]

theorem transfer_rest (g : Group) (r : Run) (gd : Guard) (f : Nat → Lane → Lane) :
    ∃ l, g.transfer r gd f = { g with lanes := l } := ⟨_, rfl⟩

/-- The end of a control transfer whose effects have been taken, its backing slots aside. -/
theorem endTransfer_parts (t : State) (sl : List ((Nat × Nat) × List Piece)) :
    let u := (t.saveTo sl).endTransfer
    (∀ L, ∃ b, u.g.lane L = { t.g.lane L with inSlot := b }) ∧ u.g.run = none ∧ u.g.w = t.g.w ∧ u.g.k = t.g.k
      ∧ RestKept t u ∧ u.mem = (t.saveTo sl).mem := by
  intro u
  obtain ⟨⟨l, hs, hg⟩, hl⟩ := saveTo_saved t sl
  obtain ⟨-, ho, ha, hp, hc⟩ := hs.keeps
  obtain ⟨n, m, p, hu⟩ := endTransfer_eq (t.saveTo sl)
  have hu' : u = _ := hu
  rw [hu']
  exact ⟨hl, rfl, by rw [hg], by rw [hg],
    ⟨by rw [hg], by rw [hg], by rw [hg], by rw [hg], by rw [hg], by rw [hg], ho, ha, hp, hc⟩, rfl⟩

/-- The clause has ended in a transfer: its lanes are where it sends them, and nothing but their registers and the backing
slots of these has changed. -/
def Transferred (i : Instr) (gd : Guard) (r : Run) (f : Lane → Lane) (s t : State) : Prop :=
  (∀ L, ∃ slots, t.g.lane L = { s.g.transferred r gd f L with inSlot := slots })
    ∧ t.g.run = none ∧ t.g.w = s.g.w ∧ t.g.k = s.g.k ∧ RestKept s t
    ∧ ∀ a, Outside a (s.slotReach i gd) → t.mem.get 0 a = s.mem.get 0 a

/-- A word that ends its clause by a transfer: its lanes go where it sends them, and nothing but their registers changes. -/
theorem transfer_completes {body : State → Res} {f : Lane → Lane} (hexec : exec i s = s.word i gd body) (hr : s.Ready i gd)
    (hbody : ∀ s1 kp, Touched s s1 →
      body (s1.withG (s.g.setKeep kp)) = .ended (s1.withG ((s.g.setKeep kp).transfer r gd (fun _ => f)))) :
    Completes i s (Transferred i gd r f s) := by
  obtain ⟨s1, kp, hcb, hw⟩ := word_ready body hr
  have ht : Touched s s1 := (checkBacking_spec s s1 _ hcb).1
  rw [hbody s1 kp ht] at hw
  obtain ⟨hl, hrun, hww, hk, hrest, hmem⟩ := endTransfer_parts (s1.withG ((s.g.setKeep kp).transfer r gd (fun _ => f)))
    (s.slotPieces (s.g.active gd) (wordRegs i).vw)
  refine ⟨_, hexec.trans hw, fun L => ?_, hrun, hww, hk, RestKept.trans ?_ hrest, fun a ha => ?_⟩
  · obtain ⟨b, hb⟩ := hl L
    refine ⟨b, hb.trans ?_⟩
    rw [withG_g, transfer_lane]
    rfl
  · obtain ⟨_, _, e⟩ := ht
    rw [e]
    exact ⟨rfl, rfl, rfl, rfl, rfl, rfl, rfl, rfl, rfl, rfl⟩
  · have hout := saved_outside (t := s1.withG ((s.g.setKeep kp).transfer r gd (fun _ => f))) hcb rfl a ha
    exact (congrArg (fun m => m.get 0 a) hmem).trans hout

theorem branch_completes {f : Run → Nat → Lane → Lane} (x : Lane → Lane) (hrun : s.g.run = some r)
    (hexec : exec i s = s.branch i gd f) (hx : ∀ L y, f r L y = x y) (hr : s.Ready i gd) :
    Completes i s (Transferred i gd r x s) :=
  transfer_completes hexec hr fun s1 kp _ => by
    have hf : f r = fun _ => x := funext fun L => funext fun y => hx L y
    simp only [withG_g, setKeep_run, hrun, hf]
    rfl

theorem jTarget_eq (pc : W32) (off : BitVec 36) : jTarget pc off = BitVec.ofInt 32 ((pc.toNat : Int) + 8 * off.toInt) := by
  refine BitVec.eq_of_toNat_eq ?_
  rw [jTarget, w32_wrapTo_toNat, BitVec.toNat_ofInt, wrapTo]

/-- The trap of an indirect transfer to a target that is not a multiple of 8 (R132). -/
def targetBad (g : Group) (reg L : Nat) : Option (Nat × Nat) :=
  if ((g.lane L).vr reg).toNat % 8 = 0 then none else some (0x04, L)

/-- The effects of an indirect transfer, its operands being there. -/
def indirectBody (gd : Guard) (reg : Nat) (link : Bool) (s : State) : Res :=
  match s.g.run with
  | none => .stop s
  | some r => match firstTrap (s.g.active gd) (targetBad s.g reg) with
    | some t => .trap s t
    | none => .ended (s.withG (s.g.transfer r gd (fun _ x => { (if link then x.vw 31 r.next else x) with pc := x.vr reg })))

theorem indirect_eq (s : State) (i : Instr) (gd : Guard) (reg : Nat) (link : Bool) :
    s.indirect i gd reg link = s.word i gd (indirectBody gd reg link) := rfl

theorem indirect_completes {reg : Nat} {link : Bool} {x : Lane → Lane} (hrun : s.g.run = some r)
    (hexec : exec i s = s.indirect i gd reg link) (hx : ∀ y : Lane, { (if link then y.vw 31 r.next else y) with pc := y.vr reg } = x y)
    (hok : ∀ L ∈ s.g.active gd, ((s.g.lane L).vr reg).toNat % 8 = 0) (hr : s.Ready i gd) :
    Completes i s (Transferred i gd r x s) :=
  transfer_completes (hexec.trans (indirect_eq _ _ _ _ _)) hr fun s1 kp _ => by
    have hnone : firstTrap (s.g.active gd) (targetBad (s.g.setKeep kp) reg) = none :=
      firstTrap_eq_none fun L hL => if_pos (hok L hL)
    simp only [indirectBody, withG_g, setKeep_run, hrun, setKeep_active, hnone, hx]
    rfl

theorem indirect_trapsLowest {reg : Nat} {link : Bool} (hrun : s.g.run = some r)
    (hexec : exec i s = s.indirect i gd reg link) : TrapsLowest i s gd (targetBad s.g reg) :=
  trapsLowest_of_body (hexec.trans (indirect_eq _ _ _ _ _)) fun s1 kp t _ h => by
    have h' : firstTrap (s.g.active gd) (targetBad (s.g.setKeep kp) reg) = some t := h
    simp only [indirectBody, withG_g, setKeep_run, hrun, setKeep_active, h']

end Sys2Proof.Machine

namespace Sys2Proof

open Machine

/-- Settles O15: each transfer sends its active lanes as its rule says; the indirect ones check their targets first. -/
theorem controlTransfers : Obligations.ControlTransfers := by
  intro s j e r hrun branches target indirect
  have hind : ∀ {i : Instr} {n : Nat} {link : Bool} {x : Lane → Lane}, exec i s = s.indirect i e.guard n link →
      (∀ y : Lane, { (if link then y.vw 31 r.next else y) with pc := y.vr n } = x y) → indirect i n x := fun hexec hx =>
    ⟨fun hok hr => indirect_completes hrun hexec hx hok hr, indirect_trapsLowest hrun hexec⟩
  refine ⟨branch_completes (fun x => { x with pc := target }) hrun (show exec (.bra j) s = execBra j s from rfl) fun _ y => ?_,
    branch_completes
      (fun x => { x.vw j.dst.toNat (x.vr j.dst.toNat - 1) with pc := if x.vr j.dst.toNat - 1 = 0 then r.next else target })
      hrun (show exec (.brc j) s = execBrc j s from rfl) fun _ y => ?_,
    branch_completes (fun x => { x.vw 31 r.next with pc := target }) hrun (show exec (.call j) s = execCall j s from rfl)
      fun _ y => ?_,
    hind (show exec (.brx e) s = execBrx e s from rfl) fun _ => rfl,
    hind (show exec (.callx e) s = execCallx e s from rfl) fun _ => rfl,
    hind (show exec (.ret e) s = execRet e s from rfl) fun _ => rfl⟩
  all_goals simp only [jTarget_eq, target]

end Sys2Proof
end

section
/-! Held lanes (R135): where every LIVE lane of a group issues a segment-ending word, the word holds them all, and every quad
has arrived. -/

namespace Sys2Proof.Machine

variable {s : State} {i : Instr} {gd : Guard} {r : Run} {p : ParkPlan} {h : HeldAt}

/-- The entry of a segment-ending word that holds its lanes for the first time. -/
def HeldAt.first (r : Run) (c : Capture) (m : BitVec 32) : HeldAt :=
  { pc := r.pc, wix := r.wix, word := r.words.getD r.wix 0, next := r.next, val := c.val, deadline := c.deadline
    waiter := c.waiter, served := c.served, mask := m }

/-- The state in which the lanes of a group that held none are held at a word. -/
def State.holding (s : State) (r : Run) (gd : Guard) (h : HeldAt) : State :=
  { s.retire with g := { s.retire.g.holdAt r gd with held := [h] } }

theorem segEnd_eq (hrun : s.g.run = some r) (htrap : s.g.trap = none) (hheld : s.g.held = []) (fresh : Bool) (c : Capture) :
    s.segEnd gd fresh c = .stop ((s.holding r gd (.first r c (maskOf 32 (s.g.active gd)))).decideHeld
      (.first r c (maskOf 32 (s.g.active gd))) (List.range 8)).trim := by
  have hheld' : s.retire.g.held = [] := hheld
  have hheld'' : (s.retire.g.holdAt r gd).held = [] := hheld
  unfold State.segEnd
  simp only [hrun, htrap, Option.isSome_none, Bool.false_eq_true, if_false, hheld', hheld'', List.find?_nil, ite_self]
  rfl

theorem holdAt_lane (g : Group) (r : Run) (gd : Guard) (L : Nat) : (g.holdAt r gd).lane L
    = if L ∈ below 32 g.runs then
        if L ∈ g.active gd then { g.lane L with hold := .segEnd, mid := false }
        else { g.lane L with pc := r.next, mid := false }
      else g.lane L := by
  have h := mapLanes_lane g (below 32 g.runs) (fun L x =>
    if (g.active gd).contains L then { x with hold := .segEnd, mid := false } else { x with pc := r.next, mid := false }) L
    (below_nodup _ _)
  refine Eq.trans h ?_
  simp only [List.contains_iff_mem]

/-- A hold changes where a lane is, and no more. -/
theorem holding_lane (s : State) (r : Run) (gd : Guard) (h : HeldAt) (L : Nat) :
    ∃ pc hold mid, (s.holding r gd h).g.lane L = { s.g.lane L with pc := pc, hold := hold, mid := mid } := by
  have e : (s.holding r gd h).g.lane L = (s.g.holdAt r gd).lane L := rfl
  rw [e, holdAt_lane]
  split
  · split <;> exact ⟨_, _, _, rfl⟩
  · exact ⟨_, _, _, rfl⟩

theorem holding_lane_active (r : Run) (h : HeldAt) {L : Nat} (hL : L ∈ s.g.active gd) :
    (s.holding r gd h).g.lane L = { s.g.lane L with hold := .segEnd, mid := false } := by
  have e : (s.holding r gd h).g.lane L = (s.g.holdAt r gd).lane L := rfl
  obtain ⟨hlt, hruns⟩ := mem_below.mp hL
  rw [e, holdAt_lane, if_pos (mem_below.mpr ⟨hlt, (Bool.and_eq_true_iff.mp hruns).1⟩), if_pos hL]

theorem holding_isLive (s : State) (r : Run) (gd : Guard) (h : HeldAt) (L : Nat) :
    ((s.holding r gd h).g.lane L).isLive = (s.g.lane L).isLive := by
  obtain ⟨_, _, _, e⟩ := holding_lane s r gd h L
  rw [e]
  rfl

theorem holding_quadLive (s : State) (r : Run) (gd : Guard) (h : HeldAt) (q : Nat) :
    (s.holding r gd h).g.quadLive q = s.g.quadLive q :=
  List.filter_congr fun L _ => holding_isLive s r gd h L

theorem holding_liveQuads (s : State) (r : Run) (gd : Guard) (h : HeldAt) :
    (s.holding r gd h).g.liveQuads = s.g.liveQuads := by
  simp only [Group.liveQuads, holding_quadLive]

theorem holding_inYield (s : State) (r : Run) (gd : Guard) (h : HeldAt) :
    (s.holding r gd h).g.inYield = s.g.inYield := by
  have hlane : ∀ L, (((s.holding r gd h).g.lane L).isLive && ((s.holding r gd h).g.lane L).ypc.isSome)
      = ((s.g.lane L).isLive && (s.g.lane L).ypc.isSome) := fun L => by
    obtain ⟨_, _, _, e⟩ := holding_lane s r gd h L
    rw [e]
    rfl
  simp only [Group.inYield, hlane]

theorem holding_arrived (hall : s.AllActive gd r) (h : HeldAt) (parkY : Bool) {q : Nat} (hq : q < 8) :
    (s.holding r gd h).g.arrived r.pc parkY q = !(s.g.quadLive q).isEmpty := by
  obtain ⟨-, -, -, -, hact⟩ := hall
  have hlanes : (s.g.quadLive q).all ((s.holding r gd h).g.arrivedLane r.pc parkY) = true := by
    refine List.all_eq_true.mpr fun L hL => ?_
    obtain ⟨hL4, hlive⟩ := List.mem_filter.mp hL
    have hlt : L / 4 = q := mem_quadLanes.mp hL4
    obtain ⟨hin, hpc⟩ := hact L (by omega) hlive
    unfold Group.arrivedLane
    rw [holding_lane_active r h hin]
    simp [hpc]
  unfold Group.arrived
  rw [holding_quadLive, hlanes, Bool.and_true]

theorem heldBy_of_singleton {g : Group} (hg : g.held = [h]) (q : Nat) : g.heldBy h q = true := by
  unfold Group.heldBy
  rw [hg]
  cases hc : [h].find? (fun x => x.pc == h.pc && (g.quadLive q).any x.mask.getLsbD) with
  | none => rfl
  | some x => rw [List.mem_singleton.mp (List.mem_of_find?_eq_some hc)]; exact beq_self_eq_true h

/-- The quads decided are those that hold a thread. -/
theorem holding_decided (hall : s.AllActive gd r) (h : HeldAt) (parkY : Bool) :
    ((List.range 8).filter ((s.holding r gd h).g.arrived r.pc parkY)).filter ((s.holding r gd h).g.heldBy h) = s.g.liveQuads := by
  rw [List.filter_eq_self.mpr fun q _ => heldBy_of_singleton rfl q]
  exact List.filter_congr fun q hq => holding_arrived hall h parkY (List.mem_range.mp hq)

theorem isLive_of_runs {g : Group} {L : Nat} (hL : g.runs L = true) : (g.lane L).isLive = true := by
  unfold Group.runs at hL
  split at hL
  · simp only [Bool.and_eq_true] at hL; exact hL.1.2
  · cases hL

theorem liveQuads_ne_nil (hact : s.g.active gd ≠ []) : s.g.liveQuads ≠ [] := by
  obtain ⟨L, hL⟩ := List.exists_mem_of_ne_nil _ hact
  obtain ⟨hlt, hruns⟩ := mem_below.mp hL
  exact List.ne_nil_of_mem (a := L / 4) (mem_liveQuads.mpr ⟨by omega,
    List.ne_nil_of_mem (a := L) (List.mem_filter.mpr ⟨mem_quadLanes.mpr rfl,
      isLive_of_runs (Bool.and_eq_true_iff.mp hruns).1⟩)⟩)

/-- Where the verdict on the lanes of the whole group is a park, its quads park. -/
theorem holding_parks (hissues : s.Issues r i) (hall : s.AllActive gd r) (hact : s.g.active gd ≠ [])
    (hword : h.word = r.words.getD r.wix 0) (hpc : h.pc = r.pc)
    (hv : (s.holding r gd h).verdict h i = .park p)
    (hlocal : ∀ f, i = .tbwait f → ∃ x, (s.holding r gd h).barrierAt f.a.toNat .rmw = .ok x ∧ x.ep = none) :
    (s.holding r gd h).decideHeld h (List.range 8) = (s.holding r gd h).parkQuads s.g.liveQuads p r.pc h.wix := by
  unfold State.decideHeld
  rw [hword, hissues.2]
  dsimp only
  simp only [ite_self, hpc, holding_decided hall, hv, List.isEmpty_iff, liveQuads_ne_nil hact, if_false]
  split
  next f =>
    obtain ⟨x, hx, hep⟩ := hlocal f rfl
    rw [hx]
    simp only [State.askBarrier, hep]
  next => rfl

end Sys2Proof.Machine
end

section
/-! Quads that park under a plan (R137, R260, R261): their records hold the plan, and their lanes resume where it says. -/

namespace Sys2Proof.Machine

variable {s u t v : State} {i : Instr} {gd : Guard} {r : Run} {p : ParkPlan} {h : HeldAt} {n : Nat} {wakes : Prop}
  {lpc : Nat → W32} {P Q : Rec → Prop}

/-- A record has what a plan asks of it. -/
structure Rec.Follows (p : ParkPlan) (x : Rec) : Prop where
  kind : x.kind = p.kind
  wkind : x.wkind = p.wkind
  wkey0 : x.wkey0 = p.wkey0
  wkey1 : x.wkey1 = p.wkey1
  evSerial : x.evSerial = p.evSerial
  dv : x.dv = p.dv
  dreg : x.dreg = p.dreg
  fired : x.fired = (p.fired || p.wkind == 0)

/-- Where a lane resumes under a plan. -/
def ParkPlan.resumes (p : ParkPlan) (g : Group) (L : Nat) : W32 := p.next.getD (g.laneState (decide (3 ≤ p.kind)) L).2

theorem Parks.imp (hP : ∀ x, P x → Q x) (hp : Parks wakes s u t n lpc P) : Parks wakes s u t n lpc Q := by
  obtain ⟨hg, ho, ha, hos, hall⟩ := hp
  refine ⟨hg, ho, ha, hos, fun q hq hl => ?_⟩
  obtain ⟨x, hx, hPx, hrest⟩ := hall q hq hl
  exact ⟨x, hx, hP x hPx, hrest⟩

theorem makeRec_lpcs (s : State) (g : Group) (q : Nat) (p : ParkPlan) (id : W32) {j : Nat} (hj : j < 4)
    (hl : (g.lane (4 * q + j)).isLive = true) : (s.makeRec g q p id).lpcs.getD j 0 = p.resumes g (4 * q + j) := by
  obtain ⟨-, hnone, -, -⟩ := makeRec_of_live s g q p id hj hl
  cases hn : p.next with
  | none => rw [hnone hn, ParkPlan.resumes, hn]; rfl
  | some pc =>
    obtain ⟨kind, nlive, next, wkind, wkey0, wkey1, evSerial, dv, dreg, fired, dval⟩ := p
    obtain rfl : next = some pc := hn
    have hget := quadLanes_map_getD (fun L => if (g.lane L).isLive || (g.lane L).isHelper then
      (if (g.lane L).isLive then pc else
        match (quadLanes q).filter (fun L => (g.lane L).isLive) with
        | _ :: _ => pc
        | [] => 0) else 0) 0 q hj
    rw [hl, Bool.true_or, if_pos rfl, if_pos rfl] at hget
    exact hget

/-- The records of the quads of the group under a plan. -/
def State.quadRecs (s : State) (p : ParkPlan) : List (Nat × Rec) := s.g.liveQuads.map (fun q => (q, s.makeRec s.g q p 0))

theorem mem_quadRecs {x : Nat × Rec} : x ∈ s.quadRecs p ↔ x.1 ∈ s.g.liveQuads ∧ x.2 = s.makeRec s.g x.1 p 0 := by
  simp only [State.quadRecs, List.mem_map, Prod.ext_iff]
  constructor
  · rintro ⟨q, hq, rfl, hr⟩; exact ⟨hq, hr.symm⟩
  · rintro ⟨hq, hr⟩; exact ⟨x.1, hq, rfl, hr.symm⟩

theorem quadRecs_quads (s : State) (p : ParkPlan) : (s.quadRecs p).map Prod.fst = s.g.liveQuads := by
  simp [State.quadRecs, Function.comp_def]

theorem quadRecs_written (hroom : s.ParkRoom p.nlive) : (s.writeRecs false (s.quadRecs p)).2 = [] := by
  refine writeRecs_of_room (asid := s.g.asid) (n := recUnits p.nlive) (fun x hx => ?_) ?_
  · rw [(mem_quadRecs.mp hx).2]; exact ⟨rfl, rfl⟩
  · rw [← List.length_map (f := Prod.fst), quadRecs_quads]
    exact hroom

/-- Where the trace of parks is off, a quad whose turn has not come finds its registers as they were. -/
theorem recordReg_recording {done : List (Nat × Rec)} {L : Nat} (hrec : Recording done s v)
    (hquiet : ∀ x ∈ done, s.quietFor x.2) (hL : L / 4 ∉ done.map Prod.fst) (m : Nat) : v.recordReg L m = s.recordReg L m := by
  obtain ⟨hmem, hhier, -⟩ := hrec.quiet hquiet
  have hctx (a : Nat) : v.ctx a = s.ctx a := by rw [State.ctx, hrec.ctxs]; rfl
  obtain ⟨lanes, hg⟩ := hrec.group
  have hlane : v.g.lane L = s.g.lane L := by rw [hrec.lane, if_neg hL]
  have haddr : SameAddressing s.g.asid s v := ⟨hmem, hhier, hrec.ident, hrec.endpoint, by rw [hctx], by rw [hctx], by rw [hctx]⟩
  exact haddr.recordReg (by rw [hg]) (by rw [hg]) (by rw [hlane]) (by rw [hlane]) (by rw [hlane]) m

/-- Once the records of its quads are written no lane of the group is LIVE. -/
theorem recording_empty {done : List (Nat × Rec)} (hrec : Recording done s v) (hdone : done.map Prod.fst = s.g.liveQuads) :
    v.g.empty = true := by
  simp only [Group.empty, Group.live, List.isEmpty_iff, List.eq_nil_iff_forall_not_mem, mem_below, not_and, Bool.not_eq_true]
  intro L hL
  rw [hrec.lane, hdone]
  split
  next => rfl
  next hq =>
    by_contra hlive
    refine hq (mem_liveQuads.mpr ⟨by omega, List.ne_nil_of_mem (a := L) (List.mem_filter.mpr ⟨mem_quadLanes_self L, ?_⟩)⟩)
    simpa [Lane.isLive] using hlive

/-- What a record holds of its quad, once it is written. -/
theorem atWrite_makeRec {q j m : Nat} (hj : j < 4) (hl : (s.g.lane (4 * q + j)).isLive = true) (hm : m < p.nlive)
    (hbound : v.g.bound = s.g.bound) (hreg : m < s.g.bound ∨ v.recordReg (4 * q + j) m = s.recordReg (4 * q + j) m) :
    (v.atWrite q (s.makeRec s.g q p 0)).regs.get 0 (4 * m + j) = s.recordReg (4 * q + j) m := by
  obtain ⟨-, -, -, hregs⟩ := makeRec_of_live s s.g q p 0 hj hl
  have hlive : ((s.makeRec s.g q p 0).live.getLsbD j || (s.makeRec s.g q p 0).helper.getLsbD j) = true := by
    rw [makeRec_live s s.g q p 0 hj, hl, Bool.true_or]
  rw [atWrite_regs _ _ _ hj, hbound]
  by_cases hb : m < s.g.bound
  · rw [if_neg (by omega), recordReg_of_lt hb]
    exact hregs m hm
  · rw [if_pos ⟨by omega, hm, hlive⟩]
    exact hreg.resolve_left hb

/-- Every quad of a group parks under a plan, where the pool has room. -/
theorem parkQuads_parks (pc : W32) (wix : Nat) (hgid : s.g.gid ≠ 0) (hstall : s.g.parkStall = none)
    (hroom : s.ParkRoom p.nlive) :
    Parks False s s (s.parkQuads s.g.liveQuads p pc wix) p.nlive (p.resumes s.g) (Rec.Follows p) := by
  have hpark : s.parkQuads s.g.liveQuads p pc wix = s.park (s.quadRecs p) false pc wix := rfl
  have hw := quadRecs_written hroom
  obtain ⟨hrec, hall⟩ := writeRecs_recording hw
  obtain ⟨hlisted, -, hoff⟩ := park_of_written (pc := pc) (wix := wix) hw fun w hw => by rw [hstall] at hw; cases hw
  rw [hpark]
  have hothers : (s.park (s.quadRecs p) false pc wix).others = s.others := hlisted.others.trans hrec.others
  refine ⟨hoff (recording_empty hrec (quadRecs_quads s p)) hgid, fun _ => hothers, hlisted.acc.trans hrec.acc, by rw [hothers],
    fun q hq hql => ?_⟩
  have hmem : (q, s.makeRec s.g q p 0) ∈ s.quadRecs p := mem_quadRecs.mpr ⟨mem_liveQuads.mpr ⟨hq, hql⟩, rfl⟩
  obtain ⟨done, rest, v, pl, rid, hsplit, hv, hin⟩ := hall _ hmem
  obtain ⟨a, d, hr⟩ := hlisted.records _ hin
  obtain ⟨lanes, hg⟩ := hv.group
  refine ⟨_, hr, ⟨rfl, rfl, rfl, rfl, rfl, rfl, rfl, rfl⟩, rfl, rfl, rfl, rfl, hv.now, fun j hj =>
    ⟨makeRec_live s s.g q p 0 hj, fun hl => ?_⟩⟩
  obtain ⟨htid, -, hmr, -⟩ := makeRec_of_live s s.g q p 0 hj hl
  refine ⟨htid, makeRec_lpcs s s.g q p 0 hj hl, hmr, fun m hm hreg =>
    atWrite_makeRec hj hl hm (by rw [hg]) (hreg.imp_right fun hquiet => ?_)⟩
  have hnodup : (done.map Prod.fst ++ q :: rest.map Prod.fst).Nodup := by
    rw [show done.map Prod.fst ++ q :: rest.map Prod.fst = s.g.liveQuads by rw [← quadRecs_quads s p, hsplit, List.map_append]; rfl]
    exact below_nodup _ _
  refine recordReg_recording hv (fun x hx => ?_) ?_ m
  · rw [(mem_quadRecs.mp (hsplit ▸ List.mem_append_left _ hx)).2]; exact hquiet
  · rw [show (4 * q + j) / 4 = q by omega]
    exact fun hq => List.disjoint_of_nodup_append hnodup hq (List.mem_cons_self ..)

/-! Parks of held lanes -/

/-- Where the lanes of the whole group resume when a segment-ending word parks them. -/
def ParkPlan.resumesAt (p : ParkPlan) (g : Group) (pc : W32) (L : Nat) : W32 :=
  p.next.getD ((if 3 ≤ p.kind then (g.lane L).ypc else none).getD pc)

theorem holding_resumes (hall : s.AllActive gd r) (h : HeldAt) (p : ParkPlan) {L : Nat} (hL : L < 32)
    (hlive : (s.g.lane L).isLive = true) : p.resumes (s.holding r gd h).g L = p.resumesAt s.g r.pc L := by
  obtain ⟨-, htrap, -, -, hact⟩ := hall
  obtain ⟨hin, hpc⟩ := hact L hL hlive
  have htrap' : (s.holding r gd h).g.trap = none := htrap
  unfold ParkPlan.resumes ParkPlan.resumesAt Group.laneState
  rw [htrap', holding_lane_active r h hin]
  simp only [decide_eq_true_eq, hpc]
  by_cases hk : 3 ≤ p.kind
  · simp only [hk, if_true]
    cases (s.g.lane L).ypc <;> rfl
  · simp only [hk, if_false]
    rfl

theorem holding_recordReg (s : State) (r : Run) (gd : Guard) (h : HeldAt) (L m : Nat) :
    (s.holding r gd h).recordReg L m = s.recordReg L m := by
  obtain ⟨_, _, _, e⟩ := holding_lane s r gd h L
  have haddr : SameAddressing s.g.asid s (s.holding r gd h) := ⟨rfl, rfl, rfl, rfl, rfl, rfl, rfl⟩
  exact haddr.recordReg rfl rfl (by rw [e]) (by rw [e]) (by rw [e]) m

theorem Parks.of_holding (hall : s.AllActive gd r)
    (hp : Parks wakes (s.holding r gd h) (s.holding r gd h) t n (p.resumes (s.holding r gd h).g) P) :
    Parks wakes s s t n (p.resumesAt s.g r.pc) P := by
  obtain ⟨hg, ho, ha, hos, hrecs⟩ := hp
  refine ⟨hg, ho, ha, hos, fun q hq hl => ?_⟩
  obtain ⟨x, hx, hP, hasid, hlaunch, hn, hd, ht, hlanes⟩ := hrecs q hq (by rw [holding_quadLive]; exact hl)
  refine ⟨x, hx, hP, hasid, hlaunch, hn, hd, ht, fun j hj => ?_⟩
  obtain ⟨hlv, hlane⟩ := hlanes j hj
  rw [holding_isLive] at hlv hlane
  refine ⟨hlv, fun hlive => ?_⟩
  obtain ⟨htid, hlpc, hmr, hregs⟩ := hlane hlive
  rw [holding_resumes hall h p (by omega) hlive] at hlpc
  obtain ⟨_, _, _, e⟩ := holding_lane s r gd h (4 * q + j)
  rw [e] at htid hmr
  exact ⟨htid, hlpc, hmr, fun m hm hb => (hregs m hm hb).trans (holding_recordReg s r gd h _ m)⟩

/-- A segment-ending word that parks every LIVE lane of its group. -/
theorem segEnd_parks (fresh : Bool) (c : Capture) (hissues : s.Issues r i) (hall : s.AllActive gd r) (hact : s.g.active gd ≠ [])
    (hroom : s.ParkRoom p.nlive) (hv : ∀ h m, h = HeldAt.first r c m → (s.holding r gd h).verdict h i = .park p)
    (hlocal : ∀ h f, i = .tbwait f → ∃ x, (s.holding r gd h).barrierAt f.a.toNat .rmw = .ok x ∧ x.ep = none) :
    ∃ t, s.segEnd gd fresh c = .stop t ∧ Parks False s s t p.nlive (p.resumesAt s.g r.pc) (Rec.Follows p) := by
  obtain ⟨hgid, htrap, hheld, hstall, -⟩ := id hall
  obtain ⟨h, hh⟩ : ∃ h, h = HeldAt.first r c (maskOf 32 (s.g.active gd)) := ⟨_, rfl⟩
  have hroom' : (s.holding r gd h).ParkRoom p.nlive := by
    rw [State.ParkRoom, holding_liveQuads]; exact hroom
  have hparks := parkQuads_parks r.pc h.wix (s := s.holding r gd h) hgid hstall hroom'
  rw [holding_liveQuads] at hparks
  have htrim : ∀ x : State, x.g = Group.off → x.trim = x := fun x hx => by
    unfold State.trim; rw [hx]; rfl
  rw [segEnd_eq hissues.1 htrap hheld, ← hh,
    holding_parks hissues hall hact (by rw [hh]; rfl) (by rw [hh]; rfl) (hv h _ hh) (hlocal h), htrim _ hparks.1]
  exact ⟨_, rfl, hparks.of_holding hall⟩

end Sys2Proof.Machine
end

section
/-! Words that park every LIVE lane of their group (R137, R138, R162, R170): what their verdict is, and the end of a barrier
operation after the group has left (R166). -/

namespace Sys2Proof.Machine

variable {s u t : State} {i : Instr} {gd : Guard} {r : Run} {p : ParkPlan} {h : HeldAt} {c : Capture} {x : Piece} {b : Barrier} {n : Nat}
  {wakes : Prop} {lpc : Nat → W32} {P : Rec → Prop}

/-- A state that differs in memory, in the tags of the hierarchy and in the keep latch only. -/
def Opens (s u : State) : Prop := ∃ m h kp, u = { s with mem := m, hier := h, g := s.g.setKeep kp }

theorem opened_opens (hr : s.Ready i gd) : Opens s (s.opened i gd) := by
  obtain ⟨s1, kp, -, ⟨m, h, e⟩, hs⟩ := opened_eq hr
  exact ⟨m, h, kp, by rw [hs, e]; rfl⟩

theorem Opens.touch (ho : Opens s u) (asid : Nat) (wr : Bool) (x : Piece) : Opens s (u.touch asid wr x) := by
  obtain ⟨m, h, kp, rfl⟩ := ho
  obtain ⟨m', h', e⟩ := touch_eq { s with mem := m, hier := h, g := s.g.setKeep kp } asid wr x
  exact ⟨m', h', kp, e⟩

/-- A segment-ending word, its operands being there, parks every LIVE lane of its group. -/
theorem opens_segEnd_parks (fresh : Bool) (c : Capture) (ho : Opens s u) (hissues : s.Issues r i) (hall : s.AllActive gd r)
    (hr : s.Ready i gd) (hroom : s.ParkRoom p.nlive)
    (hv : ∀ h m, h = HeldAt.first r c m → (u.holding r gd h).verdict h i = .park p)
    (hlocal : ∀ h f, i = .tbwait f → ∃ x, (u.holding r gd h).barrierAt f.a.toNat .rmw = .ok x ∧ x.ep = none) :
    ∃ t, u.segEnd gd fresh c = .stop t ∧ Parks False s u t p.nlive (p.resumesAt s.g r.pc) (Rec.Follows p) := by
  obtain ⟨m, h, kp, rfl⟩ := ho
  exact segEnd_parks (s := { s with mem := m, hier := h, g := s.g.setKeep kp }) fresh c hissues hall hr.1.2 hroom hv hlocal

/-- A word whose group has left its core fills no backing slot. -/
theorem word_parks {body : State → Res} (hexec : exec i s = s.word i gd body) (hr : s.Ready i gd) (hgid : s.g.gid ≠ 0)
    (hbody : body (s.opened i gd) = .stop t) (hp : Parks wakes s u t n lpc P) :
    Completes i s (fun t => Parks wakes s u t n lpc P) := by
  refine ⟨t, ?_, hp⟩
  have hgone : ¬ t.g.gid = s.g.gid := by rw [hp.1]; exact fun h => hgid h.symm
  rw [hexec, word_opened body hr, hbody]
  simp only [Res.saved, if_neg hgone]
  rfl

/-- PARK, YIELD and AWAIT where their verdict is a park. -/
theorem segEnd_word_parks {body : State → Res} (hexec : exec i s = s.word i gd body)
    (hbody : ∀ u, Opens s u → body u = u.segEnd gd false c) (hnot : ∀ f, i ≠ .tbwait f)
    (hv : ∀ u h m, Opens s u → h = HeldAt.first r c m → (u.holding r gd h).verdict h i = .park p)
    (hP : ∀ y, Rec.Follows p y → P y) (hr : s.Ready i gd) (hissues : s.Issues r i) (hall : s.AllActive gd r)
    (hroom : s.ParkRoom p.nlive) :
    Completes i s (fun t => Parks False s (s.opened i gd) t p.nlive (p.resumesAt s.g r.pc) P) := by
  have ho := opened_opens hr
  obtain ⟨t, ht, hp⟩ := opens_segEnd_parks false c ho hissues hall hr hroom (fun h m => hv _ h m ho)
    fun _ f hf => absurd hf (hnot f)
  exact word_parks hexec hr hall.1 ((hbody _ ho).trans ht) (hp.imp hP)

/-! PARK (R137) -/

/-- What PARK captures when it first holds a lane. -/
def parkCapture (f : FmtE) (s : State) : Capture :=
  { val := s.g.wr f.a.toNat, deadline := s.now + (s.g.wr f.a.toNat).toNat, waiter := 0, served := false }

/-- The effects of PARK, its operands being there. -/
def parkBody (f : FmtE) (s : State) : Res :=
  if s.g.trap.isNone ∧ f.mod = 3 ∧ 2 ^ 24 ≤ (s.g.wr f.a.toNat).toNat then .trap s { cause := 0x22, detail := 0, lane := none }
  else s.segEnd f.guard false (parkCapture f s)

theorem exec_park_eq (f : FmtE) (s : State) : exec (.park f) s = s.word (.park f) f.guard (parkBody f) := rfl

theorem parkBody_eq {f : FmtE} (hok : f.mod = 3 → (s.g.wr f.a.toNat).toNat < 2 ^ 24) (ho : Opens s u) :
    parkBody f u = u.segEnd f.guard false (parkCapture f s) := by
  obtain ⟨m, h, kp, rfl⟩ := ho
  exact if_neg fun hbad => Nat.not_le_of_lt (hok hbad.2.1) hbad.2.2

theorem park_parks {f : FmtE} (hok : f.mod = 3 → (s.g.wr f.a.toNat).toNat < 2 ^ 24)
    (hv : ∀ u h m, Opens s u → h = HeldAt.first r (parkCapture f s) m → (u.holding r f.guard h).verdict h (.park f) = .park p)
    (hP : ∀ y, Rec.Follows p y → P y) (hr : s.Ready (.park f) f.guard) (hissues : s.Issues r (.park f))
    (hall : s.AllActive f.guard r) (hroom : s.ParkRoom p.nlive) :
    Completes (.park f) s (fun t => Parks False s (s.opened (.park f) f.guard) t p.nlive (p.resumesAt s.g r.pc) P) :=
  segEnd_word_parks (exec_park_eq f s) (fun _ => parkBody_eq hok) (fun _ h => by cases h) hv hP hr hissues hall hroom

theorem opens_inYield (ho : Opens s u) : (u.holding r gd h).g.inYield = s.g.inYield := by
  obtain ⟨_, _, _, rfl⟩ := ho
  exact holding_inYield _ r gd h

/-! AWAIT (R162) -/

/-- The plan of an AWAIT of a pending token. -/
def awaitPlan (s : State) (f : FmtE) (next : W32) : ParkPlan :=
  { ParkPlan.now 0 (f.imm.toNat % 512) (some next) with
    wkind := 1, wkey0 := s.tokenKey (s.g.pend.get 0 f.a.toNat), wkey1 := w64 f.a.toNat
    evSerial := s.g.pend.get 0 f.a.toNat, dv := true, dreg := f.dst.toNat, fired := false }

theorem await_verdict {f : FmtE} (hpend : s.g.pend.get 0 f.a.toNat ≠ 0) (ho : Opens s u) :
    (u.holding r gd h).verdict h (.await f) = .park (awaitPlan s f h.next) := by
  have hpend' : (u.holding r gd h).g.pend = s.g.pend := by obtain ⟨_, _, _, rfl⟩ := ho; rfl
  have htoks : (u.holding r gd h).toks = s.toks := by obtain ⟨_, _, _, rfl⟩ := ho; rfl
  have hkey : ∀ ser, (u.holding r gd h).tokenKey ser = s.tokenKey ser := fun ser => by rw [State.tokenKey, htoks]; rfl
  simp only [State.verdict, hpend', hpend, hkey, if_false]
  rfl

/-! TBWAIT (R166, R170) -/

/-- A state with other lanes, held entries and counts of the issuing group. -/
def State.regrouped (s : State) (lanes : SMap Lane) (held : List HeldAt) (issued : Nat) (remotes : List RemoteWait)
    (parts : SMap Part) : State :=
  { s with g := { s.g with lanes := lanes, held := held, run := none, keep := none, issued := issued, stall := none }
           remotes := remotes, parts := parts }

theorem holding_eq (s : State) (r : Run) (gd : Guard) (h : HeldAt) :
    ∃ lanes issued remotes parts, s.holding r gd h = s.regrouped lanes [h] issued remotes parts := ⟨_, _, _, _, rfl⟩

section
variable (s : State) (lanes : SMap Lane) (held : List HeldAt) (issued : Nat) (remotes : List RemoteWait) (parts : SMap Part)

theorem regrouped_lookup (asid va : Nat) :
    (s.regrouped lanes held issued remotes parts).lookup asid va = s.lookup asid va := by
  have haddr : SameAddressing asid s (s.regrouped lanes held issued remotes parts) := ⟨rfl, rfl, rfl, rfl, rfl, rfl, rfl⟩
  unfold State.lookup
  rw [haddr.translate]
  rfl

theorem regrouped_checkPages (asid : Nat) (tid : W32) (acc : Acc) (pl : Place) (n : Nat) :
    (s.regrouped lanes held issued remotes parts).checkPages asid tid acc pl n = s.checkPages asid tid acc pl n := by
  have hruns : (s.regrouped lanes held issued remotes parts).runsOf tid pl n = s.runsOf tid pl n := rfl
  have hwalk (l : List (Nat × Nat)) : (s.regrouped lanes held issued remotes parts).withWalk asid l = s.withWalk asid l := by
    simp only [State.withWalk, regrouped_lookup]
  have hpoison (ps : List Piece) : (s.regrouped lanes held issued remotes parts).poisonOk ps = s.poisonOk ps := rfl
  unfold State.checkPages
  cases pl <;> simp only [hpoison, hruns, hwalk]

theorem regrouped_barrierAt (n : Nat) (acc : Acc) :
    (s.regrouped lanes held issued remotes parts).barrierAt n acc = s.barrierAt n acc := by
  have haddr : (s.regrouped lanes held issued remotes parts).uniformAddr n = s.uniformAddr n := rfl
  have hdecode (a : Nat) : (s.regrouped lanes held issued remotes parts).decode a = s.decode a := rfl
  have hasid : (s.regrouped lanes held issued remotes parts).g.asid = s.g.asid := rfl
  simp only [State.barrierAt, haddr, State.checkAccess, State.checkEnds, hdecode, hasid, regrouped_checkPages]

theorem regrouped_barrierRead (x : Piece) :
    (s.regrouped lanes held issued remotes parts).barrierRead x = s.barrierRead x := by
  have hbytes (die loc n : Nat) : (s.regrouped lanes held issued remotes parts).bytesAt die loc n = s.bytesAt die loc n := by
    induction n generalizing loc with
    | zero => rfl
    | succ n ih => rw [State.bytesAt, State.bytesAt, ih]; rfl
  have hcore : (s.regrouped lanes held issued remotes parts).g.core = s.g.core := rfl
  simp only [State.barrierRead, hbytes, hcore]

end

theorem holding_barrierAt (s : State) (r : Run) (gd : Guard) (h : HeldAt) (n : Nat) (acc : Acc) :
    (s.holding r gd h).barrierAt n acc = s.barrierAt n acc := by
  obtain ⟨_, _, _, _, e⟩ := holding_eq s r gd h
  rw [e]
  exact regrouped_barrierAt ..

theorem holding_barrierRead (s : State) (r : Run) (gd : Guard) (h : HeldAt) (x : Piece) :
    (s.holding r gd h).barrierRead x = s.barrierRead x := by
  obtain ⟨_, _, _, _, e⟩ := holding_eq s r gd h
  rw [e]
  exact regrouped_barrierRead ..

/-- The plan of a TBWAIT on a barrier at a piece, of a phase that stands. -/
def tbwaitPlan (f : FmtE) (next : W32) (x : Piece) (phase : Nat) : ParkPlan :=
  { ParkPlan.now 0 (f.imm.toNat % 512) (some next) with
    wkind := 2, wkey0 := (barrierKey x phase).1, wkey1 := (barrierKey x phase).2, fired := false }

theorem tbwait_verdict {f : FmtE} (hx : s.barrierAt f.a.toNat .rmw = .ok x) (hep : x.ep = none)
    (hphase : (s.barrierRead x).phase = (s.g.wr f.b.toNat).toNat % 16) :
    (s.holding r gd h).verdict h (.tbwait f) = .park (tbwaitPlan f h.next x ((s.g.wr f.b.toNat).toNat % 16)) := by
  have hwr : (s.holding r gd h).g.wr f.b.toNat = s.g.wr f.b.toNat := rfl
  unfold State.verdict
  simp only [holding_barrierAt, hx, hep, holding_barrierRead, hwr, hphase, ne_eq, not_true_eq_false, if_false]
  rfl

/-- The counts of a barrier stand at zero: the end of an operation completes its phase (R166). -/
def Barrier.spent (b : Barrier) : Prop := b.arrInit ≠ 0 ∧ b.arr = 0 ∧ b.sect = 0

/-- The effects of TBWAIT at a local barrier, its operands being there. -/
def tbwaitBody (f : FmtE) (s : State) (x : Piece) (b : Barrier) : Res :=
  match s.segEnd f.guard true { Capture.zero with val := w32 b.phase } with
  | .stop t => .stop (t.endBarrierOp s.g.core s.g.asid x b)
  | r => r

/-- The records that a change of a barrier's phase wakes (R264). -/
def wokenBy (x : Piece) (phase : Nat) (y : Rec) : Bool :=
  y.wkind == 2 && y.wkey0 == (barrierKey x 0).1 && y.wkey1.toNat / 2 ^ 20 == (barrierKey x 0).2.toNat / 2 ^ 20
    && bitsOf y.wkey1.toNat 16 4 == phase

theorem bitsOf_key {ph hi : Nat} (hph : ph < 16) (hhi : hi < 2 ^ 20) :
    (w64 (ph * 2 ^ 16 + hi * 2 ^ 20)).toNat / 2 ^ 20 = hi ∧ bitsOf (w64 (ph * 2 ^ 16 + hi * 2 ^ 20)).toNat 16 4 = ph := by
  have hval : (w64 (ph * 2 ^ 16 + hi * 2 ^ 20)).toNat = ph * 2 ^ 16 + hi * 2 ^ 20 := by
    rw [w64, BitVec.toNat_ofNat]; omega
  rw [hval, bitsOf, Nat.shiftRight_eq_div_pow]
  omega

theorem wokenBy_key {x x' : Piece} {y : Rec} {ph : Nat} (hep : x.ep = none) (hep' : x'.ep = none) (hloc : x'.loc = x.loc)
    (hph : ph < 16) (hkind : y.wkind = 2) (h0 : y.wkey0 = (barrierKey x' ph).1) (h1 : y.wkey1 = (barrierKey x' ph).2) :
    wokenBy x ph y = true := by
  unfold wokenBy
  rw [hkind, h0, h1]
  simp only [barrierKey, hep, hep', hloc]
  split
  · obtain ⟨hhi, hbits⟩ := bitsOf_key hph (hi := 2) (by omega)
    obtain ⟨hhi0, -⟩ := bitsOf_key (ph := 0) (hi := 2) (by omega) (by omega)
    simp only [Nat.reducePow, Nat.reduceMul] at hhi hbits hhi0 ⊢
    simp [hhi, hbits, hhi0]
  · obtain ⟨hhi, hbits⟩ := bitsOf_key hph (hi := 0) (by omega)
    obtain ⟨hhi0, -⟩ := bitsOf_key (ph := 0) (hi := 0) (by omega) (by omega)
    simp only [Nat.reducePow, Nat.zero_mul, Nat.add_zero] at hhi hbits hhi0 ⊢
    simp [hhi, hbits, hhi0]

end Sys2Proof.Machine
end

section
/-! The end of a TBWAIT whose group has left (R166, R170): a phase whose counts stand at zero completes, and wakes the records
that wait for it. -/

namespace Sys2Proof.Machine

variable {s t u v : State} {i : Instr} {gd : Guard} {r : Run} {p : ParkPlan} {x x' : Piece} {b : Barrier} {n : Nat}
  {wakes : Prop} {lpc : Nat → W32} {P Q : Rec → Prop}

/-- What waking records leaves of the machine: each record is woken or as it was, and of the groups only what a
parking-stalled one has yet to write changes. -/
structure Waking (pr : Rec → Bool) (s t : State) : Prop where
  gone : s.g = Group.off → t.g = Group.off
  acc : t.acc = s.acc
  others : t.others.map (fun g => { g with parkStall := none }) = s.others.map (fun g => { g with parkStall := none })
  records : ∀ y ∈ s.records, ∃ val readyAt due, (y.woken pr val).binned readyAt due ∈ t.records

theorem tell_sameWork (s : State) (pr : Rec → Bool) (val : W32) : SameWork s (s.tell pr val) :=
  List.foldlRecOn (motive := SameWork s) _ _ ⟨rfl, rfl, rfl⟩ fun _ ht _ _ => ht.trans ⟨rfl, rfl, rfl⟩

theorem wake_waking (s : State) (pr : Rec → Bool) (val : W32) : Waking pr s (s.wake pr val) := by
  have htell := tell_sameWork (s.mapRecs (Rec.woken pr val)) pr val
  have hsettle := settle_listed ((s.mapRecs (Rec.woken pr val)).tell pr val)
  refine ⟨fun hg => ?_, hsettle.acc.trans htell.acc, ?_, fun y hy => ?_⟩
  · rw [show (s.wake pr val).g = (s.mapRecs (Rec.woken pr val)).g from (tell_kept _ _ _).1, State.mapRecs]
    show (match s.g.parkStall with
      | some p => _
      | none => s.g : Group) = _
    rw [hg]; rfl
  · rw [show (s.wake pr val).others = (s.mapRecs (Rec.woken pr val)).others from hsettle.others.trans htell.others]
    refine (List.map_map ..).trans (List.map_congr_left fun g _ => ?_)
    show ({ (match g.parkStall with
      | some p => _
      | none => g : Group) with parkStall := none } : Group) = _
    cases g.parkStall <;> rfl
  · obtain ⟨a, d, hin⟩ := hsettle.records (y.woken pr val) (htell.records ▸ List.mem_map_of_mem hy)
    exact ⟨val, a, d, hin⟩

theorem Waking.trans_kept {pr : Rec → Bool} (h : Waking pr s t) (hw : SameWork t u) (hg : SameGroup t u) : Waking pr s u :=
  ⟨fun e => Eq.trans hg (h.gone e), hw.acc.trans h.acc, by rw [hw.others]; exact h.others, by rw [hw.records]; exact h.records⟩

theorem phaseChanged_waking (s : State) (x : Piece) (ph : Nat) : Waking (wokenBy x ph) s (s.phaseChanged x (some ph)) := by
  unfold State.phaseChanged
  extract_lets k0 loc s1 hit
  have hwake : Waking (wokenBy x ph) s s1 := wake_waking s (wokenBy x ph) 0
  exact List.foldlRecOn (motive := Waking (wokenBy x ph) s) _ _ (hwake.trans_kept ⟨rfl, rfl, rfl⟩ rfl) fun _ ht _ _ =>
    ht.trans_kept ⟨rfl, rfl, rfl⟩ rfl

theorem endBarrierOp_spent {core asid : Nat} (hep : x.ep = none) (hb : b.spent) :
    ∃ bs, t.endBarrierOp core asid x b = (t.writeLocal core asid true [] x bs).phaseChanged x (some b.phase) := by
  have hcomplete : b.complete t.now
      = ({ b with phase := (b.phase + 1) % 16, arr := b.arrInit, last := w32 t.now }, some b.phase) := if_pos hb
  refine ⟨natBytes 16 (b.complete t.now).1.toNat, ?_⟩
  unfold State.endBarrierOp State.putBarrier
  rw [hep, hcomplete]
  rfl

theorem endBarrierOp_unspent {core asid : Nat} (hb : ¬ b.spent) : t.endBarrierOp core asid x b = t := by
  have hcomplete : b.complete t.now = (b, none) := if_neg hb
  unfold State.endBarrierOp
  rw [hcomplete]
  exact if_pos (Bool.or_true _)

theorem endBarrierOp_waking {core asid : Nat} (hep : x.ep = none) (hb : b.spent) :
    Waking (wokenBy x b.phase) t (t.endBarrierOp core asid x b) := by
  obtain ⟨bs, e⟩ := endBarrierOp_spent (t := t) (core := core) (asid := asid) hep hb
  have hstore := writeLocal_store t core asid true [] x bs
  obtain ⟨hgone, hacc, hothers, hrecs⟩ := phaseChanged_waking (t.writeLocal core asid true [] x bs) x b.phase
  rw [e]
  exact ⟨fun hg => hgone (Eq.trans hstore.sameGroup hg), hacc.trans hstore.sameWork.acc,
    hothers.trans (by rw [hstore.sameWork.others]), fun y hy => hrecs y (hstore.sameWork.records ▸ hy)⟩

/-- A woken record has changed in its event only. -/
theorem woken_eq (pr : Rec → Bool) (val : W32) (y : Rec) : ∃ fired dval, y.woken pr val = { y with fired := fired, dval := dval } := by
  unfold Rec.woken
  split
  · exact ⟨_, _, rfl⟩
  · exact ⟨_, _, rfl⟩

theorem woken_fired {pr : Rec → Bool} (val : W32) {y : Rec} (h : pr y = true) : (y.woken pr val).fired = true := by
  unfold Rec.woken
  cases hf : y.fired with
  | true => simpa using hf
  | false => simp [h]

/-- Parked records whose event has come at once. -/
theorem Parks.waking {pr : Rec → Bool} (hp : Parks False s u t n lpc P) (hw : Waking pr t v) (hwakes : wakes)
    (hQ : ∀ y val a d, P y → Q ((y.woken pr val).binned a d)) : Parks wakes s u v n lpc Q := by
  obtain ⟨hg, ho, hacc, hos, hall⟩ := hp
  refine ⟨hw.gone hg, fun h => absurd hwakes h, hw.acc.trans hacc, hw.others.trans hos, fun q hq hl => ?_⟩
  obtain ⟨y, hy, hPy, hasid, hlaunch, hn, hd, ht, hlanes⟩ := hall q hq hl
  obtain ⟨val, a, d, hin⟩ := hw.records y hy
  refine ⟨_, hin, hQ y val a d hPy, ?_⟩
  obtain ⟨_, _, e⟩ := woken_eq pr val y
  rw [e]
  exact ⟨hasid, hlaunch, hn, hd, ht, hlanes⟩

theorem Parks.unwoken (hp : Parks False s u t n lpc P) : Parks wakes s u t n lpc P := by
  obtain ⟨hg, ho, hrest⟩ := hp
  exact ⟨hg, fun _ => ho not_false, hrest⟩

end Sys2Proof.Machine
end

section
/-! Ends of segments: the obligation. -/

namespace Sys2Proof.Machine

variable {s : State} {i : Instr} {gd : Guard} {r : Run} {x : Piece}

/-- A barrier word on a local barrier that is there runs with the barrier as it stands (R166 to R169). -/
theorem barrierWord_local {reg : Nat} {live : Bool} (op : RemoteOp) (k : State → Piece → Barrier → Res)
    (hx : (s.opened i gd).barrierAt reg .rmw = .ok x) (hep : x.ep = none)
    (hlive : (s.opened i gd).liveTbar ((s.opened i gd).g.winOf reg) x = true) (hmoving : (s.opened i gd).moving x = false) :
    ∃ body, s.barrierWord i gd reg live false op k = s.word i gd body
      ∧ body (s.opened i gd) = k ((s.opened i gd).touch (s.opened i gd).g.asid true x) x
          (((s.opened i gd).touch (s.opened i gd).g.asid true x).barrierRead x) := by
  refine ⟨_, rfl, ?_⟩
  dsimp only
  simp only [hx, hep, hlive, hmoving, Bool.not_true, Bool.and_false, Bool.false_eq_true, if_false]

/-! The verdicts on PARK (R137) -/

section
variable {u : State} {f : FmtE} {h : HeldAt} (ho : Opens s u)
include ho

theorem park_verdict_now (hmod : f.mod = 0 ∨ (f.mod = 2 ∧ s.g.inYield = false)) :
    (u.holding r gd h).verdict h (.park f) = .park (ParkPlan.now 0 (f.imm.toNat % 512) (some h.next)) := by
  unfold State.verdict
  dsimp only
  rcases hmod with hmod | ⟨hmod, hyield⟩
  · rw [hmod]; rfl
  · rw [hmod, opens_inYield ho, hyield]; rfl

/-- The plan of PARK.Y in a yield handler. -/
theorem park_verdict_yield (hmod : f.mod = 2) (hyield : s.g.inYield = true) :
    (u.holding r gd h).verdict h (.park f) = .park (ParkPlan.now 3 (f.imm.toNat % 512) none) := by
  unfold State.verdict
  dsimp only
  rw [hmod, opens_inYield ho, hyield]; rfl

/-- The plan of PARK.time. -/
def timePlan (s : State) (f : FmtE) (next : W32) : ParkPlan :=
  { ParkPlan.now 0 (f.imm.toNat % 512) (some next) with
    wkind := 6, wkey0 := w64 (s.now + (s.g.wr f.a.toNat).toNat)
    fired := decide (s.now + (s.g.wr f.a.toNat).toNat ≤ s.now) }

theorem park_verdict_time {m : BitVec 32} (hmod : f.mod = 1) (hh : h = HeldAt.first r (parkCapture f s) m) :
    (u.holding r gd h).verdict h (.park f) = .park (timePlan s f r.next) := by
  have hnow : (u.holding r gd h).now = s.now := by obtain ⟨_, _, _, rfl⟩ := ho; rfl
  unfold State.verdict
  dsimp only
  rw [hmod, hnow, hh]; rfl

/-- The plan of PARK.flag. -/
def flagPlan (s : State) (f : FmtE) (next : W32) : ParkPlan :=
  { ParkPlan.now 0 (f.imm.toNat % 512) (some next) with
    wkind := 5, wkey0 := (s.g.wr f.a.toNat).zeroExtend 64, fired := s.flagDelivered (s.g.wr f.a.toNat) }

theorem park_verdict_flag {m : BitVec 32} (hmod : f.mod = 3) (hh : h = HeldAt.first r (parkCapture f s) m) :
    (u.holding r gd h).verdict h (.park f) = .park (flagPlan s f r.next) := by
  have hflag : (u.holding r gd h).flagDelivered h.val = s.flagDelivered h.val := by obtain ⟨_, _, _, rfl⟩ := ho; rfl
  unfold State.verdict
  dsimp only
  rw [hmod, hflag, hh]; rfl

end

/-! TBWAIT (R166, R170) -/

theorem exec_tbwait_eq (f : FmtE) (s : State) : exec (.tbwait f) s
    = s.barrierWord (.tbwait f) f.guard f.a.toNat true false (.barrier 3 0 0) (tbwaitBody f) := rfl

theorem tbwaitBody_eq {f : FmtE} {u t : State} {b : Barrier}
    (ht : u.segEnd f.guard true { Capture.zero with val := w32 b.phase } = .stop t) :
    tbwaitBody f u x b = .stop (t.endBarrierOp u.g.core u.g.asid x b) := by
  rw [tbwaitBody, ht]

/-- The state in which a TBWAIT reads its barrier. -/
def State.waitState (s : State) (f : FmtE) (x : Piece) : State :=
  (s.opened (.tbwait f) f.guard).touch s.g.asid true x

/-- A record of a TBWAIT for a phase of a barrier. -/
def Rec.waitsFor (x : Piece) (phase : Nat) (fires : Prop) (y : Rec) : Prop :=
  y.kind = 0 ∧ y.wkind = 2 ∧ (y.fired = true ↔ fires) ∧ (y.wkey0, y.wkey1) = barrierKey x phase

/-- What a parked record of a TBWAIT is after the end of the barrier operation, whether that wakes it or not. -/
theorem endBarrierOp_parks {f : FmtE} {s u t : State} {x x' : Piece} {b : Barrier} {n core asid ph : Nat} {lpc : Nat → W32} {next : W32}
    (hep : x.ep = none) (hep' : x'.ep = none) (hloc : x'.loc = x.loc) (hph : b.phase = ph) (hlt : ph < 16)
    (hp : Parks False s u t n lpc (Rec.Follows (tbwaitPlan f next x' ph))) :
    Parks b.spent s u (t.endBarrierOp core asid x b) n lpc (Rec.waitsFor x' ph b.spent) := by
  by_cases hspent : b.spent
  · refine hp.waking (endBarrierOp_waking hep hspent) hspent fun y val a d hy => ?_
    have hfired := woken_fired (pr := wokenBy x b.phase) val (hph ▸ wokenBy_key hep hep' hloc hlt hy.wkind hy.wkey0 hy.wkey1)
    obtain ⟨_, _, e⟩ := woken_eq (wokenBy x b.phase) val y
    rw [e] at hfired ⊢
    exact ⟨hy.kind, hy.wkind, ⟨fun _ => hspent, fun _ => hfired⟩, Prod.ext hy.wkey0 hy.wkey1⟩
  · rw [endBarrierOp_unspent hspent]
    refine hp.unwoken.imp fun y hy => ⟨hy.kind, hy.wkind, ⟨fun hf => ?_, fun h => absurd h hspent⟩, Prod.ext hy.wkey0 hy.wkey1⟩
    rw [hy.fired] at hf
    cases hf

/-- TBWAIT on a local barrier whose phase stands, where every LIVE lane issues it. -/
theorem tbwait_parks {f : FmtE} {x' : Piece} (hx : (s.opened (.tbwait f) f.guard).barrierAt f.a.toNat .rmw = .ok x) (hep : x.ep = none)
    (hlive : (s.opened (.tbwait f) f.guard).liveTbar (s.g.winOf f.a.toNat) x = true)
    (hmoving : (s.opened (.tbwait f) f.guard).moving x = false)
    (hx' : (s.waitState f x).barrierAt f.a.toNat .rmw = .ok x') (hep' : x'.ep = none) (hloc : x'.loc = x.loc)
    (hphase : ((s.waitState f x).barrierRead x).phase = (s.g.wr f.b.toNat).toNat % 16)
    (hr : s.Ready (.tbwait f) f.guard) (hissues : s.Issues r (.tbwait f)) (hall : s.AllActive f.guard r)
    (hroom : s.ParkRoom (f.imm.toNat % 512)) :
    Completes (.tbwait f) s (fun t => Parks ((s.waitState f x).barrierRead x).spent s (s.waitState f x) t (f.imm.toNat % 512)
      (fun _ => r.next)
      (Rec.waitsFor x' ((s.g.wr f.b.toNat).toNat % 16) ((s.waitState f x).barrierRead x).spent)) := by
  have ho := opened_opens hr
  have hwait : Opens s (s.waitState f x) := ho.touch _ _ _
  have hg {u : State} (h : Opens s u) : u.g.asid = s.g.asid ∧ u.g.winOf = s.g.winOf ∧ u.g.wr = s.g.wr := by
    obtain ⟨_, _, _, rfl⟩ := h
    exact ⟨rfl, rfl, rfl⟩
  obtain ⟨hasid, hwin, -⟩ := hg ho
  obtain ⟨-, -, hwr⟩ := hg hwait
  obtain ⟨body, hword, hbody⟩ := barrierWord_local (live := true) (.barrier 3 0 0) (tbwaitBody f) hx hep (by rw [hwin]; exact hlive) hmoving
  rw [hasid] at hbody
  have hread : (s.waitState f x).barrierRead x' = (s.waitState f x).barrierRead x := by simp only [State.barrierRead, hloc]
  obtain ⟨t, ht, hp⟩ := opens_segEnd_parks (p := tbwaitPlan f r.next x' ((s.g.wr f.b.toNat).toNat % 16)) true
    { Capture.zero with val := w32 ((s.waitState f x).barrierRead x).phase } hwait hissues hall hr hroom
    (fun h m hh => by rw [tbwait_verdict hx' hep' (by rw [hread, hphase, hwr]), hwr, hh]; rfl)
    (fun h g hg => by cases hg; exact ⟨x', (holding_barrierAt ..).trans hx', hep'⟩)
  exact word_parks ((exec_tbwait_eq f s).trans hword) hr hall.1 (hbody.trans (tbwaitBody_eq ht))
    (endBarrierOp_parks hep hep' hloc hphase (Nat.mod_lt _ (by omega)) hp)

end Sys2Proof.Machine

namespace Sys2Proof

open Machine

/-- Settles O22: every quad has arrived, so the verdict on the word parks them all; the records are written one after another
as the pool has room, and a TBWAIT whose barrier stands at zero counts wakes its own records. -/
theorem parksQuads : Obligations.ParksQuads := by
  intro s f r n a parksFrom parks next
  refine ⟨fun hmod hr hissues hall hroom => ?_, fun hmod hr hissues hall hroom => ?_, fun hmod hyield hr hissues hall hroom => ?_,
    fun hmod ha hr hissues hall hroom => ?_, fun hr hissues hall hroom => ?_, ?_, ?_⟩
  · have hmod3 : f.mod ≠ 3 := by rintro h; simp [h] at hmod
    exact park_parks (p := ParkPlan.now 0 n (some r.next)) (fun h => absurd h hmod3)
      (fun u h m ho hh => by rw [park_verdict_now ho hmod, hh]; rfl) (fun y hy => ⟨hy.kind, hy.wkind, hy.fired⟩) hr hissues hall hroom
  · have hmod3 : f.mod ≠ 3 := by rintro h; simp [h] at hmod
    exact park_parks (p := timePlan s f r.next) (fun h => absurd h hmod3) (fun u h m ho hh => park_verdict_time ho hmod hh)
      (fun y hy => ⟨hy.kind, hy.wkind, hy.wkey0, by rw [hy.fired]; simp [timePlan, a, BitVec.toNat_eq]⟩) hr hissues hall hroom
  · have hmod3 : f.mod ≠ 3 := by rintro h; simp [h] at hmod
    exact park_parks (p := ParkPlan.now 3 n none) (fun h => absurd h hmod3)
      (fun u h m ho hh => park_verdict_yield ho hmod hyield) (fun y hy => ⟨hy.kind, hy.wkind, hy.fired⟩) hr hissues hall hroom
  · exact park_parks (p := flagPlan s f r.next) (fun _ => ha) (fun u h m ho hh => park_verdict_flag ho hmod hh)
      (fun y hy => ⟨hy.kind, hy.wkind, hy.wkey0, by rw [hy.fired]; exact Bool.or_false _⟩) hr hissues hall hroom
  · exact segEnd_word_parks (p := ParkPlan.now 0 n (some r.next)) (c := Capture.zero) (show exec (.yield f) s = execYield f s from rfl)
      (fun _ _ => rfl) (fun _ h => by cases h) (fun u h m ho hh => by rw [hh]; rfl) (fun y hy => ⟨hy.kind, hy.wkind, hy.fired⟩)
      hr hissues hall hroom
  · intro ser hser hne hr hissues hall hroom
    subst hser
    exact segEnd_word_parks (p := awaitPlan s f r.next) (c := Capture.zero) (show exec (.await f) s = execAwait f s from rfl)
      (fun _ _ => rfl) (fun _ h => by cases h) (fun u h m ho hh => by rw [await_verdict hne ho, hh]; rfl)
      (fun y hy => ⟨hy.kind, hy.wkind, hy.wkey0, hy.wkey1, hy.evSerial, hy.dv, hy.dreg, hy.fired⟩) hr hissues hall hroom
  · intro s1 p p' hp hep hlive hmoving s2 b hp' hep' hloc hphase spent hr hissues hall hroom
    exact tbwait_parks hp hep hlive hmoving hp' hep' hloc hphase hr hissues hall hroom

end Sys2Proof
end
